-- ==== Sys2Proof/Word.lean ====
section
/-! DEFINITION. The word types of the O960 and the plainest arithmetic on them (R1, R2, R65). -/

namespace Sys2Proof

/-- One byte of memory. -/
abbrev Byte := BitVec 8

/-- The 32-bit value of one register in one lane (R45). -/
abbrev Word := BitVec 32

/-- A 64-bit value: a register pair (R36), a memory doubleword, a Kudu register. -/
abbrev DWord := BitVec 64

/-- A register field of an instruction word (R35). -/
abbrev Reg := BitVec 8

/-- A RISC-V register number. -/
abbrev XReg := BitVec 5

/-- The 32 lane values of one register, lane 0 first. -/
abbrev Lanes := List Word

/-- One bit per lane, bit l for lane l (R41). -/
abbrev Mask := BitVec 32

/-- The lane numbers 0 to 31 (R65). -/
def lanes : List Nat := List.range 32

end Sys2Proof
end

