-- ==== Sys2Proof/Config.lean ====
section
/-! DEFINITION. What the manual leaves open: uninterpreted functions with no body. Nothing in Lean can evaluate them or
prove a value of them, so a statement that mentions one holds whatever it is (log entries 2, 6, 11). -/

namespace Sys2Proof.Config

/-- A free number: a value the manual does not fix, one for each turn of the state's `free` counter (log entry 2, DESIGN CHOICE). -/
opaque freeNat : Nat → Nat

/-- A free choice: which of two behaviours the manual allows (log entry 2, DESIGN CHOICE). -/
opaque freeBit : Nat → Bool

/-- How many rounds an agent may be passed over in a row (R23; log entry 5, DESIGN CHOICE). -/
opaque patience : Nat

/-- A free register value, one for each turn and lane: the value bits of a marked accumulator element (R332). -/
opaque freeWord : Nat → Nat → Word

/-- The cipher of a 16-byte unit under a key and a tweak: some permutation of the blocks, and its inverse deciphers (R27, R182, R456; log
entry 11, DESIGN CHOICE). -/
opaque cipher : (key tweak : Nat) → Equiv.Perm (BitVec 128)

/-- SHA-512 (R457; log entry 11, DESIGN CHOICE). -/
opaque sha512 : List Byte → List Byte

/-- The 256-bit secret fused into the security engine of each hub at production (R453). -/
opaque deviceSecret : (hub : Nat) → List Byte

/-- The public half of the Ed25519 pair that an engine derives from a secret (R453; log entry 11, DESIGN CHOICE). -/
opaque publicKey : (secret : List Byte) → List Byte

/-- The Ed25519 signature over a message by the private half of the pair derived from a secret (R453; log entry 11, DESIGN CHOICE). -/
opaque sign : (secret msg : List Byte) → List Byte

/-- The identity public key of the module: hub 0's (R453). -/
def identityKey : List Byte := publicKey (deviceSecret 0)

/-- The signature by the module identity key over a message (R453, R461). -/
def identitySign (msg : List Byte) : List Byte := sign (deviceSecret 0) msg

/-- Whether an Ed25519 signature over a message verifies under a public key (R463, R464; log entry 11, DESIGN CHOICE). -/
opaque verifies : (key msg sig : List Byte) → Bool

/-- The serial number of the module (Table 15.1). -/
opaque serial : Nat

/-- Ghendi's production public key, which signs certificates and images (R453, R457, R465). -/
opaque productionKey : List Byte

/-- The Ed25519 signature by the production key over a message, made at production (R453; log entry 11, DESIGN CHOICE). -/
opaque productionSign : List Byte → List Byte

/-- The item that a hub's boot ROM measures into a platform register at reset (R457). -/
opaque bootItem : (hub r : Nat) → List Byte

/-- Whether a hub's boot image of a platform register verifies (R457). -/
opaque bootVerified : (hub r : Nat) → Bool

end Sys2Proof.Config
end

