-- ==== Sys2Proof/Machine/Table.lean ====
section
/-! DEFINITION. Sparse tables: lists of keys and values, keys strictly rising. `Table.put` keeps no entry equal to the
default, so equal contents are equal lists (memory, registers); `Table.ins` keeps every entry it is given (things that
exist or do not exist: warps, workgroups, queues). -/

namespace Sys2Proof.Machine

/-- A sparse table: keys strictly rising. -/
abbrev Table (β : Type) := List (Nat × β)

/-- The value listed at a key, if any. -/
def Table.find {β : Type} (k : Nat) : Table β → Option β
  | [] => none
  | (i, v) :: t => if i = k then some v else if k < i then none else Table.find k t

/-- The value at a key, `d` where none is listed. -/
def Table.get {β : Type} (d : β) (k : Nat) (t : Table β) : β := (Table.find k t).getD d

/-- Take a key out. -/
def Table.del {β : Type} (k : Nat) : Table β → Table β
  | [] => []
  | (i, v) :: t => if i = k then t else if k < i then (i, v) :: t else (i, v) :: Table.del k t

/-- List a value at a key, whatever it is. -/
def Table.ins {β : Type} (k : Nat) (x : β) : Table β → Table β
  | [] => [(k, x)]
  | (i, v) :: t =>
    if i = k then (k, x) :: t else if k < i then (k, x) :: (i, v) :: t else (i, v) :: Table.ins k x t

/-- Make the value at a key `x`, where unlisted keys read `d`: the default is never listed. -/
def Table.put {β : Type} [DecidableEq β] (d : β) (k : Nat) (x : β) (t : Table β) : Table β :=
  if x = d then Table.del k t else Table.ins k x t

/-- Change the value listed at a key, if it is listed. -/
def Table.modify {β : Type} (k : Nat) (f : β → β) (t : Table β) : Table β :=
  match Table.find k t with
  | none => t
  | some v => Table.ins k (f v) t

/-- The first key of a table lies above `k`, and the keys rise strictly from there. -/
def Table.sortedFrom {β : Type} (k : Nat) : Table β → Bool
  | [] => true
  | (i, _) :: t => decide (k ≤ i) && Table.sortedFrom (i + 1) t

/-- The canonical form of a table whose unlisted keys read `d`: keys strictly rising, no entry equal to `d`. -/
def Table.wf {β : Type} [DecidableEq β] (d : β) (t : Table β) : Bool :=
  Table.sortedFrom 0 t && t.all (fun e => decide (e.2 ≠ d))

/-- The first key not yet used, one past the last listed. -/
def Table.nextKey {β : Type} : Table β → Nat
  | [] => 0
  | [(i, _)] => i + 1
  | _ :: t => Table.nextKey t

/-- Change every value listed. -/
def Table.mapVals {β : Type} (f : β → β) (t : Table β) : Table β := t.map (fun e => (e.1, f e.2))

/-- The n consecutive bytes from key a on, lowest first. -/
def Table.bytes (t : Table Byte) (a : Nat) : Nat → List Byte
  | 0 => []
  | n + 1 => Table.get 0 a t :: Table.bytes t (a + 1) n

/-- Write consecutive bytes from key a on. -/
def Table.putBytes (t : Table Byte) (a : Nat) : List Byte → Table Byte
  | [] => t
  | b :: bs => Table.putBytes (Table.put 0 a b t) (a + 1) bs

/-- A little-endian number from its bytes (R1). -/
def leNat : List Byte → Nat
  | [] => 0
  | b :: bs => b.toNat + 256 * leNat bs

/-- The n bytes of a number, little-endian (R1). -/
def leBytes : Nat → Nat → List Byte
  | 0, _ => []
  | n + 1, x => BitVec.ofNat 8 x :: leBytes n (x / 256)

/-- Bits hi down to lo of a number (R65). -/
def bits (x hi lo : Nat) : Nat := (x / 2 ^ lo) % 2 ^ (hi + 1 - lo)

/-- The signed value of the low w bits of x (R65). -/
def sextN (x w : Nat) : Int :=
  let y : Nat := x % 2 ^ w
  if y < 2 ^ (w - 1) then (y : Int) else (y : Int) - 2 ^ w

/-- An integer wrapped to w bits (R65). -/
def wrapI (x : Int) (w : Nat) : Nat := (x % (2 ^ w : Int)).toNat

/-- x clamped to the signed range of w bits (R65). -/
def sats (x : Int) (w : Nat) : Int :=
  if x < -(2 ^ (w - 1) : Int) then -(2 ^ (w - 1) : Int)
  else if x > (2 ^ (w - 1) : Int) - 1 then (2 ^ (w - 1) : Int) - 1 else x

/-- x clamped to the unsigned range of w bits (R65). -/
def satu (x : Int) (w : Nat) : Int := if x < 0 then 0 else if x > (2 ^ w : Int) - 1 then (2 ^ w : Int) - 1 else x

/-- The value of a lane list in lane l. -/
def laneVal (v : Lanes) (l : Nat) : Word := v.getD l 0

/-- The lane list whose lane l holds f l. -/
def laneBuild (f : Nat → Word) : Lanes := lanes.map f

/-- The same value in every lane. -/
def laneSplat (x : Word) : Lanes := List.replicate 32 x

/-- Bit l of a lane mask. -/
def bitOf (m : Mask) (l : Nat) : Bool := m.getLsbD l

/-- The mask whose bit l is p l. -/
def maskOf (p : Nat → Bool) : Mask := BitVec.ofNat 32 (lanes.foldr (fun l n => 2 * n + (p l).toNat) 0)

/-- The number of set bits of a mask. -/
def maskCount (m : Mask) : Nat := (lanes.filter (bitOf m)).length

/-- The lowest set bit of a mask. -/
def maskLow (m : Mask) : Option Nat := lanes.find? (bitOf m)

/-- Element i of a list replaced, where there is one. -/
def listSet {β : Type} (i : Nat) (x : β) : List β → List β
  | [] => []
  | y :: t => if i = 0 then x :: t else y :: listSet (i - 1) x t

/-- Element i of a list taken out. -/
def listDel {β : Type} (i : Nat) (t : List β) : List β := t.eraseIdx i

/-- Put an element before the first one that is to come after it. -/
def insertBy {β : Type} (le : β → β → Bool) (x : β) : List β → List β
  | [] => [x]
  | y :: t => if le x y && !le y x then x :: y :: t else y :: insertBy le x t

/-- A stable insertion sort. -/
def sortBy {β : Type} (le : β → β → Bool) (l : List β) : List β := l.foldl (fun acc x => insertBy le x acc) []

/-- A list without its repeats, first occurrences kept. -/
def dedup {β : Type} [DecidableEq β] (l : List β) : List β :=
  l.foldl (fun acc x => if acc.contains x then acc else acc ++ [x]) []

/-- The largest of some numbers, 0 for none. -/
def maxNat (l : List Nat) : Nat := l.foldl Nat.max 0

/-- Whether two byte ranges overlap. -/
def overlaps (a n b m : Nat) : Bool := decide (a < b + m) && decide (b < a + n)

end Sys2Proof.Machine
end

