-- ==== Sys2Proof/Syntax.lean ====
section
/-! DEFINITION. The instructions and events of the O960: one constructor of `Instr` for each row of spec/opcode_table.json.
The Vodon instructions carry the common header (R33) and the fields their entries name (R34); the Kudu instructions
carry their register numbers (R408); the hardware events of 95_what_each_step_holds.md carry what distinguishes one
occurrence from another. -/

namespace Sys2Proof

/-- The common header of a Vodon word, bits [63:54] and [47:40] (R33, Table 02.1). -/
structure Hdr where
  gap : BitVec 10
  g : Bool
  sense : Bool
  guard : BitVec 6
deriving DecidableEq, Repr

/-- The header with gap 0 and no guard. -/
def Hdr.plain : Hdr := ⟨0, false, false, 0⟩

/-- The type suffix of an integer instruction (R82). -/
inductive IntTy where
  | si32 | ui32
deriving DecidableEq, Repr

/-- The three address spaces (R24, Table 07.4). -/
inductive Space where
  | priv | clus | glob
deriving DecidableEq, Repr

/-- The rounding modes (R103). -/
inductive Rnd where
  | rn | rz | rd | ru | sr
deriving DecidableEq, Repr

/-- The relations of `SET` (Table 03.5). -/
inductive SetCc where
  | eq | ne | ltS | leS | ltU | leU
deriving DecidableEq, Repr

/-- The relations of `FSET` (Table 04.9). -/
inductive FsetCc where
  | eq | ne | lt | le | un
deriving DecidableEq, Repr

/-- The formats of packed arithmetic (R107). -/
inductive PackFmt where
  | f16 | bf16
deriving DecidableEq, Repr

/-- The packed weight formats (R101). -/
inductive QFmt where
  | q4 | q3
deriving DecidableEq, Repr

/-- The kinds of a load (Table 06.8a). -/
inductive LdKind where
  | ui8 | si8 | ui16 | si16 | w32 | w64 | w128
deriving DecidableEq, Repr

/-- The kinds of a store (Table 06.8b). -/
inductive StKind where
  | w8 | w16 | w32 | w64 | w128
deriving DecidableEq, Repr

/-- The widths of `LDA`, `SLD` and `SST` (Table 06.8d). -/
inductive Width where
  | w32 | w64 | w128
deriving DecidableEq, Repr

/-- Activation formats of a matrix minor (Table 10.1). -/
inductive ActFmt where
  | bf16 | e4m3 | e5m2
deriving DecidableEq, Repr

/-- Weight formats of a matrix minor (Table 10.1). -/
inductive WgtFmt where
  | q4 | q3 | e4m3
deriving DecidableEq, Repr

/-- Scale formats of `SACC` (R337). -/
inductive ScaleFmt where
  | f32 | bf16
deriving DecidableEq, Repr

/-- Scale modes of `SACC` (R337). -/
inductive SaccMode where
  | col | row | rc
deriving DecidableEq, Repr

/-- What an access does, for translation permissions (R184). -/
inductive AccessKind where
  | load | store | fetch | rmw
deriving DecidableEq, Repr

/-- The two custom supervisor CSRs (Table 13.1). -/
inductive CsrName where
  | vspq | vhasid
deriving DecidableEq, Repr

/-- What a patrol scrub finds in a sector (R441). -/
inductive ScrubResult where
  | clean | corrected | uncorrectable
deriving DecidableEq, Repr

/-- A RISC-V access of a Kudu hart: a load that extends the sign, one that does not, a store, the pair of a load-reserved and a
store-conditional, atomics, and a fence (R216, R406). -/
inductive HartAccess where
  | load | loadU | store | lr | sc | amoAdd | amoSwap | amoAnd | amoOr | amoXor | amoMin | amoMax | amoMinu | amoMaxu | fence
deriving DecidableEq, Repr

/-- The operations of the atomics (Table 07.5). -/
inductive AtomOp where
  | add | addF32 | minS | minU | maxS | maxU | and | or | xor | exch | cas | inc
deriving DecidableEq, Repr

/-- The operation a remote module asks for (R452): an access, or one that synchronises (R217). -/
inductive RemoteOp where
  | load | store | ldaq | strl | atom (op : AtomOp) | red (op : AtomOp)
deriving DecidableEq, Repr

/-- A message on a port: its sender's incarnation and what it says (R437); that of a lane's request of an atomic names its warp and lane
(R477). -/
structure LinkMsg where
  inc : Nat
  body : Nat
deriving DecidableEq, Repr

/-- A remote access message (R452): the operation, its local physical address, its size in bytes, its data and compare value; for one
that synchronises its scope and its party: chiplet, cluster of the chiplet, core, workgroup, warp, lane and group (R217, R237);
and the clock of the sending hub (R219, R221). -/
structure RemoteReq where
  op : RemoteOp
  pa : Nat
  size : Nat
  data : DWord
  compare : DWord
  scope : Nat
  chip : Nat
  cluster : Nat
  core : Nat
  wg : Nat
  warp : Nat
  lane : Nat
  group : Nat
  clock : Nat
deriving DecidableEq, Repr

/-- A cause with its subcode, whether the fetch of the word raised it, and its trap value in each lane (R379, R380).
An empty list of trap values stands for 0 in every lane. -/
structure CauseInfo where
  code : Byte
  sub : Byte
  fetch : Bool
  tval : Lanes
  tvalh : Lanes
deriving DecidableEq, Repr

/-- One constructor for each row of spec/opcode_table.json. -/
inductive Instr where
  /-- ABS (R80). Writes the saturating absolute value of each active lane's signed operand. -/
  | abs (h : Hdr) (dst : Reg) (a : Reg)
  /-- ADD (R81). Register form: adds two 32-bit registers per active lane, wrapping modulo 2^32. -/
  | add (h : Hdr) (dst : Reg) (a : Reg) (b : Reg)
  /-- ADD_IMM (R81). Immediate form: adds a sign-extended 16-bit immediate to a register per active lane. -/
  | addImm (h : Hdr) (dst : Reg) (a : Reg) (imm : BitVec 16)
  /-- SUB (R81). Subtracts two 32-bit registers per active lane, wrapping modulo 2^32. -/
  | sub (h : Hdr) (dst : Reg) (a : Reg) (b : Reg)
  /-- ADD_SAT (R82). Adds two registers, saturating to the signed or unsigned 32-bit range. -/
  | addSat (h : Hdr) (ty : IntTy) (dst : Reg) (a : Reg) (b : Reg)
  /-- SUB_SAT (R82). Subtracts two registers, saturating to the signed or unsigned 32-bit range. -/
  | subSat (h : Hdr) (ty : IntTy) (dst : Reg) (a : Reg) (b : Reg)
  /-- ADD64 (R83). Adds two 64-bit register pairs per active lane, wrapping modulo 2^64. -/
  | add64 (h : Hdr) (dst : Reg) (a : Reg) (b : Reg)
  /-- SUB64 (R83). Subtracts two 64-bit register pairs per active lane, wrapping modulo 2^64. -/
  | sub64 (h : Hdr) (dst : Reg) (a : Reg) (b : Reg)
  /-- ADDA (R84). Adds a scaled sign-extended immediate to a 64-bit address pair. -/
  | adda (h : Hdr) (sc : Fin 5) (dst : Reg) (a : Reg) (imm : BitVec 16)
  /-- ADDX (R85). Adds a scaled signed or unsigned register index to a 64-bit address pair. -/
  | addx (h : Hdr) (ty : IntTy) (sc : Fin 5) (dst : Reg) (a : Reg) (b : Reg)
  /-- AFF (R86). Builds base plus stride times lane, tagged affine on the affine unit when possible. -/
  | aff (h : Hdr) (dst : Reg) (a : Reg) (b : Reg)
  /-- AND (R87). Register form: bitwise AND of two registers. -/
  | andR (h : Hdr) (dst : Reg) (a : Reg) (b : Reg)
  /-- AND_IMM (R87). Immediate form: bitwise AND with a zero-extended 16-bit immediate. -/
  | andImm (h : Hdr) (dst : Reg) (a : Reg) (imm : BitVec 16)
  /-- OR (R87). Register form: bitwise OR of two registers. -/
  | orR (h : Hdr) (dst : Reg) (a : Reg) (b : Reg)
  /-- OR_IMM (R87). Immediate form: bitwise OR with a zero-extended 16-bit immediate. -/
  | orImm (h : Hdr) (dst : Reg) (a : Reg) (imm : BitVec 16)
  /-- XOR (R87). Register form: bitwise exclusive-or of two registers. -/
  | xorR (h : Hdr) (dst : Reg) (a : Reg) (b : Reg)
  /-- XOR_IMM (R87). Immediate form: bitwise exclusive-or with a zero-extended 16-bit immediate. -/
  | xorImm (h : Hdr) (dst : Reg) (a : Reg) (imm : BitVec 16)
  /-- ANDN (R87). Computes a AND NOT b per active lane. -/
  | andn (h : Hdr) (dst : Reg) (a : Reg) (b : Reg)
  /-- BFI (R88). Inserts a bit field of a into base c at the position and width given by b. -/
  | bfi (h : Hdr) (dst : Reg) (a : Reg) (b : Reg) (c : Reg)
  /-- BFX (R89). Extracts a bit field of a, zero- or sign-extended. -/
  | bfx (h : Hdr) (ty : IntTy) (dst : Reg) (a : Reg) (b : Reg)
  /-- BREV (R90). Reverses the 32 bits of a. -/
  | brev (h : Hdr) (dst : Reg) (a : Reg)
  /-- CLZ (R90). Counts leading zero bits of a. -/
  | clz (h : Hdr) (dst : Reg) (a : Reg)
  /-- CTZ (R90). Counts trailing zero bits of a. -/
  | ctz (h : Hdr) (dst : Reg) (a : Reg)
  /-- POPC (R90). Counts one bits of a. -/
  | popc (h : Hdr) (dst : Reg) (a : Reg)
  /-- FORM (R91). Writes the representation tag code of a register, on the affine unit. -/
  | form (h : Hdr) (dst : Reg) (a : Reg)
  /-- LI (R92). Loads a 32-bit immediate into every active lane. -/
  | li (h : Hdr) (dst : Reg) (imm : Word)
  /-- MUL (R93). Register form: low 32 bits of the product of two registers. -/
  | mul (h : Hdr) (dst : Reg) (a : Reg) (b : Reg)
  /-- MUL_IMM (R93). Immediate form: low 32 bits of the product with a sign-extended immediate. -/
  | mulImm (h : Hdr) (dst : Reg) (a : Reg) (imm : BitVec 16)
  /-- MAD (R93). Low 32 bits of a times b plus c. -/
  | mad (h : Hdr) (dst : Reg) (a : Reg) (b : Reg) (c : Reg)
  /-- MIN (R94). Writes the smaller of two registers, signed or unsigned. -/
  | min (h : Hdr) (ty : IntTy) (dst : Reg) (a : Reg) (b : Reg)
  /-- MAX (R94). Writes the larger of two registers, signed or unsigned. -/
  | max (h : Hdr) (ty : IntTy) (dst : Reg) (a : Reg) (b : Reg)
  /-- MULHI (R95). Writes the high 32 bits of the 64-bit product. -/
  | mulhi (h : Hdr) (ty : IntTy) (dst : Reg) (a : Reg) (b : Reg)
  /-- MULW (R95). Writes the whole 64-bit product to a register pair. -/
  | mulw (h : Hdr) (ty : IntTy) (dst : Reg) (a : Reg) (b : Reg)
  /-- SHL (R96). Register form: shifts left by the unsigned count in b. -/
  | shl (h : Hdr) (dst : Reg) (a : Reg) (b : Reg)
  /-- SHL_IMM (R96). Immediate form: shifts left by a count 0-31. -/
  | shlImm (h : Hdr) (dst : Reg) (a : Reg) (n : BitVec 5)
  /-- SHR (R96). Register form: logical right shift by the count in b. -/
  | shr (h : Hdr) (dst : Reg) (a : Reg) (b : Reg)
  /-- SHR_IMM (R96). Immediate form: logical right shift by a count 0-31. -/
  | shrImm (h : Hdr) (dst : Reg) (a : Reg) (n : BitVec 5)
  /-- SRA (R96). Register form: arithmetic right shift by the count in b. -/
  | sra (h : Hdr) (dst : Reg) (a : Reg) (b : Reg)
  /-- SRA_IMM (R96). Immediate form: arithmetic right shift by a count 0-31. -/
  | sraImm (h : Hdr) (dst : Reg) (a : Reg) (n : BitVec 5)
  /-- ROL (R96). Register form: rotates left by the count in b modulo 32. -/
  | rol (h : Hdr) (dst : Reg) (a : Reg) (b : Reg)
  /-- ROL_IMM (R96). Immediate form: rotates left by a count 0-31. -/
  | rolImm (h : Hdr) (dst : Reg) (a : Reg) (n : BitVec 5)
  /-- SEL (R97). Selects a or b per lane by bit 0 of c. -/
  | sel (h : Hdr) (dst : Reg) (a : Reg) (b : Reg) (c : Reg)
  /-- SET (R98). Integer compare writing 1 or 0 per active lane. -/
  | set (h : Hdr) (cc : SetCc) (dst : Reg) (a : Reg) (b : Reg)
  /-- RCP (R113). Correctly rounded reciprocal in F32. -/
  | rcp (h : Hdr) (dst : Reg) (a : Reg)
  /-- RSQ (R113). Correctly rounded reciprocal square root in F32. -/
  | rsq (h : Hdr) (dst : Reg) (a : Reg)
  /-- EX2 (R113). Correctly rounded base-2 exponential in F32. -/
  | ex2 (h : Hdr) (dst : Reg) (a : Reg)
  /-- LG2 (R113). Correctly rounded base-2 logarithm in F32. -/
  | lg2 (h : Hdr) (dst : Reg) (a : Reg)
  /-- SIN (R113). Correctly rounded sin(pi x) in F32. -/
  | sin (h : Hdr) (dst : Reg) (a : Reg)
  /-- COS (R113). Correctly rounded cos(pi x) in F32. -/
  | cos (h : Hdr) (dst : Reg) (a : Reg)
  /-- TANH (R113). Correctly rounded hyperbolic tangent in F32. -/
  | tanh (h : Hdr) (dst : Reg) (a : Reg)
  /-- CVT_F32_SI32 (R114). Converts a signed integer to F32 under the rounding mode. -/
  | cvtF32Si32 (h : Hdr) (m : Rnd) (dst : Reg) (a : Reg)
  /-- CVT_F32_UI32 (R114). Converts an unsigned integer to F32 under the rounding mode. -/
  | cvtF32Ui32 (h : Hdr) (m : Rnd) (dst : Reg) (a : Reg)
  /-- CVT_SI32_F32 (R114). Converts F32 to a clamped signed integer; NaN gives 0. -/
  | cvtSi32F32 (h : Hdr) (m : Rnd) (dst : Reg) (a : Reg)
  /-- CVT_UI32_F32 (R114). Converts F32 to a clamped unsigned integer; NaN gives 0. -/
  | cvtUi32F32 (h : Hdr) (m : Rnd) (dst : Reg) (a : Reg)
  /-- CVT_BF16_F32 (R115). Narrows two F32 values to two BF16 halves, with optional stochastic rounding. -/
  | cvtBf16F32 (h : Hdr) (m : Rnd) (dst : Reg) (a : Reg) (b : Reg) (c : Reg)
  /-- CVT_F16_F32 (R115). Narrows two F32 values to two F16 halves, with optional stochastic rounding. -/
  | cvtF16F32 (h : Hdr) (m : Rnd) (dst : Reg) (a : Reg) (b : Reg) (c : Reg)
  /-- CVT_E4M3_F32 (R115). Narrows two F32 values to E4M3 bytes in one half of dst, keeping the other half. -/
  | cvtE4m3F32 (h : Hdr) (half : Bool) (m : Rnd) (dst : Reg) (a : Reg) (b : Reg) (c : Reg)
  /-- CVT_E5M2_F32 (R115). Narrows two F32 values to E5M2 bytes in one half of dst, keeping the other half. -/
  | cvtE5m2F32 (h : Hdr) (half : Bool) (m : Rnd) (dst : Reg) (a : Reg) (b : Reg) (c : Reg)
  /-- CVT_F32_BF16 (R116). Widens a selected BF16 half to F32 exactly. -/
  | cvtF32Bf16 (h : Hdr) (half : Bool) (dst : Reg) (a : Reg)
  /-- CVT_F32_F16 (R116). Widens a selected F16 half to F32 exactly. -/
  | cvtF32F16 (h : Hdr) (half : Bool) (dst : Reg) (a : Reg)
  /-- CVT_F32_E4M3 (R116). Widens a selected E4M3 byte to F32 exactly. -/
  | cvtF32E4m3 (h : Hdr) (byte : BitVec 2) (dst : Reg) (a : Reg)
  /-- CVT_F32_E5M2 (R116). Widens a selected E5M2 byte to F32 exactly. -/
  | cvtF32E5m2 (h : Hdr) (byte : BitVec 2) (dst : Reg) (a : Reg)
  /-- FABS (R117). Clears the sign bit of the pattern. -/
  | fabs (h : Hdr) (dst : Reg) (a : Reg)
  /-- FNEG (R117). Inverts the sign bit of the pattern. -/
  | fneg (h : Hdr) (dst : Reg) (a : Reg)
  /-- FADD (R118). F32 add, rounded once. -/
  | fadd (h : Hdr) (m : Rnd) (dst : Reg) (a : Reg) (b : Reg)
  /-- FSUB (R118). F32 subtract, rounded once. -/
  | fsub (h : Hdr) (m : Rnd) (dst : Reg) (a : Reg) (b : Reg)
  /-- FMUL (R118). F32 multiply, rounded once. -/
  | fmul (h : Hdr) (m : Rnd) (dst : Reg) (a : Reg) (b : Reg)
  /-- FFMA (R118). F32 fused multiply-add with a single rounding. -/
  | ffma (h : Hdr) (m : Rnd) (dst : Reg) (a : Reg) (b : Reg) (c : Reg)
  /-- FCLASS (R119). Writes a one-hot class word for an F32 value. -/
  | fclass (h : Hdr) (dst : Reg) (a : Reg)
  /-- FMIN (R120). Writes the smaller F32 operand, NaN-avoiding. -/
  | fmin (h : Hdr) (dst : Reg) (a : Reg) (b : Reg)
  /-- FMAX (R120). Writes the larger F32 operand, NaN-avoiding. -/
  | fmax (h : Hdr) (dst : Reg) (a : Reg) (b : Reg)
  /-- FRND (R121). Rounds F32 to an integral F32 value under the mode. -/
  | frnd (h : Hdr) (m : Rnd) (dst : Reg) (a : Reg)
  /-- FSET (R122). F32 compare writing 1 or 0 per active lane. -/
  | fset (h : Hdr) (cc : FsetCc) (dst : Reg) (a : Reg) (b : Reg)
  /-- PADD (R123). Packed F16 or BF16 add per half. -/
  | padd (h : Hdr) (f : PackFmt) (m : Rnd) (dst : Reg) (a : Reg) (b : Reg)
  /-- PMUL (R123). Packed F16 or BF16 multiply per half. -/
  | pmul (h : Hdr) (f : PackFmt) (m : Rnd) (dst : Reg) (a : Reg) (b : Reg)
  /-- PFMA (R123). Packed F16 or BF16 fused multiply-add per half. -/
  | pfma (h : Hdr) (f : PackFmt) (m : Rnd) (dst : Reg) (a : Reg) (b : Reg) (c : Reg)
  /-- PMIN (R123). Packed F16 or BF16 minimum per half. -/
  | pmin (h : Hdr) (f : PackFmt) (dst : Reg) (a : Reg) (b : Reg)
  /-- PMAX (R123). Packed F16 or BF16 maximum per half. -/
  | pmax (h : Hdr) (f : PackFmt) (dst : Reg) (a : Reg) (b : Reg)
  /-- PDOT (R124). Two-term packed dot product plus F32 c, rounded once to F32. -/
  | pdot (h : Hdr) (f : PackFmt) (m : Rnd) (dst : Reg) (a : Reg) (b : Reg) (c : Reg)
  /-- QNT (R125). Quantizes a scaled F32 value to a Q4 or Q3 integer. -/
  | qnt (h : Hdr) (q : QFmt) (m : Rnd) (dst : Reg) (a : Reg) (b : Reg) (c : Reg)
  /-- QPK (R126). Packs 32 lanes' Q4 or Q3 elements into a group string spread over lanes. -/
  | qpk (h : Hdr) (q : QFmt) (dst : Reg) (a : Reg)
  /-- QUNPK (R126). Unpacks a Q4 or Q3 group string into one sign-extended element per lane. -/
  | qunpk (h : Hdr) (q : QFmt) (dst : Reg) (a : Reg)
  /-- SPMK (R127). Builds the sparsity mask of lanes whose a is not zero. -/
  | spmk (h : Hdr) (dst : Reg) (a : Reg)
  /-- SPCMP (R127). Compacts lane values selected by a per-lane mask. -/
  | spcmp (h : Hdr) (dst : Reg) (a : Reg) (b : Reg)
  /-- BRA (R157). Direct branch taken when any enabled lane's guard is true. -/
  | bra (h : Hdr) (off : BitVec 24)
  /-- BRA_ALL (R157). Direct branch taken when every enabled lane's guard is true. -/
  | braAll (h : Hdr) (off : BitVec 24)
  /-- BRA_NONE (R157). Direct branch taken when no enabled lane's guard is true. -/
  | braNone (h : Hdr) (off : BitVec 24)
  /-- BRS (R139). Spawning branch: splits lanes, writes the minority to Millpond and continues with the majority. -/
  | brs (h : Hdr) (live : Reg) (off : BitVec 24)
  /-- CALL (R159). Direct call writing the link pair of active lanes when taken. -/
  | call (h : Hdr) (link : Reg) (off : BitVec 24)
  /-- ENDMELD (R160). Closes a melded region, restoring the entry mask. -/
  | endmeld (h : Hdr)
  /-- EXIT (R161). Ends the warp and releases its registers after outstanding results land. -/
  | exit (h : Hdr)
  /-- JMP (R162). Indirect jump to the address in the lowest active lane. -/
  | jmp (h : Hdr) (a : Reg)
  /-- JMPL (R162). Indirect jump that writes the link pair. -/
  | jmpl (h : Hdr) (dst : Reg) (a : Reg)
  /-- RET (R162). Indirect jump marked as a return for prediction. -/
  | ret (h : Hdr) (a : Reg)
  /-- LOOP (R163). Advances a temporal loop counter and branches back until its extent. -/
  | loop (h : Hdr) (n : Fin 6) (off : BitVec 16)
  /-- MAND (R164). Saves the mask and narrows it to lanes whose bit 0 of a is 1. -/
  | mand (h : Hdr) (dst : Reg) (a : Reg)
  /-- MANDN (R164). Saves the mask and narrows it to lanes whose bit 0 of a is 0. -/
  | mandn (h : Hdr) (dst : Reg) (a : Reg)
  /-- MELD (R165). Opens a melded region, setting path bits from the path register. -/
  | meld (h : Hdr) (vp : BitVec 6)
  /-- MELSE (R166). Sets the mask to lane 0 of a AND NOT the mask. -/
  | melse (h : Hdr) (a : Reg)
  /-- MSET (R166). Sets the mask to lane 0 of a. -/
  | mset (h : Hdr) (a : Reg)
  /-- MVOTE (R167). Writes the ballot of enabled lanes whose bit 0 of a is 1 to all lanes. -/
  | mvote (h : Hdr) (dst : Reg) (a : Reg)
  /-- NOP (R168). Does nothing but honour its gap. -/
  | nop (h : Hdr)
  /-- RNM (R169). Loads one rename entry of each path table. -/
  | rnm (h : Hdr) (i : BitVec 4) (x : Reg) (y : Reg)
  /-- ALIGN (R147). Arrives at a counted window's formation and waits for the other participants. -/
  | align (h : Hdr) (a : Reg)
  /-- UNALIGN (R170). Takes the warp out of its counted window into dynamic mode. -/
  | unalign (h : Hdr)
  /-- LD (R208). Loads 1 to 16 bytes per active lane from private, cluster or global space. -/
  | ld (h : Hdr) (sp : Space) (k : LdKind) (dst : Reg) (a : Reg) (imm : BitVec 16)
  /-- ST (R215). Stores 1 to 16 bytes per active lane to private, cluster or global space. -/
  | st (h : Hdr) (sp : Space) (k : StKind) (d : Reg) (a : Reg) (imm : BitVec 16)
  /-- FLUSH_G (R207). Writes a line's dirty sectors to its home slice and keeps it. -/
  | flushG (h : Hdr) (a : Reg) (imm : BitVec 16)
  /-- INVAL_G (R207). Writes back a line's dirty sectors and invalidates it in core and cluster storage. -/
  | invalG (h : Hdr) (a : Reg) (imm : BitVec 16)
  /-- LDA (R209). Issues an asynchronous load whose landing writes dst and a token register. -/
  | lda (h : Hdr) (sp : Space) (w : Width) (dst : Reg) (a : Reg) (tok : Reg)
  /-- SOPEN_LD (R212). Opens a load stream from a checked pattern record and starts generation. -/
  | sopenLd (h : Hdr) (slot : BitVec 3) (rec : Reg) (coord : Reg)
  /-- SOPEN_ST (R212). Opens a store stream from a checked pattern record. -/
  | sopenSt (h : Hdr) (slot : BitVec 3) (rec : Reg) (coord : Reg)
  /-- SCLOSE (R210). Closes a stream slot, discarding load data or draining stores in the background. -/
  | sclose (h : Hdr) (slot : BitVec 3)
  /-- SLD (R211). Takes the next 32 elements of a load stream into the lanes. -/
  | sld (h : Hdr) (w : Width) (dst : Reg) (slot : BitVec 3)
  /-- SST (R213). Supplies the next 32 elements to a store stream. -/
  | sst (h : Hdr) (w : Width) (slot : BitVec 3) (a : Reg)
  /-- SSTAT (R214). Reads a stream's status word. -/
  | sstat (h : Hdr) (dst : Reg) (slot : BitVec 3)
  /-- SSTAT_STALL (R214). Reads a stream's lost-decoupling stall counter. -/
  | sstatStall (h : Hdr) (dst : Reg) (slot : BitVec 3)
  /-- SSTAT_POISON (R214). Reads a stream's count of zero-substituted elements. -/
  | sstatPoison (h : Hdr) (dst : Reg) (slot : BitVec 3)
  /-- BANKMODE (R205). Switches a granted cluster bank's mode after in-flight accesses complete, zeroing it. -/
  | bankmode (h : Hdr) (dst : Reg) (a : Reg) (b : Reg)
  /-- BANKQ (R206). Reads a bank's control register or the caller's cache counters. -/
  | bankq (h : Hdr) (dst : Reg) (a : Reg) (b : Reg)
  /-- LDAQ (R252). Load-acquire from the storage shared at the named scope. -/
  | ldaq (h : Hdr) (sc : BitVec 4) (sp : Space) (w64 : Bool) (dst : Reg) (a : Reg)
  /-- STRL (R254). Release at the named scope followed by a store. -/
  | strl (h : Hdr) (sc : BitVec 4) (sp : Space) (w64 : Bool) (a : Reg) (b : Reg)
  /-- ATOM_ADD (R250). Atomic integer add returning the old value. -/
  | atomAdd (h : Hdr) (sc : BitVec 4) (sp : Space) (w64 : Bool) (dst : Reg) (a : Reg) (b : Reg)
  /-- ATOM_ADD_F32 (R250). Atomic F32 add returning the old value. -/
  | atomAddF32 (h : Hdr) (sc : BitVec 4) (sp : Space) (dst : Reg) (a : Reg) (b : Reg)
  /-- ATOM_MIN (R250). Atomic signed or unsigned minimum returning the old value. -/
  | atomMin (h : Hdr) (ty : IntTy) (sc : BitVec 4) (sp : Space) (dst : Reg) (a : Reg) (b : Reg)
  /-- ATOM_MAX (R250). Atomic signed or unsigned maximum returning the old value. -/
  | atomMax (h : Hdr) (ty : IntTy) (sc : BitVec 4) (sp : Space) (dst : Reg) (a : Reg) (b : Reg)
  /-- ATOM_AND (R250). Atomic AND returning the old value. -/
  | atomAnd (h : Hdr) (sc : BitVec 4) (sp : Space) (w64 : Bool) (dst : Reg) (a : Reg) (b : Reg)
  /-- ATOM_OR (R250). Atomic OR returning the old value. -/
  | atomOr (h : Hdr) (sc : BitVec 4) (sp : Space) (w64 : Bool) (dst : Reg) (a : Reg) (b : Reg)
  /-- ATOM_XOR (R250). Atomic exclusive-or returning the old value. -/
  | atomXor (h : Hdr) (sc : BitVec 4) (sp : Space) (w64 : Bool) (dst : Reg) (a : Reg) (b : Reg)
  /-- ATOM_EXCH (R250). Atomic exchange returning the old value. -/
  | atomExch (h : Hdr) (sc : BitVec 4) (sp : Space) (w64 : Bool) (dst : Reg) (a : Reg) (b : Reg)
  /-- ATOM_CAS (R250). Atomic compare-and-swap against dst, returning the old value. -/
  | atomCas (h : Hdr) (sc : BitVec 4) (sp : Space) (w64 : Bool) (dst : Reg) (a : Reg) (b : Reg)
  /-- ATOM_INC (R250). Atomic wrapping increment bounded by b, returning the old value. -/
  | atomInc (h : Hdr) (sc : BitVec 4) (sp : Space) (dst : Reg) (a : Reg) (b : Reg)
  /-- RED_ADD (R253). Reduction integer add with no returned value. -/
  | redAdd (h : Hdr) (sc : BitVec 4) (sp : Space) (w64 : Bool) (a : Reg) (b : Reg)
  /-- RED_ADD_F32 (R253). Reduction F32 add with no returned value. -/
  | redAddF32 (h : Hdr) (sc : BitVec 4) (sp : Space) (a : Reg) (b : Reg)
  /-- RED_MIN (R253). Reduction minimum with no returned value. -/
  | redMin (h : Hdr) (ty : IntTy) (sc : BitVec 4) (sp : Space) (a : Reg) (b : Reg)
  /-- RED_MAX (R253). Reduction maximum with no returned value. -/
  | redMax (h : Hdr) (ty : IntTy) (sc : BitVec 4) (sp : Space) (a : Reg) (b : Reg)
  /-- RED_AND (R253). Reduction AND with no returned value. -/
  | redAnd (h : Hdr) (sc : BitVec 4) (sp : Space) (w64 : Bool) (a : Reg) (b : Reg)
  /-- RED_OR (R253). Reduction OR with no returned value. -/
  | redOr (h : Hdr) (sc : BitVec 4) (sp : Space) (w64 : Bool) (a : Reg) (b : Reg)
  /-- RED_XOR (R253). Reduction exclusive-or with no returned value. -/
  | redXor (h : Hdr) (sc : BitVec 4) (sp : Space) (w64 : Bool) (a : Reg) (b : Reg)
  /-- FENCE_REL (R224). Release fence: waits for earlier accesses and raises program versions. -/
  | fenceRel (h : Hdr) (sc : BitVec 4)
  /-- FENCE_ACQ (R225). Acquire fence: raises program versions from the observed version and clocks. -/
  | fenceAcq (h : Hdr) (sc : BitVec 4)
  /-- FENCE_AR (R251). Performs a release and then an acquire at the named scope. -/
  | fenceAr (h : Hdr) (sc : BitVec 4)
  /-- BINIT (R274). Initialises a named barrier and advances its generation. -/
  | binit (h : Hdr) (bar : BitVec 4) (a : Reg)
  /-- BARV (R273). Arrives on a named barrier as a release. -/
  | barv (h : Hdr) (bar : BitVec 4)
  /-- BARV_EXP (R273). Arrives on a barrier and adds expected bytes. -/
  | barvExp (h : Hdr) (bar : BitVec 4) (a : Reg)
  /-- BEXP (R273). Adds expected bytes to a barrier without arriving. -/
  | bexp (h : Hdr) (bar : BitVec 4) (a : Reg)
  /-- BDROP (R273). Lowers a barrier's expected member count by one. -/
  | bdrop (h : Hdr) (bar : BitVec 4)
  /-- BWAIT (R277). Waits until a barrier's phase differs from the given parity, then acquires. -/
  | bwait (h : Hdr) (dst : Reg) (bar : BitVec 4) (a : Reg)
  /-- BTEST (R276). Reads a barrier word atomically without waiting. -/
  | btest (h : Hdr) (dst : Reg) (bar : BitVec 4)
  /-- BSYNC (R275). Arrives on a barrier and waits for its phase to flip. -/
  | bsync (h : Hdr) (bar : BitVec 4)
  /-- QMOV_PUSH (R281). Pushes a warp-wide entry to a queue port, waiting while full. -/
  | qmovPush (h : Hdr) (q : BitVec 3) (a : Reg)
  /-- QMOV_POP (R281). Pops the oldest queue entry, waiting while empty, then acquires. -/
  | qmovPop (h : Hdr) (dst : Reg) (q : BitVec 3)
  /-- QMOV_PEEK (R281). Reads the oldest queue entry without removing it. -/
  | qmovPeek (h : Hdr) (dst : Reg) (q : BitVec 3)
  /-- QMOV_STAT (R282). Reads the number of entries in a queue. -/
  | qmovStat (h : Hdr) (dst : Reg) (q : BitVec 3)
  /-- JADD (R278). Releases, then atomically adds a count to a join counter. -/
  | jadd (h : Hdr) (sc : BitVec 4) (sp : Space) (a : Reg) (b : Reg)
  /-- JARR (R278). Releases, then subtracts the enabled lane count from a join counter. -/
  | jarr (h : Hdr) (sc : BitVec 4) (sp : Space) (a : Reg)
  /-- JWAIT (R280). Waits until a join counter reads exactly 0, then acquires. -/
  | jwait (h : Hdr) (sc : BitVec 4) (sp : Space) (a : Reg)
  /-- JPOLL (R279). Reads a join counter and acquires without waiting. -/
  | jpoll (h : Hdr) (sc : BitVec 4) (sp : Space) (dst : Reg) (a : Reg)
  /-- CPY_G2P (R315). Tensor copy from global to a private tile, optionally with a follow-on command. -/
  | cpyG2p (h : Hdr) (bar : BitVec 4) (rec : Reg) (coord : Reg) (follow : Reg)
  /-- CPY_P2G (R315). Tensor copy from a private tile to global. -/
  | cpyP2g (h : Hdr) (bar : BitVec 4) (rec : Reg) (coord : Reg) (follow : Reg)
  /-- CPY_C2P (R315). Tensor copy from cluster space to a private tile. -/
  | cpyC2p (h : Hdr) (bar : BitVec 4) (rec : Reg) (coord : Reg) (follow : Reg)
  /-- CPY_P2C (R315). Tensor copy from a private tile to cluster space. -/
  | cpyP2c (h : Hdr) (bar : BitVec 4) (rec : Reg) (coord : Reg) (follow : Reg)
  /-- CPY_G2C (R315). Tensor copy from global to a cluster tile. -/
  | cpyG2c (h : Hdr) (bar : BitVec 4) (rec : Reg) (coord : Reg) (follow : Reg)
  /-- CPYL_G (R316). Linear global-to-global copy of 16-byte elements. -/
  | cpylG (h : Hdr) (bar : BitVec 4) (va : Reg) (vd : Reg)
  /-- DRN_ST (R317). Drains an accumulator tile to global through a record, rounding to its format. -/
  | drnSt (h : Hdr) (bar : BitVec 4) (rec : Reg) (coord : Reg)
  /-- DRN_ADD (R317). Drains an accumulator tile by atomic F32 adds into global. -/
  | drnAdd (h : Hdr) (bar : BitVec 4) (rec : Reg) (coord : Reg)
  /-- CPERR (R314). Reads and clears the workgroup's copy error record. -/
  | cperr (h : Hdr) (dst : Reg)
  /-- BTALLOC (R307). Gives an empty block-table entry a zero-filled fresh block. -/
  | btalloc (h : Hdr) (dst : Reg) (a : Reg) (b : Reg) (c : Reg)
  /-- BTSHARE (R312). Makes an empty entry share another entry's block. -/
  | btshare (h : Hdr) (dst : Reg) (a : Reg) (b : Reg) (c : Reg)
  /-- BTCOW (R308). Gives an entry its own copy of a shared block. -/
  | btcow (h : Hdr) (dst : Reg) (a : Reg) (b : Reg)
  /-- BTFREE (R309). Drops an entry from its ring and invalidates it. -/
  | btfree (h : Hdr) (dst : Reg) (a : Reg) (b : Reg)
  /-- BTMOVE (R310). Moves a ring's block to the other memory tier. -/
  | btmove (h : Hdr) (dst : Reg) (a : Reg) (b : Reg) (c : Reg)
  /-- BTRD (R311). Reads a block-table entry atomically. -/
  | btrd (h : Hdr) (dst : Reg) (a : Reg) (b : Reg)
  /-- BTSTAT (R313). Reads a block table's entry count and pool state. -/
  | btstat (h : Hdr) (dst : Reg) (a : Reg)
  /-- MMA (R344). Dense matrix block product into a partial tile. -/
  | mma (h : Hdr) (af : ActFmt) (wf : WgtFmt) (rec : Reg) (coord : Reg)
  /-- MMA_SP (R344). Structured-sparse matrix block product into two partial tiles. -/
  | mmaSp (h : Hdr) (af : ActFmt) (wf : WgtFmt) (rec : Reg) (coord : Reg)
  /-- MLW (R343). Loads a dense mill weight buffer on Eland. -/
  | mlw (h : Hdr) (wf : WgtFmt) (rec : Reg) (coord : Reg)
  /-- MLW_SP (R343). Loads a sparse mill weight buffer with metadata on Eland. -/
  | mlwSp (h : Hdr) (wf : WgtFmt) (rec : Reg) (coord : Reg)
  /-- ACLR (R340). Clears an accumulator tile and its marks. -/
  | aclr (h : Hdr) (a : Reg)
  /-- ARD (R341). Reads accumulator elements into a register once the tile is complete. -/
  | ard (h : Hdr) (dst : Reg) (a : Reg) (b : Reg)
  /-- AWR (R342). Writes register values into accumulator elements. -/
  | awr (h : Hdr) (a : Reg) (b : Reg) (c : Reg)
  /-- MSTAT (R345). Reads the matrix status word. -/
  | mstat (h : Hdr) (dst : Reg)
  /-- MSTAT_CLR (R345). Reads the matrix status word and clears its sticky bits. -/
  | mstatClr (h : Hdr) (dst : Reg)
  /-- SACC (R346). Scales a partial tile and accumulates it into an accumulator tile. -/
  | sacc (h : Hdr) (init : Bool) (sf : ScaleFmt) (mode : SaccMode) (a : Reg) (b : Reg) (c : Reg)
  /-- OPB (R372). Arrives at an operator boundary with a position and waits for it. -/
  | opb (h : Hdr) (a : Reg)
  /-- TASKEND (R375). Ends the warp and marks the workgroup to retire under the drain mask. -/
  | taskend (h : Hdr)
  /-- PRIO (R374). Sets the warp's issue priority. -/
  | prio (h : Hdr) (a : Reg)
  /-- WGQ (R376). Queries workgroup facts by selector. -/
  | wgq (h : Hdr) (dst : Reg) (a : Reg)
  /-- PKTST (R373). Reports a packet status value kept as a maximum. -/
  | pktst (h : Hdr) (a : Reg)
  /-- SRD (R402). Reads a special register into a register, latching the cycle-counter high half. -/
  | srd (h : Hdr) (dst : Reg) (sr : BitVec 16)
  /-- SWR (R402). Writes a special register subject to access rules. -/
  | swr (h : Hdr) (a : Reg) (sr : BitVec 16)
  /-- TRET (R403). Returns from trap mode to the trapping instruction. -/
  | tret (h : Hdr)
  /-- TRET_NEXT (R403). Returns from trap mode to the instruction after the trapping one. -/
  | tretNext (h : Hdr)
  /-- BREAK (R398). Raises cause 0x48 with the immediate as trap value. -/
  | brk (h : Hdr) (imm : BitVec 16)
  /-- TRAPI (R398). Raises cause 0x49 with the immediate as trap value. -/
  | trapi (h : Hdr) (imm : BitVec 16)
  /-- XRD (R405). Reads the warp's own v(240+n) from trap mode. -/
  | xrd (h : Hdr) (dst : Reg) (n : BitVec 16)
  /-- XWR (R405). Writes the warp's own v(240+n) from trap mode. -/
  | xwr (h : Hdr) (a : Reg) (n : BitVec 16)
  /-- CXRD (R399). Reads a warp control-state item from trap mode. -/
  | cxrd (h : Hdr) (dst : Reg) (item : BitVec 16)
  /-- CXWR (R399). Writes a writable warp control-state item from trap mode. -/
  | cxwr (h : Hdr) (a : Reg) (item : BitVec 16)
  /-- PMRD (R401). Reads a 64-bit workgroup performance counter. -/
  | pmrd (h : Hdr) (dst : Reg) (a : Reg)
  /-- PMRST (R401). Clears all sixteen workgroup performance counters. -/
  | pmrst (h : Hdr)
  /-- GENWAIT (R400). Waits for a generation drain to complete or the generation to move on. -/
  | genwait (h : Hdr) (dst : Reg) (a : Reg)
  /-- WGABORT (R404). Ends every warp of the workgroup and marks its packet TERM. -/
  | wgabort (h : Hdr) (a : Reg)
  /-- VSPAWN (R409). Builds a dispatch packet from registers and appends it to the hub queue. -/
  | vspawn (rd : XReg) (rs1 : XReg) (rs2 : XReg) (rs3 : XReg)
  /-- VJOIN (R412). Waits until a join counter reads 0, then acquires at host scope. -/
  | vjoin (rd : XReg) (rs1 : XReg)
  /-- VPOLL (R412). Reads a join counter from the home slice and acquires. -/
  | vpoll (rd : XReg) (rs1 : XReg)
  /-- VJADD (R412). Releases, then atomically adds to a join counter, returning the old value. -/
  | vjadd (rd : XReg) (rs1 : XReg) (rs2 : XReg)
  /-- VQBIND (R415). Binds or unbinds a group of hub queues to this I/O core. -/
  | vqbind (rd : XReg) (rs1 : XReg) (rs2 : XReg)
  /-- VQWAIT (R416). Waits for and removes the oldest event of the I/O core's FIFO. -/
  | vqwait (rd : XReg)
  /-- ASYNC_EVENT_DELIVERY (R384). Delivers a pending delegated asynchronous cause at the warp's next boundary. -/
  | asyncEventDelivery (w : Nat)
  /-- RESULT_LANDING (R190). A load or pending result returns and writes its registers, marking poison where found. -/
  | resultLanding (w : Nat) (i : Nat)
  /-- LDA_LANDING (R209). All active lanes' LDA data arrive; dst and the token are written in one cycle. -/
  | ldaLanding (w : Nat) (i : Nat)
  /-- BIN_TIMEOUT (R142). A warp-former bin receives no entry for 256 cycles and becomes ready. -/
  | binTimeout (g : Nat) (bin : Nat)
  /-- WINDOW_RESUME (R149). A frozen window resumes at the same window cycle once every cause clears. -/
  | windowResume (g : Nat)
  /-- WINDOW_END (R153). The window ends when every participant has left and every result has landed. -/
  | windowEnd (g : Nat)
  /-- WARP_FORM (R143). Millrace forms a warp from a ready bin and places it on a group with room. -/
  | warpForm (core : Nat)
  /-- STREAM_ELEMENT_FORM (R196). The address generator forms, translates and checks one element of the next eligible stream. -/
  | streamElementForm (core : Nat)
  /-- STREAM_DATA_RETURN (R197). Requested sector data arrive in a load stream's data queue. -/
  | streamDataReturn (g : Nat) (slot : Nat)
  /-- WRITE_AT_OWNER (R221). A store, reduction or atomic completes at the owner with a new version. -/
  | writeAtOwner (core : Nat) (i : Nat)
  /-- SCOPE_CHECKER_ANSWER (R238). The checker decides every lane of a synchronisation access and commits or refuses. -/
  | scopeCheckerAnswer (w : Nat)
  /-- BARRIER_UPDATE (R256). A barrier update is performed at the word, checked, and may flip the phase. -/
  | barrierUpdate (g : Nat) (i : Nat)
  /-- LEAT_OPERATION_START (R286). A queued engine operation begins once earlier overlapping operations have landed. -/
  | leatOperationStart (core : Nat) (drain : Bool)
  /-- LEAT_LANDING (R285). A group of engine-written bytes completes at package scope and lands on the barrier. -/
  | leatLanding (core : Nat) (i : Nat) (n : Nat)
  /-- LEAT_ARRIVAL (R285). An engine operation arrives once on its barrier and frees its range locks. -/
  | leatArrival (core : Nat) (i : Nat)
  /-- FOLLOW_ON_DELIVERY (R293). The captured follow-on command is delivered to the matrix unit at the last landing. -/
  | followOnDelivery (core : Nat) (i : Nat)
  /-- FOLLOW_ON_ENTER_QUEUE (R294). A waiting follow-on takes a freed matrix queue entry ahead of warp commands. -/
  | followOnEnterQueue (core : Nat)
  /-- BLOCK_COPY_DONE (R302). A block-table Leat copy or fill lands and the table unit makes the atomic step. -/
  | blockCopyDone (core : Nat) (i : Nat)
  /-- BLOCK_RECLAIM (R301). A block out of use with no holds left is invalidated and returned to its pool. -/
  | blockReclaim (hub : Nat) (i : Nat)
  /-- MATRIX_COMMAND_START (R329). A queued matrix command starts when its unit and ordering allow. -/
  | matrixCommandStart (core : Nat) (i : Nat)
  /-- MATRIX_COMMAND_COMPLETE (R339). A matrix command's writes complete after its latency. -/
  | matrixCommandComplete (core : Nat) (i : Nat)
  /-- PACKET_TAKE (R348). The hub reads the next published packet, zeroes its slot and advances read. -/
  | packetTake (hub : Nat) (q : Nat)
  /-- PACKET_COMPLETION (R350). Writes the status word, releases and decrements the completion counter. -/
  | packetCompletion (p : Nat)
  /-- DISPATCH_PLACE (R353). Each cycle dispatch places the next workgroup on an admitting core. -/
  | dispatchPlace (hub : Nat)
  /-- WORKGROUP_RETIRE (R358). After the drain wait, returns a workgroup's resources to the core. -/
  | workgroupRetire (g : Nat)
  /-- OPERATOR_BOUNDARY_REACHED (R368). All warps have arrived and waits ended; continue or save for slice end. -/
  | operatorBoundaryReached (g : Nat)
  /-- COOPERATIVE_HOLD (R369). Saves a cooperative kernel's workgroups together once all reach a boundary. -/
  | cooperativeHold (p : Nat)
  /-- WORKGROUP_RESUME (R387). Restores a saved workgroup's context before any warp issues. -/
  | workgroupResume (g : Nat) (core : Nat)
  /-- PREEMPT_COMPLETE (R428). Every targeted workgroup has been saved; the hub posts the count and interrupts. -/
  | preemptComplete (hub : Nat)
  /-- KILL_ACK (R395). A chiplet or Kudu finishes draining the old generation and acknowledges. -/
  | killAck (vdev : Nat) (unit : Nat)
  /-- KILL_DRAIN_COMPLETE (R395). All units acknowledged; packets complete KILLED and memory returns to use. -/
  | killDrainComplete (vdev : Nat)
  /-- ISOLATION (R435). Stops the port, poisons held lines, drops records and returns lost workgroups. -/
  | isolation (hub : Nat) (port : Nat)
  /-- TENANT_POISON_HOLD (R442). At the next host interaction, holds the tenant's slots and reports to Foulo. -/
  | tenantPoisonHold (hub : Nat) (vdev : Nat)
  /-- FLIT_RECEIVE (R438). A flit arrives, is CRC-checked and passed once in sequence order. -/
  | flitReceive (hub : Nat) (port : Nat) (dir : Bool) (seq : Nat) (good : Bool) (msg : LinkMsg)
  /-- SEND_LINE_NOTIFY (R420). A write to a send line is notified and the Saiga sends new bytes. -/
  | sendLineNotify (saiga : Nat) (conn : Nat) (n : Nat)
  /-- SPAWN_CSR_ACCESS (R407). Access to vspq or vhasid, faulting from less privileged modes. -/
  | spawnCsrAccess (hart : Nat) (csr : CsrName) (write : Bool) (value : DWord) (rd : XReg)
  /-- WATCHDOG_STALL (R386). A warp's stall count reaches its limit and raises cause 0x30 subcode 0. -/
  | watchdogStall (w : Nat)
  /-- WATCHDOG_OPERATOR (R386). A workgroup's operator count reaches its limit and raises cause 0x30 subcode 1. -/
  | watchdogOperator (g : Nat)
  /-- TRAP_ENTRY (R381). After outstanding results land, enters the handler with the trap state saved. -/
  | trapEntry (w : Nat) (c : CauseInfo)
  /-- FOULO_REPORT (R383). Halts the workgroup at an instruction boundary and reports the cause to Foulo. -/
  | fouloReport (w : Nat) (c : CauseInfo)
  /-- FOULO_RESUME (R383). Foulo's choice that re-issues the instruction at sr.epc. -/
  | fouloResume (w : Nat)
  /-- FOULO_DELIVER (R383). Foulo's choice that enters the handler as though delegated. -/
  | fouloDeliver (w : Nat)
  /-- FOULO_SAVE (R383). Foulo's choice that saves the context as at an urgent halt and holds the slot. -/
  | fouloSave (w : Nat)
  /-- FOULO_TERMINATE (R383). Foulo's choice that ends the workgroup as by WGABORT. -/
  | fouloTerminate (w : Nat)
  /-- FOULO_KILL (R383). Foulo's choice that kills the tenant's context. -/
  | fouloKill (w : Nat)
  /-- REFERENCE_TICK (R386). Advances watchdog stall and operator counts each 1 us tick. -/
  | referenceTick (chip : Nat)
  /-- WINDOW_START (R148). Window cycle 0 begins four cycles after the last participant's ALIGN. -/
  | windowStart (g : Nat)
  /-- TRANSLATION_WALK (R184). A table walk reads entries level by level and installs or faults. -/
  | translationWalk (core : Nat) (fetch : Bool) (asid : Nat) (va : Nat) (acc : AccessKind)
  /-- POOL_RETURN_RETRY (R430). The table unit retries returning a stranded block when a pool changes. -/
  | poolReturnRetry (hub : Nat)
  /-- DOORBELL_WRITE (R348). A write of a queue's write index, ignored and flagged when out of range. -/
  | doorbellWrite (hub : Nat) (q : Nat) (idx : Nat)
  /-- BIND_RECORD_WRITE (R351). Writing valid activates a slot, which the hub checks or rejects. -/
  | bindRecordWrite (hub : Nat) (slot : Nat) (w0 : Word) (w1 : Word) (w2 : Word) (w3 : Word)
  /-- SLUICE_GRANT (R362). Each cycle an arbiter refills buckets and grants by tokens, lending and remainder. -/
  | sluiceGrant (hub : Nat) (arb : Nat) (reqs : List Nat)
  /-- SLUICE_GUARANTEE_WRITE (R361). A guarantee write accepted only when the sum fits the arbiter. -/
  | sluiceGuaranteeWrite (hub : Nat) (arb : Nat) (vdev : Nat) (value : Word)
  /-- WEIR_ROTATION (R365). A ring rotation starts and takes any Weir changes into effect. -/
  | weirRotation (hub : Nat)
  /-- ADMISSION_LIMIT_WRITE (R354). Foulo sets a core's admission limit without evicting anything. -/
  | admissionLimitWrite (core : Nat) (limit : Nat)
  /-- PARTITION_CHANGE (R370). Shrinks or grows a partition; removed cores receive a slice end. -/
  | partitionChange (part : Nat) (vdev : Nat) (cores : List Nat)
  /-- PREEMPT_SLICE_END (R367). Command pre-empting a slot or partition at its next operator boundary. -/
  | preemptSliceEnd (hub : Nat) (isPart : Bool) (target : Nat)
  /-- PREEMPT_URGENT_HALT (R367). Command halting a slot or partition at an instruction boundary and saving context. -/
  | preemptUrgentHalt (hub : Nat) (isPart : Bool) (target : Nat)
  /-- SLOT_RESUME (R428). Reactivates a held slot. -/
  | slotResume (hub : Nat) (slot : Nat)
  /-- CONTEXT_KILL (R395). Kills a virtual device's context, halts its warps and advances its generation. -/
  | contextKill (vdev : Nat)
  /-- BANK_CONTROL_WRITE (R176). Foulo changes a bank's mode, owner or world, reshaping the cluster cache if needed. -/
  | bankControlWrite (chip : Nat) (cluster : Nat) (bank : Nat) (value : Word)
  /-- TLB_INVALIDATE (R187). Removes matching translation and walk cache entries on every core. -/
  | tlbInvalidate (hub : Nat) (scope : Nat) (asid : Nat) (va : Nat)
  /-- POWER_WAKE_P0 (R429). Power command waking a core or chiplet to P0. -/
  | powerWakeP0 (hub : Nat) (port : Nat) (core : Nat)
  /-- POWER_ENTER_C2 (R446). Power command putting an idle core or chiplet into C2. -/
  | powerEnterC2 (hub : Nat) (port : Nat) (core : Nat)
  /-- POWER_LIMIT_WRITE (R429). Sets the module power limit, clamped to 4,400 W. -/
  | powerLimitWrite (hub : Nat) (value : Word)
  /-- TEMPERATURE_LIMIT_WRITE (R429). Sets the temperature limit, clamped to 105 C. -/
  | temperatureLimitWrite (hub : Nat) (value : Word)
  /-- C1_ENTRY (R446). A core with no warp or a waiting hart enters C1 by itself. -/
  | c1Entry (core : Nat)
  /-- C1_WAKE (R446). A core or hart leaves C1 on placement or interrupt. -/
  | c1Wake (core : Nat)
  /-- DEEP_SLEEP (R448). Halts, seals contexts, writes back caches, self-refreshes memory and wraps keys into S3. -/
  | deepSleep (hub : Nat)
  /-- S3_WAKE (R448). Wake from S3: ports re-enumerate and keys unwrap, protected worlds held. -/
  | s3Wake
  /-- BT_DESCRIPTOR_WRITE (R430). Write to a block-table descriptor, ignored or refused while valid. -/
  | btDescriptorWrite (hub : Nat) (t : Nat) (word : Nat) (value : DWord)
  /-- POOL_DESCRIPTOR_WRITE (R430). Write to a pool descriptor, ignored while valid except clearing valid. -/
  | poolDescriptorWrite (hub : Nat) (n : Nat) (word : Nat) (value : DWord)
  /-- POOL_PUSH (R430). Pool command pushing a block onto a pool's stack. -/
  | poolPush (hub : Nat) (n : Nat) (block : Nat)
  /-- POOL_POP (R430). Pool command popping a block from a pool's stack. -/
  | poolPop (hub : Nat) (n : Nat)
  /-- MANAGEMENT_REGISTER_WRITE (R426). Write to a management-space register that has no behaviour of its own. -/
  | managementRegisterWrite (hub : Nat) (off : Nat) (size : Nat) (value : DWord)
  /-- LINK_TRAINED (R434). A port's link trains and the capability entry is checked. -/
  | linkTrained (hub : Nat) (port : Nat) (cap : List Byte)
  /-- TRAINING_FAIL (R434). Training fails three times and the port returns to down. -/
  | trainingFail (hub : Nat) (port : Nat)
  /-- CHIPLET_ACK (R434). The chiplet acknowledges its assignment record and the port runs. -/
  | chipletAck (hub : Nat) (port : Nat)
  /-- ISOLATE_COMMAND (R435). Foulo's command that isolates a running port. -/
  | isolateCommand (hub : Nat) (port : Nat)
  /-- LINK_DOWN (R434). A link-down sends a running port to isolating. -/
  | linkDown (hub : Nat) (port : Nat)
  /-- CHIPLET_FATAL_ERROR (R434). A fatal chiplet error sends its port to isolating. -/
  | chipletFatalError (hub : Nat) (port : Nat)
  /-- PORT_RESET_COMMAND (R434). Foulo resets an isolated, refused or down port to retrain with a new incarnation. -/
  | portResetCommand (hub : Nat) (port : Nat)
  /-- FLIT_REPLAY (R478). The sender replays the failed flit and every later one in order. -/
  | flitReplay (hub : Nat) (port : Nat) (dir : Bool)
  /-- EQUALISATION_PASS (R444). An equalisation pass starts on a module after excess CRC failures. -/
  | equalisationPass (hub : Nat) (port : Nat) (m : Nat)
  /-- EQUALISATION_END (R478). The pass ends; a failure causes lane fallback before waiting flits are sent. -/
  | equalisationEnd (hub : Nat) (port : Nat) (m : Nat) (ok : Bool)
  /-- LANE_FALLBACK (R439). A module narrows to 32 lanes, reducing capacity and possibly suspending guarantees. -/
  | laneFallback (hub : Nat) (port : Nat) (m : Nat)
  /-- DROOP_RESPONSE (R444). A droop detector fires and the supply loop adjusts and stretches the clock. -/
  | droopResponse (loc : Nat) (mv : Int)
  /-- FREQUENCY_STEP (R445). Temperature or power above limit steps the arithmetic clock. -/
  | frequencyStep (loc : Nat)
  /-- PATROL_SCRUB (R441). Scrub reads a sector, corrects or poisons it. -/
  | patrolScrub (hub : Nat) (sector : Nat) (found : ScrubResult)
  /-- SCRUB_PERIOD_ADJUST (R444). A scrub window's correction count halves or doubles the period. -/
  | scrubPeriodAdjust (hub : Nat) (kind : Bool) (corrections : Nat)
  /-- RING_RESPONSE_TIMEOUT (R440). After a dropped header, the requester's response arrives as poison after 2^20 cycles. -/
  | ringResponseTimeout (w : Nat) (i : Nat)
  /-- REMOTE_REQUEST (R452). A Saiga receives a remote access message and executes it once. -/
  | remoteRequest (m : Nat) (seq : Nat) (req : RemoteReq)
  /-- REMOTE_ROUTE_TIMEOUT (R452). No route to a remote address answers with poison after 2^22 cycles. -/
  | remoteRouteTimeout (w : Nat) (i : Nat)
  /-- KUDU_CACHE_POISON_INTERRUPT (R442). Poison found in a Kudu line without a load raises local interrupt 16. -/
  | kuduCachePoisonInterrupt (hart : Nat) (line : Nat)
  /-- EVENT_POST (R414). A queue event enters its bound I/O core's FIFO or counts as overflow. -/
  | eventPost (hub : Nat) (q : Nat) (kind : Nat) (detail : Word)
  /-- CONNECTION_OPEN (R418). The Saiga checks a connection descriptor and opens or refuses it. -/
  | connectionOpen (saiga : Nat) (conn : Nat) (desc : List Byte)
  /-- SEGMENT_RECEIVE (R420). A TCP segment arrives; bytes are written and rtail raised. -/
  | segmentReceive (saiga : Nat) (conn : Nat) (seq : Nat) (data : List Byte)
  /-- ACK_RECEIVE (R420). An acknowledgement raises shead. -/
  | ackReceive (saiga : Nat) (conn : Nat) (upto : Nat)
  /-- IDCERT (R453). Returns the identity certificate. -/
  | idcert
  /-- WCREATE (R454). Creates a protected world and installs its keys everywhere. -/
  | wcreate (w : Nat) (vdev : Nat) (owner : List Byte)
  /-- WDESTROY (R455). Clears a world's keys when nothing of it remains. -/
  | wdestroy (w : Nat)
  /-- EXTEND (R457). Extends platform register 7 until locked. -/
  | extend (r : Nat) (item : List Byte) (label : List Byte)
  /-- LOCK (R457). Locks platform register 7 against further extends. -/
  | lock
  /-- READLOG (R459). Returns measurement log entries by sequence number. -/
  | readlog (seq : Nat)
  /-- EVIDENCE (R461). Snapshots registers and signs an evidence record. -/
  | evidence (vdev : Nat) (nonce : List Byte)
  /-- WRELEASE (R463). Lifts the post-S3 hold on a world given an owner signature over the epoch. -/
  | wrelease (w : Nat) (sig : List Byte)
  /-- PODEVIDENCE (R464). The leader sends member nonces to gather pod evidence. -/
  | podevidence (nonce : List Byte)
  /-- POD_MEMBER_ANSWER (R464). A member's evidence answer is verified and made a leaf. -/
  | podMemberAnswer (m : Nat) (record : List Byte)
  /-- POD_GATHER_TIMEOUT (R464). After 100 ms, absent leaves are filled and the root record signed. -/
  | podGatherTimeout
  /-- MODULE_RESET (R457). Module reset: registers zero, boot images verified and measured. -/
  | moduleReset
  /-- MANAGEMENT_REGISTER_READ (R439). A read of a port's link status clears its crc and replays fields, and a read of a loop status register clears its events count. -/
  | managementRegisterRead (hub : Nat) (off : Nat) (size : Nat)
  /-- RETRANSMISSION (R421). The Saiga resends unacknowledged send-ring bytes of a connection when its TCP retransmission timer runs out. -/
  | retransmission (saiga : Nat) (conn : Nat)
  /-- CONNECTION_CLOSE (R417). The Kudu operating system closes a connection through the connection table, ending it and freeing its slot. -/
  | connectionClose (saiga : Nat) (conn : Nat)
  /-- HART_INTERRUPT (R413). An interrupt reaches a Kudu hart, which takes it, leaving a waiting VJOIN or VQWAIT to be re-executed on return, or holding it until a VSPAWN's answer. -/
  | hartInterrupt (hart : Nat) (n : Nat)
  /-- KUDU_HART_ACCESS (R216). A Kudu hart performs a RISC-V load, store, atomic or fence, checked at host scope and by the scope checker, and faulting on poison. -/
  | kuduHartAccess (hart : Nat) (kind : HartAccess) (rd : XReg) (va : Nat) (size : Nat) (value : DWord)
deriving DecidableEq, Repr

end Sys2Proof
end

