-- ==== Sys2Proof/Machine/State.lean ====
section
/-! DEFINITION. The whole state of the O960 as plain data, its reset value, and the two ways a step can stop. Entities
(warps, workgroups, packets, queued operations) stand in tables by number; everything an entity can be in is a field. -/

namespace Sys2Proof.Machine

/-! ## Registers and warps -/

/-- The representation tag of a register (R47). -/
inductive Tag where
  | general | uniform | affine
deriving DecidableEq, Repr

/-- One register of a warp: its tag, its 32 lane values and its poison mark in each lane (R47, R191). -/
structure RegVal where
  tag : Tag
  vals : Lanes
  poison : Mask
deriving DecidableEq, Repr

/-- A register cleared to 0 and tagged uniform (R357, R390). -/
def RegVal.zero : RegVal := ⟨.uniform, List.replicate 32 0, 0⟩

/-- What a warp waits for (R23, Table 12.4). -/
inductive Wait where
  | none | register | resource | barrier | queue | join | align | window | boundary | stream | fence | checker | generation
  | rangeTable | bank | matrix | landing
deriving DecidableEq, Repr

/-- Where one lane's data of an outstanding load go: the registers of its words, the location and size read, the extension
of the result, and the words themselves, with their poison (`bad`), where a FIFO bank has already yielded them (R179, R191, R208, R209);
`lost` says that the answer arrives as poison (R440, R452). -/
structure LaneLoad where
  lane : Nat
  slots : List Nat
  loc : Nat
  bytes : Nat
  signed : Bool
  addr : Nat
  attr : Nat
  value : Option (List Word) := Option.none
  bad : Bool := false
  lost : Bool := false
deriving DecidableEq, Repr

/-- An outstanding load of a warp (R190, R209): its bytes are read when it lands. `token` names the token register of an
`LDA` in each lane. -/
structure Pending where
  loads : List LaneLoad
  token : Option (List (Nat × Nat)) := Option.none
deriving DecidableEq, Repr

/-- An entry of the landing buffer (R388). -/
structure Landing where
  slot : Nat
  mask : Mask
  vals : Lanes
  tag : Tag
  poison : Mask
  due : Nat
deriving DecidableEq, Repr

/-- What a synchronisation access does at its location (R250 to R254, R278 to R280); `acq` is one whose read is done and
whose acquire still waits. -/
inductive SyncKind where
  | ldaq | strl | atom (op : AtomOp) | red (op : AtomOp) | jadd | jwait | jpoll | acq
deriving DecidableEq, Repr

/-- One lane of a synchronisation access. -/
structure SyncLane where
  lane : Nat
  loc : Nat
  addr : Nat
  attr : Nat
  value : Nat
  compare : Nat
  slots : List Nat
deriving DecidableEq, Repr

/-- A synchronisation access that waits for the scope checker (R238). `seen` is the version or value a `JWAIT` last found
(R280); `unsent` lists its request messages still to leave the core, once they have begun to (R477). -/
structure SyncReq where
  kind : SyncKind
  scope : Nat
  bytes : Nat
  space : Nat
  lanes : List SyncLane
  seen : Option Nat := Option.none
  unsent : Option (List Nat) := Option.none
deriving DecidableEq, Repr

/-- One warp: the control state of Table 05.1, the special registers of Table 02.8, its registers and what it has
outstanding. `bsync` is the `BSYNC` it waits in, with the phase its update read; `barWait` the `BWAIT` it waits in: barrier,
parity and the word that ended the wait, a `BSYNC`'s too (R275, R277); `btOp` the block-table operation whose step has begun, with its status
once it is done (R302); `bankOp` the bank switch a `BANKMODE` has begun: the bank and its old mode (R205); `floor` what the warp has been
given of the program versions of others by acquires at scopes 2 and 3 (R228; log entry 21, DEDUCED). -/
structure Warp where
  wg : Nat
  idx : Nat
  role : Nat
  roleIdx : Nat
  budget : Nat
  group : Nat
  pc : BitVec 57
  exm : Mask := 0xFFFFFFFF#32
  entryMask : Mask := 0
  meldReg : BitVec 6 := 0
  paths : Mask := 0
  ren0 : List Byte := (List.range 16).map (BitVec.ofNat 8)
  ren1 : List Byte := (List.range 16).map (BitVec.ofNat 8)
  loops : List Word := List.replicate 6 0
  trap : Bool := false
  window : Bool := false
  melded : Bool := false
  spawned : Bool := false
  regs : Table RegVal := []
  cause : Word := 0
  epc : Word := 0
  epch : BitVec 25 := 0
  tval : Lanes := List.replicate 32 0
  tvalh : Lanes := List.replicate 32 0
  trapMask : Mask := 0
  cych : Word := 0
  prio : BitVec 2 := 0
  pv : List Nat := List.replicate 7 0
  floor : List Nat := []
  ov : Nat := 0
  wmax : Nat := 0
  unflushed : List Nat := []
  pend : List Pending := []
  landing : List Landing := []
  lastWc : Nat := 0
  sync : Option SyncReq := Option.none
  bsync : Option (Option Bool) := Option.none
  barWait : Option (Nat × Bool × Option DWord) := Option.none
  btOp : Option (Option Word) := Option.none
  bankOp : Option (Nat × Word) := Option.none
  async : List CauseInfo := []
  stall : Nat := 0
  issued : Bool := false
  step : Bool := false
  wait : Wait := .none
  ended : Bool := false
deriving DecidableEq, Repr

/-! ## Workgroups -/

/-- The mark of a loop level (R19, Table 02.14). -/
inductive LoopMark where
  | absent | temporal | spatialCore | spatialDie
deriving DecidableEq, Repr

/-- A loop-table entry (Table 02.14). -/
structure LoopLevel where
  extent : Nat
  mark : LoopMark
deriving DecidableEq, Repr

/-- A role-table entry (Table 02.15), with the role's entry address in the section (Table 02.13). -/
structure RoleEntry where
  warps : Nat
  budget : Nat
  entry : Nat
deriving DecidableEq, Repr

/-- One queue entry: 32 lane words and a lane mask (R264). -/
structure QEntry where
  vals : Lanes
  mask : Mask
deriving DecidableEq, Repr

/-- A stream pattern record or a copied record (Table 06.7). -/
structure PatRec where
  clip : Bool
  p2z : Bool
  block : Bool
  ind : Bool
  base : Nat
  ispace : Bool
  iw : Bool
  idim : Nat
  world : Nat
  tier : Nat
  lsize : Nat
  format : Nat
  extent : List Nat
  stride : List Int
  index : Nat
  box : List Nat
deriving DecidableEq, Repr

/-- An element that a load stream's generator has formed (R197, R199): its location, and once its data have returned its
bytes, whether poison was found in them and their version (R222). A clipped element has no location. -/
structure StreamElem where
  loc : Option Nat
  addr : Nat
  attr : Nat
  ready : Bool
  bytes : List Byte
  poison : Bool
  wv : Nat
deriving DecidableEq, Repr

/-- An element that an `SST` has supplied: its index, location, page attribute and bytes, and whether it completes a sector
that the `SST` writes whole, the version the `SST` carries, and its place among the warp's elements on their way (R189, R197, R213, R221, R474). -/
structure Supplied where
  index : Nat
  loc : Nat
  attr : Nat
  bytes : List Byte
  whole : Bool
  carried : Nat
  order : Nat
deriving DecidableEq, Repr

/-- A stream slot that has been opened (R196 to R201, R214). `formed` counts the elements the generator has formed, `done`
those delivered or supplied; `fault` is the cause, subcode and trap value words recorded for the element formed next; `holds` are the resolved
block-table entries it holds (R301): table and entry as one number, version, block; `seq` its place in the order of opening
(R196). -/
structure Stream where
  opened : Bool
  store : Bool
  owner : Nat
  record : PatRec
  coords : List Int
  total : Nat
  formed : Nat := 0
  done : Nat := 0
  queue : List StreamElem := []
  supplied : List Supplied := []
  fault : Option (Nat × Nat × Word × Word) := Option.none
  poisoned : Bool := false
  poisonCount : Nat := 0
  stallCount : Nat := 0
  holds : List (Nat × Nat × Nat) := []
  logged : List Nat := []
  seq : Nat := 0
deriving DecidableEq, Repr

/-- The counted window of a workgroup (R147 to R153): participants, arrivals, whether it runs, the next window cycle to
issue, the warps still in it, and the core cycles in which it has stood frozen (R149). -/
structure Window where
  mask : Mask
  arrived : Mask
  running : Bool
  frozen : Bool
  cycle : Nat
  inside : Mask
  startIn : Nat
  stalls : Nat := 0
deriving DecidableEq, Repr

/-- One Millpond entry (R140): the resume address, origin and the registers saved with their poison marks. -/
structure PondEntry where
  resume : Nat
  lane : Nat
  warpIdx : Nat
  role : Nat
  budget : Nat
  world : Nat
  regs : List (Nat × Word × Bool)
  loops : List Word
  prio : BitVec 2
  bytes : Nat
  inBank : Option Nat
  arrival : Nat
deriving DecidableEq, Repr

/-- What a warp's update does to a barrier word (Table 08.2); `sync` is the arrival of a `BSYNC`, and `test` the read of a `BTEST`
issued in a window, which changes nothing: the register pair its result lands in and the window cycle (R276). -/
inductive BarChange where
  | init (n : Nat) | arrive | arriveExp (n : Int) | expect (n : Int) | drop | sync
  | test (lo due : Nat)
deriving DecidableEq, Repr

/-- A warp's barrier update not yet performed at its word (R256, R257); `due` is the core cycle of a window's run at which one issued in
the window is performed (R272). -/
structure BarUpdate where
  bar : Nat
  change : BarChange
  warp : Nat
  due : Nat := 0
deriving DecidableEq, Repr

/-- The matrix operations with their captured operands (R328, R338, R340 to R346). -/
inductive MatOp where
  | mma (sparse : Bool) (af : ActFmt) (wf : WgtFmt) (a b md rows p mill buf : Nat)
  | mlw (sparse : Bool) (wf : WgtFmt) (b md mill buf cols : Nat)
  | sacc (init bf16 : Bool) (col row : Option Nat) (rows p q : Nat)
  | aclr (tile : Nat)
  | awr (tile : Nat) (elems : List (Nat × Word))
deriving DecidableEq, Repr

/-- A loaded column of a weight buffer: the stored bytes of its groups, their masks, and whether it is marked (R323, R332). -/
structure MillCol where
  groups : List (List Byte)
  masks : List Nat
  marked : Bool
deriving DecidableEq, Repr

/-- A mill weight buffer that has been loaded: format and density of its last load, and the columns it covered (R323, R324). -/
structure MillBuf where
  wfmt : WgtFmt
  sparse : Bool
  cols : List MillCol
deriving DecidableEq, Repr

/-- What has become of a workgroup: `reported` and `debug` are halted until Foulo or the debugger chooses (R383, R392),
`halting` one that an urgent halt has stopped and whose issued work completes (R387), `saved` one saved by it, `parked` one
saved at an operator boundary (R368). A retired one keeps its record while an engine operation still names its bytes or tiles
(R358). -/
inductive WgStatus where
  | running | reported | debug | halting | saved | parked | retiring | retired
deriving DecidableEq, Repr

/-- Where the image of a saved context stands: its byte offset in the shadow storage of a chiplet, its length, the key it is sealed under,
0 for the open world (R387, R389), and, once it has been spilled to the chiplet's HBM4 region, the bytes written there (R447). -/
structure ShadowImage where
  chip : Nat
  off : Nat
  size : Nat
  key : Nat
  out : Option (List Byte) := Option.none
deriving DecidableEq, Repr

/-- One workgroup placed or saved (Table 12.5). `ver` is the highest version given to a write of its warps and operations
and `floor` the highest program versions its warps have acquired to (R228; log entry 21, DEDUCED), `errRec` the copy-error record (Table 09.5), `granted` the group and registers of each warp slot it holds
until it retires (R358), `image` where its saved context stands (R387). -/
structure Wg where
  pkt : Nat
  hub : Nat
  core : Nat
  lin : Nat
  coords : List Nat
  vdev : Nat
  world : Nat
  asid : Nat
  gen : Nat
  obj : Nat
  code : Nat
  loops : List LoopLevel
  roles : List RoleEntry
  drain : Nat
  pool : Nat
  records : Nat
  scratch : Nat
  bar : Nat
  energy : Nat
  sbase : Nat := 0
  tileGrant : Nat := 0
  millGrant : Nat := 0
  status : WgStatus := .running
  queues : List (List QEntry) := List.replicate 8 []
  streams : Table Stream := []
  win : Option Window := Option.none
  barPend : List BarUpdate := []
  acc : Table Word := []
  accMarks : Table Bool := []
  mills : Table MillBuf := []
  mstat : Word := 0
  errRec : List Word := [0, 0, 0, 0]
  ver : Nat := 0
  floor : List Nat := []
  pond : List PondEntry := []
  binWait : Table Nat := []
  opb : Table Word := []
  opbFirst : Option Word := Option.none
  savedPos : Word := 0
  savedLoops : Table (List Word) := []
  resumed : Bool := false
  perf : List DWord := List.replicate 16 0
  opCount : Nat := 0
  taskend : Bool := false
  aborted : Bool := false
  kval : Nat := 0
  sliceEnd : Bool := false
  reportWarp : Nat := 0
  followSaved : List MatOp := []
  granted : List (Nat × Nat) := []
  image : Option ShadowImage := Option.none
deriving DecidableEq, Repr

/-! ## Memory, caches and their owners -/

/-- What the owner of a line keeps (R219): the version of its latest write, the largest lease end granted. -/
structure LineMeta where
  wv : Nat
  re : Nat
deriving DecidableEq, Repr

/-- The MOESI state in which the directory holds a line for a chiplet (R12, R435). -/
inductive Moesi where
  | modified | owned | exclusive | shared
deriving DecidableEq, Repr

/-- The identity of a party (R237), with the tenant whose generation ends its records (R239). A Kudu core is a party with
`chip` 12 or 13 and its hart as `core`; `away` is the module of a party of another module of the pod. -/
structure Party where
  hub : Nat
  chip : Nat
  cluster : Nat
  core : Nat
  wg : Nat
  warp : Nat
  lane : Nat
  group : Nat
  vdev : Nat
  gen : Nat
  away : Option Nat
deriving DecidableEq, Repr

/-- A scope checker's record of a synchronisation line (R237). -/
structure SyncRec where
  scope : Nat
  party : Party
deriving DecidableEq, Repr

/-- A sector held in core storage, or in the cluster cache of a chiplet that owns no line (R220, R223): its bytes as the
world reads them, the version of the data and the end of the lease. -/
structure Copy where
  bytes : List Byte
  poison : Bool
  wv : Nat
  lease : Nat
deriving DecidableEq, Repr

/-- A line in a cluster cache or a last-level-cache slice (R177, R178, R451): its line number, world, the virtual device
that allocated it, its place in the LRU order (larger is more recent), the bytes that are dirty, the sectors that have been
filled (R181), those of the dirty ones that have been written whole (R441), those poisoned in the cache itself (R441, R484), the
highest version that the warps which stored the dirty bytes carried (R221), and how many writes it has taken (R280). The bytes are those
that the world reads under its key: in the bank they stand sealed (R27). -/
structure CacheLine where
  line : Nat
  world : Nat
  vdev : Nat
  use : Nat
  dirty : Table Byte
  filled : BitVec 4
  clean : BitVec 4
  bad : BitVec 4
  carried : Nat
  writes : Nat
deriving DecidableEq, Repr

/-- The per-virtual-device registers of a cache (Table 06.4). -/
structure WayRegs where
  fill : BitVec 16
  occ : Nat
  hits : Word
  misses : Word
deriving DecidableEq, Repr

/-- The reset value of the way registers (Table 06.4). -/
def WayRegs.reset : WayRegs := ⟨0xFFFF#16, 0, 0, 0⟩

/-- A bank switch under way: what the bank is to become (R205). -/
structure BankSwitch where
  mode : BitVec 2
  core : BitVec 2
  world : Byte
  vdev : BitVec 6
deriving DecidableEq, Repr

/-- A cluster-SRAM bank (Table 06.3, R179): its control register's fields, its FIFO entries, oldest first, as the bank's world reads them
(R27), the 16-byte place of the oldest, and the switches under way, the first of them begun. -/
structure Bank where
  mode : BitVec 2 := 0
  core : BitVec 2 := 0
  world : Byte := 0
  vdev : BitVec 6 := 0
  fifo : List (List Byte) := []
  head : Nat := 0
  switching : List BankSwitch := []
deriving DecidableEq, Repr

/-- A translation cache entry (R185, R186). -/
structure TlbEntry where
  asid : Nat
  page : Nat
  size : Nat
  frame : Nat
  rd : Bool
  wr : Bool
  ex : Bool
  attr : Nat
  level : Nat
deriving DecidableEq, Repr

/-- A walk cache entry (R185): the pointer entry of a level. -/
structure WalkEntry where
  asid : Nat
  level : Nat
  key : Nat
  table : Nat
deriving DecidableEq, Repr

/-- An entry of a range-lock table (R240). `owner` is the address space (global), the workgroup (private) or the cluster
(cluster space); `op` is the engine operation. -/
structure RangeLock where
  dest : Bool
  space : Nat
  owner : Nat
  lo : Nat
  hi : Nat
  op : Nat
deriving DecidableEq, Repr

/-- A write of a core on its way to the owner (R221, R224): the bytes one instruction, stream element or engine landing
writes in one 256-byte line, in lane order (`whole` when they complete a sector written whole, R474), the key under which they are sealed, the carried
version and who wrote. `also` lists the warps that have acquired since at a scope at which the write counts as theirs (R228;
log entry 21, DEDUCED). `stream` marks an element of a store
stream (R244); `batch` numbers an instruction whose lines are looked up in order (R472); `seen` lists the warps that have read it before it was performed (R226); `snap` holds the 16-byte units of a protected world that the write buffer has read already and is to write whole
(R182). -/
structure PendWrite where
  warp : Nat
  wg : Nat
  pieces : List (Nat × List Byte)
  key : Nat
  world : Nat
  carried : Nat
  whole : Bool := false
  attr : Nat
  vdev : Nat
  gen : Nat
  also : List Nat := []
  stream : Bool := false
  seen : List Nat := []
  snap : List (Nat × List Byte) := []
  batch : Nat := 0
deriving DecidableEq, Repr

/-- A code breakpoint or data watchpoint of the debugger (R392). -/
structure Watch where
  lo : Nat
  hi : Nat
  load : Bool
  store : Bool
deriving DecidableEq, Repr

/-- Power states (R446). -/
inductive Power where
  | p0 | c1 | c2 | s3
deriving DecidableEq, Repr

/-! ## Engines of a core -/

/-- A command in a core's matrix queue (R328, R329), with its place in the order of entry; `seen` holds the operand bytes as
they stood when it started, by private offset, with their poison (R330). -/
structure MatCmd where
  seq : Nat
  wg : Nat
  op : MatOp
  seen : Option (Table (Byte × Bool)) := Option.none
deriving DecidableEq, Repr

/-- The forms of an engine operation (R289, R302, R316, R317). -/
inductive LeatForm where
  | g2p | p2g | c2p | p2c | g2c | cpyl | drnSt | drnAdd | block
deriving DecidableEq, Repr

/-- The block-table operations that make a block copy (R307, R308, R310). -/
inductive BtKind where
  | alloc | cow | move
deriving DecidableEq, Repr

/-- A table operation that waits for its block copy: the entry, the blocks, the target tier and the warp that issued it. -/
structure BtStep where
  kind : BtKind
  hub : Nat
  table : Nat
  entry : Nat
  oldBlock : Nat
  newBlock : Nat
  tier : Nat
deriving DecidableEq, Repr

/-- An operation of the bulk copy engine (R283 to R296, R302, R315 to R317). `next` is the next element in traversal order,
`landed` the bytes already accounted at the barrier, `covered` the bytes of each sector it has written (R474), `data` what an
overlapping linear copy has read (R316), `lost` the elements one of whose messages was lost, true where only its payload was (R440), `follow` the follow-on command it has still to deliver. -/
structure LeatOp where
  id : Nat
  form : LeatForm
  wg : Nat
  warp : Nat
  vdev : Nat
  gen : Nat
  world : Nat
  asid : Nat
  minor : Nat
  bar : Nat
  barGen : Nat
  record : PatRec
  coords : List Int
  tile : Nat
  src : Nat
  dst : Nat
  count : Nat
  size : Nat
  carried : Nat
  next : Nat := 0
  landed : Nat := 0
  started : Bool := false
  stopped : Bool := false
  failed : Bool := false
  data : List (List Byte × Bool) := []
  covered : Table Nat := []
  logged : List Nat := []
  lost : List (Nat × Bool) := []
  holds : List (Nat × Nat × Nat) := []
  follow : Option MatOp := Option.none
  bt : Option BtStep := Option.none
deriving DecidableEq, Repr

/-- A result that dynamic mode has written at its issue while its latency still runs: the warp, the slot, what the slot held before, and
the core cycle in which it lands (R3, R148). -/
structure Late where
  warp : Nat
  slot : Nat
  old : RegVal
  due : Nat
deriving DecidableEq, Repr

/-- What a core keeps of its own time. `now` counts the core cycles in which its slots have been served; `laneFree` and `slotFree` give the
first cycle in which a group's lane datapath and its issue slot are free (R72, R73, R483), `portFree` that of the private port (R204);
`notBefore` the first cycle in which a warp may issue (R152, R155, R272); `windows` lists the workgroups whose windows run, in the order
of their formation (R364), and `winNext` the first cycle of a window's next issues (R483); `late` the results still on their way
(R148); `bins` the cycle in which a warp-former bin last received an entry (R142). -/
structure Pace where
  now : Nat := 0
  laneFree : Table Nat := []
  slotFree : Table Nat := []
  portFree : Nat := 0
  notBefore : Table Nat := []
  windows : List Nat := []
  winNext : Table Nat := []
  late : List Late := []
  bins : Table Nat := []
deriving DecidableEq, Repr

/-- One Vodon core (Table 01.3). `leaving` says that it leaves its partition when its workgroups have been saved (R370);
`floor` the highest program versions its warps have acquired to (R228); `tasks` lists the packets whose code section is mapped for its fetch (R359), and `served` gives the warp each group served last (R23). -/
structure Core where
  limit : Nat := 64
  ver : Nat := 0
  floor : List Nat := []
  locks : List RangeLock := []
  copyQ : List LeatOp := []
  drainQ : List LeatOp := []
  matQ : List MatCmd := []
  followWait : List (Nat × Nat × MatOp) := []
  dtlb : List TlbEntry := []
  dwalk : List WalkEntry := []
  ftlb : List TlbEntry := []
  fwalk : List WalkEntry := []
  copies : Table Copy := []
  writes : List PendWrite := []
  ring : List (Nat × Nat) := []
  ringPos : Nat := 0
  brk : List Nat := []
  watch : List Watch := []
  power : Power := .p0
  part : Option Nat := Option.none
  leaving : Bool := false
  tasks : List Nat := []
  served : Table Nat := []
  pace : Pace := {}
deriving DecidableEq, Repr

/-- A chiplet (R12, R53, R446): its cycle counter, class and power state. -/
structure Chip where
  cyc : DWord := 0
  cls : Nat := 0
  power : Power := .p0
deriving DecidableEq, Repr

/-! ## Launch, hubs, hosts and the package -/

/-- A hardware queue (Table 11.1) and the I/O core it is bound to (R414); `deaf` says that its Kudu was isolated since, so that its
events go to nobody until it is bound again (R436). -/
structure Queue where
  ring : Nat := 0
  asid : Nat := 0
  vdev : Nat := 0
  enabled : Bool := false
  error : Bool := false
  log2size : Nat := 0
  read : Nat := 0
  write : Nat := 0
  bound : Option Nat := Option.none
  stopped : Bool := false
  deaf : Bool := false
deriving DecidableEq, Repr

/-- A packet the hub has taken and not completed (R349 to R352). -/
structure Packet where
  hub : Nat
  queue : Nat
  index : Nat
  marker : Bool
  kind : Nat
  flags : Nat
  world : Nat
  tiles : Nat
  mills : Nat
  object : Nat
  completion : Nat
  args : List Word
  asid : Nat
  vdev : Nat
  gen : Nat
  status : Nat
  refused : Bool
  total : Nat
  unbound : Nat
  retired : Nat
  lost : Nat
  kval : Nat
  coop : Bool
  levels : List LoopLevel
  roles : List RoleEntry
  code : Nat
  drain : Nat
  pool : Nat
  records : Nat
  scratch : Nat
  bar : Nat
  energy : Nat
  term : Bool
  ver : Nat
deriving DecidableEq, Repr

/-- The states of a slot (Table 11.5). -/
inductive SlotState where
  | free | active | held | done | rejected
deriving DecidableEq, Repr

/-- A slot of the slot table (Tables 11.4, 11.5); `next` is the next workgroup of the record to place, `again` the
workgroups to place again (R367, R435), `recover` the recovery flag and `lost` the workgroups lost without it (R435). -/
structure Slot where
  w0 : Word := 0
  w1 : Word := 0
  w2 : Word := 0
  w3 : Word := 0
  state : SlotState := .free
  error : Nat := 0
  placed : Nat := 0
  retired : Nat := 0
  saved : Nat := 0
  lost : Nat := 0
  pkt : Nat := 0
  next : Nat := 0
  stop : Nat := 0
  again : List Nat := []
  recover : Bool := true
deriving DecidableEq, Repr

/-- A Sluice bucket (Table 11.7); `marked` is the refill it may lend, in units of 1/4,096 token (R362; log entry 24, DEDUCED), `owed` what its
guarantee has come to since its request waits and it has not been granted (R363; log entry 24, DEDUCED). -/
structure Bucket where
  guarantee : Nat := 0
  depth : Nat := 64
  level : Nat := 0
  marked : Nat := 0
  owed : Nat := 0
  lent : Word := 0
  borrowed : Word := 0
deriving DecidableEq, Repr

/-- A trap descriptor (Table 12.1). -/
structure TrapDesc where
  valid : Bool := false
  tbase : Nat := 0
  deleg : Nat := 0
  stall : Nat := 0
  oplim : Nat := 0
  notice : Bool := false
  dbg : Bool := false
deriving DecidableEq, Repr

/-- A block-table descriptor (Table 14.1d). -/
structure BtDesc where
  valid : Bool := false
  entries : Nat := 0
  world : Nat := 0
  vdev : Nat := 0
  array : Nat := 0
  lpool : Nat := 0
  hpool : Nat := 0
deriving DecidableEq, Repr

/-- A pool descriptor (Table 14.1e). -/
structure PoolDesc where
  valid : Bool := false
  tier : Nat := 0
  stack : Nat := 0
  capacity : Nat := 0
  count : Nat := 0
deriving DecidableEq, Repr

/-- A block out of use and not yet back in a pool (R301, R430): its number, its table and the tier it returns to; `stranded`
once its pool has refused it. -/
structure LooseBlock where
  block : Nat
  table : Nat
  tier : Nat
  stranded : Bool
deriving DecidableEq, Repr

/-- An error log entry (Table 14.6). -/
structure LogEntry where
  cls : Nat
  kind : Nat
  unit : Nat
  cause : Nat
  inc : Nat
  gen : Nat
  pa : Nat
  va : Nat
  asid : Nat
  vdev : Nat
  world : Nat
  detail : Nat
deriving DecidableEq, Repr

/-- The states of a port (Table 14.4). -/
inductive PortState where
  | down | training | capable | assigned | running | isolating | isolated | refused
deriving DecidableEq, Repr

/-- A flit: its sequence number and its message (R437, R438). -/
structure Flit where
  seq : Nat
  msg : LinkMsg
deriving DecidableEq, Repr

/-- The body of the message of a lane's request (R477). -/
def requestMsg (warp lane : Nat) : Nat := (warp + 1) * 2 ^ 32 + lane

/-- One direction of a port's link (R438, R478): the sequence numbers of the flit sent next, of
the one that arrives next and of the one next to be passed, the replay buffer, whether what arrives is discarded until the failed flit has
been replayed, and replays of the oldest. -/
structure LinkDir where
  sent : Nat := 0
  next : Nat := 0
  expect : Nat := 0
  buffer : List Flit := []
  discarding : Bool := false
  replays : Nat := 0
deriving DecidableEq, Repr

/-- A port (Tables 14.2 to 14.5). `command` says that Foulo's isolate command has begun its isolation (R435), `crcWindow` counts the
CRC failures of each module in the current millisecond, `suspended` names the directions whose guarantee is suspended (R439), and `passed` lists the messages passed to the message layer (R438). -/
structure Port where
  state : PortState := .down
  command : Bool := false
  cap : List Byte := []
  inc : Nat := 0
  cls : Nat := 0
  qbase : Nat := 0
  qcount : Nat := 0
  regbase : DWord := 0
  shadow : DWord := 0
  resets : Word := 0
  demote : Option Nat := Option.none
  attempts : Nat := 0
  up : Bool := false
  narrow : BitVec 16 := 0
  crc : BitVec 16 := 0
  replays : BitVec 16 := 0
  suspended : BitVec 2 := 0
  retrain : BitVec 16 := 0
  crcWindow : Table Nat := []
  toHub : LinkDir := {}
  toChip : LinkDir := {}
  passed : List Nat := []
deriving DecidableEq, Repr

/-- A loop status register, and the bounds to which Foulo has narrowed the loop (R444). -/
structure LoopReg where
  active : Bool := false
  bound : Bool := false
  events : BitVec 14 := 0
  setting : BitVec 16 := 0
  limits : Option (Int × Int) := Option.none
deriving DecidableEq, Repr

/-- A network connection of a Saiga (Tables 13.4, 13.5, R419 to R423): the descriptor and what the Saiga holds of it;
`told` is the version of its send line at the last notification. -/
structure Conn where
  asid : Nat
  vdev : Nat
  world : Nat
  gen : Nat
  notify : Nat
  sendSize : Nat
  recvSize : Nat
  ctl : Nat
  send : Nat
  recv : Nat
  stail : Nat := 0
  rhead : Nat := 0
  fin : Bool := false
  shead : Nat := 0
  rtail : Nat := 0
  sent : Nat := 0
  state : Nat := 1
  stopped : Bool := false
  wire : List (Nat × List Byte) := []
  told : Nat := 0
deriving DecidableEq, Repr

/-- The platform's security engine, hub 0's (R453 to R464); hub 1's keeps nothing of its own but its secret. `log` is the measurement log,
`sent` the requests of the gathering under way, `member` what this module last answered a leader as a member of its pod. -/
structure Engine where
  platform : List (List Byte) := List.replicate 8 (List.replicate 64 0)
  locked : Bool := false
  log : List (Nat × Nat × Nat × List Byte × List Byte) := []
  overflow : Bool := false
  epoch : DWord := 0
  wrapped : Bool := false
  leader : Bool := false
  module : Nat := 0xFFFF
  gathering : Option (List Byte) := Option.none
  sent : Table (List Byte) := []
  member : List Byte := []
  answers : Table (List Byte) := []
  answer : Nat × List Byte := (0, [])
deriving DecidableEq, Repr

/-- A world that exists (R454, R463). -/
structure World where
  vdev : Nat
  owner : List Byte
  held : Bool
deriving DecidableEq, Repr

/-- What the part keeps for a virtual device: generation, drain, tenant register and its digests (R394, R395, R458). -/
structure Tenant where
  gen : Nat := 0
  killing : Bool := false
  advanced : Bool := false
  acks : List Nat := []
  reg : List Byte := List.replicate 64 0
  digests : List (List Byte) := []
  poisoned : Bool := false
deriving DecidableEq, Repr

/-- What Foulo is told of a workgroup (R383, R384, R392): the cause and subcode, the workgroup, the warp and its `sr.epc`; or
code 256 for a cooperative hold of a packet and 257 for a poison hold of a virtual device (R369, R442). -/
structure Report where
  code : Nat
  sub : Nat
  wg : Nat
  warp : Nat
  epc : Nat := 0
deriving DecidableEq, Repr

/-- The registers of one hub. `awaited` lists the workgroups a pre-emption still waits for and `savedNow` counts those it has
saved (R428); `reports` what Foulo has been told (R383); `fraction` what of a grant each arbiter has
carried over to its next cycle, in 1/4,096 (R361); `bootFailed` says that an image of its boot did not verify (R457); `poisonHold` lists the tenants to hold at their next host
interaction and `holdDue` those that have had it (R442). -/
structure Hub where
  clock : Nat := 0
  bootFailed : Bool := false
  queues : Table Queue := []
  slots : Table Slot := []
  weir : Table Byte := []
  weirNext : Table Byte := []
  buckets : Table Bucket := []
  robin : Table Nat := []
  fraction : Table Nat := []
  trapDescs : Table TrapDesc := []
  btDescs : Table BtDesc := []
  pools : Table PoolDesc := []
  poolCommand : DWord := 0
  poolResult : DWord := 0
  loose : List LooseBlock := []
  log : Table LogEntry := []
  logWrite : Nat := 0
  logRead : Nat := 0
  lost : Word := 0
  preempt : DWord := 0
  saved : Word := 0
  awaited : List Nat := []
  savedNow : Nat := 0
  resume : DWord := 0
  kill : DWord := 0
  powerCommand : DWord := 0
  powerLimit : BitVec 16 := 4400
  tempLimit : Byte := 105
  deepSleep : DWord := 0
  invalidate : DWord := 0
  invalidateAsid : DWord := 0
  ports : Table Port := []
  loops : Table LoopReg := []
  conns : Table Conn := []
  irqs : List (Nat × Nat) := []
  reports : List Report := []
  misc : Table DWord := []
  poisonHold : List Nat := []
  holdDue : List Nat := []
deriving DecidableEq, Repr

/-- A RISC-V hart of a Kudu (R406, R407): general registers (x0 is never listed), pc, mode, the two Ghendi CSRs and the
RISC-V CSRs by number; `seen` is the version of the line that a waiting `VJOIN` last read (R412), `pending` the interrupts not
yet taken (R413), `events`, each with the generation of its tenant (R424), and `overflow` the I/O core's FIFO (R414). -/
structure Hart where
  pc : DWord := 0x1000
  regs : Table DWord := []
  mode : BitVec 2 := 3
  virt : Bool := false
  vspqEn : Bool := false
  vspqHub : Bool := false
  vspqQueue : BitVec 10 := 0
  vhasid : BitVec 16 := 0
  csrs : Table DWord := []
  waiting : Bool := false
  seen : Option Nat := Option.none
  reserved : Option (Nat × Nat) := Option.none
  pending : List Nat := []
  events : List (DWord × Nat) := []
  overflow : Nat := 0
  power : Power := .p0
deriving DecidableEq, Repr

/-! ## The machine -/

/-- What reaches the machine from outside it, or what Foulo and the debugger set that no register of the spec holds: breakpoints,
watchpoints, steps and the context of a halted workgroup (R391, R392); the lease length, the bounds of loops, the recovery flag of a
slot, the binding of a queue and the spill of a chiplet's shadow storage (R220, R435, R436, R444, R447); and errors that the checks of Table 14.6a find, `bad` when uncorrectable
(R440). -/
inductive Outside where
  | breakpoints (core : Nat) (at_ : List Nat)
  | watchpoints (core : Nat) (ws : List Watch)
  | stepBit (warp : Nat) (on : Bool)
  | readContext (wg off n : Nat)
  | writeWarp (warp : Nat) (w : Warp)
  | writeGroup (wg : Nat) (g : Wg)
  | writeScratch (wg off : Nat) (bs : List Byte)
  | leaseLength (n : Nat)
  | loopBounds (hub loop : Nat) (lo hi : Int)
  | recovery (hub slot : Nat) (on : Bool)
  | rebind (hub queue : Nat) (hart : Nat)
  | errRegister (warp slot lane : Nat) (bad : Bool)
  | errLanding (warp i lane : Nat) (bad : Bool)
  | errPrivate (wg off : Nat) (bad : Bool)
  | errTile (wg elem : Nat) (bad : Bool)
  | errMill (wg buf col : Nat) (bad : Bool)
  | errPond (wg i reg : Nat) (bad : Bool)
  | errDirectory (line : Nat) (bad : Bool)
  | errPayload (warp i : Nat)
  | kuduWriteback (kudu line : Nat)
  | spill (hub port : Nat)
  | podPolicy (leader : Bool) (module : Nat)
  | podRequest (nonce : List Byte)
deriving DecidableEq, Repr

/-- Whose step is next (log entry 5, DESIGN CHOICE): a core runs one cycle, in which the issue slots of its groups serve their warps; a hart
runs its next instruction, a bank's switch ends, a port replays what has been asked for, an event of the package happens, or something from outside does. A single issue of a
warp (`warp`) comes only by the agenda: a placed instruction's (log entry 1). -/
inductive Agent where
  | warp (w : Nat)
  | cycle (core : Nat)
  | hart (h : Nat)
  | bank (b : Nat)
  | replay (hub port : Nat) (toChip : Bool)
  | event (e : Instr)
  | outside (x : Outside)
deriving DecidableEq, Repr

/-- The state of the module. `agenda` names who acts next; with none, `round` lists who has still to act in the present round and `passedOver`
how often some have been passed over (R23; log entry 5, DESIGN CHOICE); `dbgOut` is what the debugger has read; `watched` counts the writes of each private or bank line that a `JWAIT` has
read (R280); `remote` keeps the answers to requests of other modules and `remoteSent` the next sequence number for each (R452). Memory is `mem`, a list of bytes by location (see `locPhys`, `locBank`, `locPriv` in
Machine/Ops.lean): physical addresses, cluster banks and private allocations, canonical with default 0. -/
structure State where
  mem : List Host.Cell := []
  poisoned : Table Bool := []
  seals : Table Nat := []
  lines : Table LineMeta := []
  watched : Table Nat := []
  dir : Table Moesi := []
  recs : Table SyncRec := []
  recOrder : Table (List Nat) := []
  banks : Table Bank := []
  clines : Table CacheLine := []
  cways : Table WayRegs := []
  llc : Table CacheLine := []
  lways : Table WayRegs := []
  ccopies : Table Copy := []
  uses : Nat := 0
  warps : Table Warp := []
  wgs : Table Wg := []
  cores : Table Core := []
  chips : Table Chip := []
  hubs : Table Hub := []
  harts : Table Hart := []
  pkts : Table Packet := []
  warpSeq : Nat := 0
  wgSeq : Nat := 0
  pktSeq : Nat := 0
  opSeq : Nat := 0
  lambda : Nat := 1024
  worlds : Table World := []
  keyCount : Table Nat := []
  tenants : Table Tenant := []
  partsOwner : Table Nat := []
  roots : Table Nat := []
  modulePower : BitVec 16 := 0
  asleep : Bool := false
  engine : Engine := {}
  remote : Table (Nat × DWord) := []
  remoteSent : Table Nat := []
  lastWriter : Table Nat := []
  me : Nat := 0
  hart : Nat := 0
  agenda : List Agent := []
  round : List Agent := []
  passedOver : List (Agent × Nat) := []
  dbgOut : List Byte := []
  free : Nat := 0
deriving DecidableEq, Repr

/-- The memory of a state is canonical: addresses strictly rising, no byte listed that an unlisted address reads as. -/
abbrev Memory.wf (m : List Host.Cell) : Prop := Table.wf (0 : Byte) m = true

/-- The module right after reset: every field at the value the spec states, or at the value log entries 3, 4 and 10 name
where it states none. No warp, workgroup or packet exists; memory lists nothing. Chiplets 3 to 5 of each half are
I/O-coherent (Table 01.1): Eland chiplets 6 to 11 and the Saigas 14 and 15. -/
def State.reset : State :=
  { chips := (List.range 16).map (fun c => (c, { cls := if 6 ≤ c ∧ c ≤ 11 ∨ 14 ≤ c then 1 else 0 })) }

/-- The ways a step stops the machine. -/
inductive Fault where
  /-- Raised by the meaning of a Vodon instruction when no warp is issuing: there is no agent to execute it. Safe. -/
  | noWarp
  /-- Raised by the meaning of a Kudu instruction when no such hart exists. Safe. -/
  | noHart
deriving DecidableEq, Repr

/-- The ways a step is refused. -/
inductive Refusal where
  /-- Raised by `exec` for an instruction whose meaning is not written. Safe. -/
  | notModelled (mnemonic : String)
deriving DecidableEq, Repr

end Sys2Proof.Machine
end

