-- ==== Sys2Proof/Machine/Base.lean ====
section
/-! DEFINITION. The parts of the package by number, their accessors, the error log, and the registers of a warp: how a
register field is resolved, read and written (R33 to R66, R191, R443). -/

namespace Sys2Proof.Machine

/-! ## Numbers of the package's parts -/

/-- The chiplet of a core number. -/
def coreChip (core : Nat) : Nat := core / 32

/-- The chiplet kind code (Table 01.1): chiplets 0 to 5 Impala, 6 to 11 Eland, 12 and 13 Kudu, 14 and 15 Saiga. -/
def chipKind (chip : Nat) : Nat := if chip < 6 then 2 else if chip < 12 then 3 else if chip < 14 then 1 else 4

/-- A chiplet's index among its kind (Table 14.3a). -/
def chipIndex (chip : Nat) : Nat :=
  if chip < 6 then chip else if chip < 12 then chip - 6 else if chip < 14 then chip - 12 else chip - 14

/-- The hub a chiplet attaches to (R433). -/
def chipHub (chip : Nat) : Nat := if chip < 12 then chipIndex chip / 3 else chipIndex chip

/-- The port a chiplet attaches to (Table 14.3a). -/
def chipPort (chip : Nat) : Nat :=
  if chip < 6 then chip % 3 + 1 else if chip < 12 then (chip - 6) % 3 + 4 else if chip < 14 then 0 else 7

/-- The chiplet at a port of a hub (Table 14.3a). -/
def portChip (hub port : Nat) : Nat :=
  if port = 0 then 12 + hub else if port < 4 then 3 * hub + port - 1 else if port < 7 then 6 + (3 * hub + port - 4)
  else 14 + hub

/-- The hub of a core. -/
def coreHub (core : Nat) : Nat := chipHub (coreChip core)

/-- Whether a core is an Eland array core. -/
def coreEland (core : Nat) : Bool := chipKind (coreChip core) = 3

/-- The cluster of a core: four cores each (R14). -/
def coreCluster (core : Nat) : Nat := coreChip core * 8 + core % 32 / 4

/-- The cores of a chiplet kind (Table 01.1). -/
def kindCores (kind : Nat) : Nat := if kind = 2 then 24 else if kind = 3 then 8 else 0

/-- The groups of a core of a kind (Table 01.3). -/
def kindGroups (kind : Nat) : Nat := if kind = 2 then 4 else 2

/-- The private scratchpad of a core in bytes (Table 01.3). -/
def kindScratch (kind : Nat) : Nat := if kind = 2 then 524288 else 8388608

/-- The Millpond region of a core's scratchpad in bytes (R141). -/
def kindPond (kind : Nat) : Nat := if kind = 2 then 32768 else 131072

/-- The cluster-SRAM banks of a cluster (Table 01.3). -/
def kindBanks (kind : Nat) : Nat := if kind = 2 then 128 else 256

/-- The core numbers of a chiplet. -/
def chipCores (chip : Nat) : List Nat := (List.range (kindCores (chipKind chip))).map (fun c => chip * 32 + c)

/-! ## Accessors -/

/-- The chiplet record of a number. -/
def State.chip (s : State) (c : Nat) : Chip := Table.get {} c s.chips

/-- The core record of a number. -/
def State.core (s : State) (c : Nat) : Core := Table.get {} c s.cores

/-- The hub record of a number. -/
def State.hub (s : State) (h : Nat) : Hub := Table.get {} h s.hubs

/-- The tenant record of a virtual device. -/
def State.tenant (s : State) (v : Nat) : Tenant := Table.get {} v s.tenants

/-- The bank of a bank number, 256 a cluster. -/
def State.bank (s : State) (b : Nat) : Bank := Table.get {} b s.banks

/-- The hart record of a number. -/
def State.hartOf (s : State) (h : Nat) : Hart := Table.get {} h s.harts

/-- Change a core's record. -/
def State.setCore (s : State) (c : Nat) (x : Core) : State := { s with cores := Table.put {} c x s.cores }

/-- Change a chiplet's record. -/
def State.setChip (s : State) (c : Nat) (x : Chip) : State := { s with chips := Table.put {} c x s.chips }

/-- Change a hub's record. -/
def State.setHub (s : State) (h : Nat) (x : Hub) : State := { s with hubs := Table.put {} h x s.hubs }

/-- Change a tenant's record. -/
def State.setTenant (s : State) (v : Nat) (x : Tenant) : State := { s with tenants := Table.put {} v x s.tenants }

/-- Change a bank's record. -/
def State.setBank (s : State) (b : Nat) (x : Bank) : State := { s with banks := Table.put {} b x s.banks }

/-- Change a hart's record. -/
def State.setHart (s : State) (h : Nat) (x : Hart) : State := { s with harts := Table.put {} h x s.harts }

/-- Change a warp's record. -/
def State.setWarp (s : State) (w : Nat) (x : Warp) : State := { s with warps := Table.ins w x s.warps }

/-- Change a workgroup's record. -/
def State.setWg (s : State) (g : Nat) (x : Wg) : State := { s with wgs := Table.ins g x s.wgs }

/-- Change a packet's record. -/
def State.setPkt (s : State) (p : Nat) (x : Packet) : State := { s with pkts := Table.ins p x s.pkts }

/-- Apply a function to a warp, if it exists. -/
def State.modWarp (s : State) (w : Nat) (f : Warp → Warp) : State := { s with warps := Table.modify w f s.warps }

/-- Apply a function to a workgroup, if it exists. -/
def State.modWg (s : State) (g : Nat) (f : Wg → Wg) : State := { s with wgs := Table.modify g f s.wgs }

/-- Apply a function to a core. -/
def State.modCore (s : State) (c : Nat) (f : Core → Core) : State := s.setCore c (f (s.core c))

/-- Apply a function to a hub. -/
def State.modHub (s : State) (h : Nat) (f : Hub → Hub) : State := s.setHub h (f (s.hub h))

/-- The warps of a workgroup with their numbers, in ascending number. -/
def State.wgWarps (s : State) (g : Nat) : List (Nat × Warp) := s.warps.filter (fun e => decide (e.2.wg = g))

/-- Take the next free value: its number, and the state in which the counter has moved on (log entry 2, DESIGN CHOICE). -/
def State.takeFree (s : State) : Nat × State := (s.free, { s with free := s.free + 1 })

/-- The current generation of a virtual device (R394). -/
def State.gen (s : State) (v : Nat) : Nat := (s.tenant v).gen

/-- A tag t is older than g when (g - t) mod 2^16 lies between 1 and 32,767 (R394). -/
def olderTag (t g : Nat) : Bool := let d := (g + 65536 - t % 65536) % 65536; decide (1 ≤ d) && decide (d ≤ 32767)

/-- The ring of a core's open streams loses some: the place of the stream served next moves with those that stay (R196). -/
def Core.dropRing (c : Core) (gone : Nat × Nat → Bool) : Core :=
  { c with ring := c.ring.filter (fun e => !gone e), ringPos := ((c.ring.take c.ringPos).filter (fun e => !gone e)).length }

/-- The larger of two lists of program versions at each scope from 4 to 10. -/
def maxVersions (a b : List Nat) : List Nat := (List.range 7).map (fun i => Nat.max (a.getD i 0) (b.getD i 0))

/-- The program versions that a warp's accesses go by: its own, and those it has been given (R222, R228; log entry 21, DEDUCED). -/
def Warp.versions (w : Warp) : List Nat := maxVersions w.pv w.floor

/-- Whether a workgroup stands on its core: placed, neither saved nor retired. -/
def Wg.stands (g : Wg) : Bool := decide (g.status ≠ .saved) && decide (g.status ≠ .parked) && decide (g.status ≠ .retired)

/-! ## The error log (R443) -/

/-- The empty log entry of a class for a source chiplet. -/
def LogEntry.mk0 (cls chip : Nat) : LogEntry :=
  ⟨cls, chipKind chip, chipPort chip + 128 * chipHub chip, 0, 0, 0, 0, 0, 0, 0, 0, 0⟩

/-- The hub writes an event to its ring, or counts it as lost when the ring is full; the entry carries its
source's incarnation. Classes 2, 3 and 6 raise an interrupt
to the management core (R443). -/
def State.logEvent (s : State) (hub : Nat) (e : LogEntry) : State :=
  let h := s.hub hub
  let e := if e.kind = 0 then e else { e with inc := (Table.get {} (e.unit % 8) (s.hub (e.unit / 128)).ports).inc }
  let h := if h.logWrite - h.logRead < 4096 then
      { h with log := Table.ins (h.logWrite % 4096) e h.log, logWrite := h.logWrite + 1 }
    else { h with lost := h.lost + 1 }
  s.setHub hub (if e.cls = 2 ∨ e.cls = 3 ∨ e.cls = 6 then { h with irqs := h.irqs ++ [(e.cls, e.unit)] } else h)

/-! ## Registers of a warp -/

/-- The register value of a slot: slots 0 to 255 are `v0` to `v255`, 256 to 271 the trap bank. -/
def Warp.reg (w : Warp) (slot : Nat) : RegVal := Table.get RegVal.zero slot w.regs

/-- Put a register value in a slot. -/
def Warp.setReg (w : Warp) (slot : Nat) (v : RegVal) : Warp := { w with regs := Table.put RegVal.zero slot v w.regs }

/-- Whether register field value n is a melded name for the warp (R48). -/
def Warp.meldName (w : Warp) (n : Nat) : Bool := w.melded && !w.trap && decide (240 ≤ n) && decide (n < 256)

/-- The rename entry a lane uses for a melded name (R48). -/
def Warp.rename (w : Warp) (n l : Nat) : Nat :=
  ((if bitOf w.paths l then w.ren1 else w.ren0).getD (n - 240) 0).toNat

/-- The slot a register field value resolves to in a lane (R66). -/
def Warp.slot (w : Warp) (n l : Nat) : Nat :=
  if w.trap && decide (240 ≤ n) && decide (n < 256) then 16 + n
  else if w.meldName n then w.rename n l else n

/-- The value a register field has in a lane (R66). -/
def Warp.rd (w : Warp) (n l : Nat) : Word := laneVal (w.reg (w.slot n l)).vals l

/-- The values a register field has in every lane. -/
def Warp.rdAll (w : Warp) (n : Nat) : Lanes :=
  if w.meldName n then laneBuild (fun l => w.rd n l) else (w.reg (w.slot n 0)).vals

/-- A 64-bit operand in a lane (R36). -/
def Warp.rd64 (w : Warp) (n l : Nat) : DWord := (w.rd (n + 1) l) ++ (w.rd n l)

/-- The guard of a lane (R41): `v[guard]` is read without resolution. -/
def Warp.guard (w : Warp) (h : Hdr) (l : Nat) : Bool :=
  if h.g then ((laneVal (w.reg h.guard.toNat).vals l).getLsbD 0) != h.sense else true

/-- The active lanes of an instruction (R41). -/
def Warp.active (w : Warp) (h : Hdr) : Mask := if h.g then w.exm &&& maskOf (w.guard h) else w.exm

/-- The old lane values with those of a mask replaced. -/
def mergeLanes (m : Mask) (new old : Lanes) : Lanes := laneBuild (fun l => if bitOf m l then laneVal new l else laneVal old l)

/-- Write a register slot in the lanes of a mask: the tag is the result's when all 32 lanes are written, else general
(R47); a written lane loses its poison mark (R191). -/
def RegVal.write (v : RegVal) (m : Mask) (vals : Lanes) (tag : Tag) : RegVal :=
  if m = 0xFFFFFFFF#32 then ⟨tag, vals, 0⟩
  else if m = 0 then v
  else ⟨.general, mergeLanes m vals v.vals, v.poison &&& ~~~m⟩

/-- The lanes of a mask in which a register field resolves to a slot. -/
def Warp.slotMask (w : Warp) (n : Nat) (m : Mask) (slot : Nat) : Mask := maskOf (fun l => bitOf m l && decide (w.slot n l = slot))

/-- The slots a register field resolves to in the lanes of a mask, without repeats. -/
def Warp.slotsOf (w : Warp) (n : Nat) (m : Mask) : List Nat :=
  if w.meldName n then dedup ((lanes.filter (bitOf m)).map (w.slot n))
  else if m = 0 then [] else [w.slot n 0]

/-- Write a register field in the lanes of a mask at once (R66). -/
def Warp.wrNow (w : Warp) (n : Nat) (m : Mask) (vals : Lanes) (tag : Tag) : Warp :=
  (w.slotsOf n m).foldl (fun x sl => x.setReg sl ((x.reg sl).write (w.slotMask n m sl) vals tag)) w

/-- Put a write of a register field into the landing buffer, due at a window cycle (R388, R74). -/
def Warp.wrLater (w : Warp) (n : Nat) (m : Mask) (vals : Lanes) (tag : Tag) (due : Nat) : Warp :=
  { w with landing := w.landing ++ (w.slotsOf n m).map (fun sl => ⟨sl, w.slotMask n m sl, vals, tag, 0, due⟩) }

/-- Whether the warp runs in window mode now: a participant outside trap mode (R148, R381). -/
def Warp.inWindow (w : Warp) : Bool := w.window && !w.trap

/-- Land one entry of the landing buffer. -/
def Warp.land (w : Warp) (e : Landing) : Warp :=
  w.setReg e.slot (let v := (w.reg e.slot).write e.mask e.vals e.tag; { v with poison := v.poison ||| (e.poison &&& e.mask) })

/-- Land every entry due at or before window cycle c, in the order of their due cycles and of issue (R74, R388). -/
def Warp.landDue (w : Warp) (c : Nat) : Warp :=
  let due := w.landing.filter (fun e => decide (e.due ≤ c))
  let w' := (sortBy (fun a b => decide (a.due ≤ b.due)) due).foldl Warp.land w
  { w' with landing := w.landing.filter (fun e => decide (c < e.due)) }

/-- The slots that results still in flight from a window the warp has left will write (R153). -/
def Warp.inFlight (w : Warp) : List Nat := if w.window then [] else w.landing.map Landing.slot

/-- The slots that outstanding results of the warp will write, an `LDA`'s destinations apart, and the tokens of `LDA`s:
what the scoreboard holds readers of (R3, R153, R209). -/
def Warp.heldRead (w : Warp) : List Nat :=
  w.inFlight ++ w.pend.flatMap (fun p => match p.token with
    | some t => t.map Prod.snd
    | none => p.loads.flatMap LaneLoad.slots)

/-- The slots that outstanding results of the warp will write: what the scoreboard holds writers of. -/
def Warp.heldWrite (w : Warp) : List Nat :=
  w.inFlight ++ w.pend.flatMap (fun p => p.loads.flatMap LaneLoad.slots ++ (p.token.getD []).map Prod.snd)

/-- The PHY modules of a port: those its capability entry names, and before one is read those of the kind of chiplet that stands there
(R9, R431). -/
def Port.modules (port : Nat) (p : Port) : Nat :=
  match p.cap[3]? with | some b => b.toNat | none => if port = 0 ∨ port = 7 then 8 else 16

end Sys2Proof.Machine
end

