-- ==== Sys2Proof/Machine/Mem.lean ====
section
/-! DEFINITION. Memory: locations, sealed units, poison, caches and their counters, the directory, versions and leases,
translation, and one load or store at its storage (R171 to R191, R218 to R223, R433 to R451, R474). -/

namespace Sys2Proof.Machine

/-! ## Locations -/

/-- The location of a cluster address: its bank and offset in a cluster (Table 06.1). -/
def locBank (cl ca : Nat) : Nat := 2 ^ 56 + cl * 2 ^ 25 + ca

/-- The location of a private address of a workgroup (R171). -/
def locPriv (g off : Nat) : Nat := 2 ^ 60 + g * 2 ^ 32 + off

/-- Whether a location stands in a private allocation. -/
def isPriv (loc : Nat) : Bool := decide (2 ^ 60 ≤ loc)

/-- Whether a location stands in a cluster bank. -/
def isBank (loc : Nat) : Bool := decide (2 ^ 56 ≤ loc) && decide (loc < 2 ^ 60)

/-- Whether a location is a physical address. -/
def isPhys (loc : Nat) : Bool := decide (loc < 2 ^ 56)

/-- Whether a physical address is remote (R449). -/
def isRemote (pa : Nat) : Bool := decide (2 ^ 51 ≤ pa) && decide (pa < 2 ^ 52)

/-- A remote access leaves as a message, which takes the next sequence number of its pair of modules (R452): the module is named by
bits [50:41] of the address (R449). -/
def State.sendRemote (s : State) (pa : Nat) : State :=
  if isRemote pa then { s with remoteSent := Table.put 0 (bits pa 50 41) (Table.get 0 (bits pa 50 41) s.remoteSent + 1) s.remoteSent } else s

/-- The bank number, 256 a cluster, of a bank location. -/
def bankOfLoc (loc : Nat) : Nat := (loc - 2 ^ 56) / 2 ^ 17

/-- The home hub of an address in a module's ranges, none for an address that is no memory (R449). -/
def localHome (pa : Nat) : Option Nat :=
  if pa < 0x60_0000_0000 then some 0
  else if pa < 0xC0_0000_0000 then some 1
  else if 0x100_0000_0000 ≤ pa ∧ pa < 0x180_0000_0000 then some 0
  else if 0x180_0000_0000 ≤ pa ∧ pa < 0x200_0000_0000 then some 1
  else none

/-- The home hub of a physical address; for a remote one, of its address in its module; an address has
52 bits (R449). -/
def paHome (pa : Nat) : Option Nat :=
  if pa < 2 ^ 51 then localHome pa
  else if pa < 2 ^ 52 ∧ bits pa 50 41 ≤ 575 then localHome (bits pa 40 0) else none

/-- The home slice, 0 to 31, of a line number (R449). -/
def lineSlice (line : Nat) : Nat :=
  (List.range 7).foldl (fun x i => x ^^^ bits line (5 * i + 4) (5 * i)) 0

/-- The home slice of a line among both hubs' 64. -/
def lineHome (line : Nat) : Nat := ((paHome (line * 256)).getD 0) * 32 + lineSlice line

/-! ## Sealed units and poison -/

/-- The key of a world: 0 for the open world, else the world and the number of the draw that gave it its keys (R27, R454); a world that
does not exist has none installed anywhere, and reads and writes as under a key that no world ever had (R455). -/
def State.keyOf (s : State) (world : Nat) : Nat :=
  if world = 0 then 0 else if (Table.find world s.worlds).isSome then world + 256 * Table.get 0 world s.keyCount else world

/-- The tweak of a unit under a key: the world in bits [55:48] over physical address bits [51:4] (R456); a unit of a cluster bank, for
which no tweak is laid down, has its own number among the banks in the place of the address (log entry 11, DESIGN CHOICE). -/
def tweak (key u : Nat) : Nat := key % 256 * 2 ^ 48 + u % 2 ^ 48

/-- A 16-byte unit enciphered. -/
def cipherUnit (key tw : Nat) (bs : List Byte) : List Byte := leBytes 16 (Config.cipher key tw (BitVec.ofNat 128 (leNat bs))).toNat

/-- A 16-byte unit deciphered. -/
def plainUnit (key tw : Nat) (bs : List Byte) : List Byte :=
  leBytes 16 ((Config.cipher key tw).symm (BitVec.ofNat 128 (leNat bs))).toNat

/-- The 16 bytes of a unit as a key reads them (R182). -/
def State.unit (s : State) (key u : Nat) : List Byte :=
  let raw := Table.bytes s.mem (16 * u) 16
  let sk := Table.get 0 u s.seals
  if sk = key then raw
  else
    let ct := if sk = 0 then raw else cipherUnit sk (tweak sk u) raw
    if key = 0 then ct else plainUnit key (tweak key u) ct

/-- The byte at a location as a key reads it. -/
def State.byteAt (s : State) (key loc : Nat) : Byte :=
  if Table.get 0 (loc / 16) s.seals = key then Table.get 0 loc s.mem else (s.unit key (loc / 16)).getD (loc % 16) 0

/-- Consecutive bytes as a key reads them. -/
def State.bytesAt (s : State) (key loc : Nat) : Nat → List Byte
  | 0 => []
  | n + 1 => s.byteAt key loc :: s.bytesAt key (loc + 1) n

/-- Bring a unit under a key: its bytes become what that key reads (R182). -/
def State.reseal (s : State) (key u : Nat) : State :=
  if Table.get 0 u s.seals = key then s
  else { s with mem := Table.putBytes s.mem (16 * u) (s.unit key u), seals := Table.put 0 u key s.seals }

/-- The writes of a line that a `JWAIT` has read are counted (R280). -/
def countWrite (watched : Table Nat) (line : Nat) : Table Nat := Table.modify line (· + 1) watched

/-- Write consecutive bytes under a key; in a unit written in part, the other bytes stay as the key reads them (R182). -/
def State.putAt (s : State) (key loc : Nat) (bs : List Byte) : State :=
  match bs with
  | [] => s
  | _ =>
    let u0 := loc / 16
    let u1 := (loc + bs.length - 1) / 16
    let s := (List.range (u1 + 1 - u0)).foldl (fun s i => s.reseal key (u0 + i)) s
    { s with mem := Table.putBytes s.mem loc bs, watched := countWrite s.watched (loc / 256) }

/-- Whether a sector of the bytes at a location is poisoned (R441). -/
def State.poisonAt (s : State) (loc n : Nat) : Bool :=
  (List.range ((loc + n - 1) / 64 + 1 - loc / 64)).any (fun i => Table.get false (loc / 64 + i) s.poisoned)

/-- Mark or clear a sector's poison. -/
def State.setPoison (s : State) (sector : Nat) (b : Bool) : State := { s with poisoned := Table.put false sector b s.poisoned }

/-- Forget the bytes, seals and poison of n bytes from a location that is a multiple of 64: they read zero (R28, R177). -/
def State.clearRange (s : State) (loc n : Nat) : State :=
  { s with mem := s.mem.filter (fun e => decide (e.1 < loc) || decide (loc + n ≤ e.1))
           seals := s.seals.filter (fun e => decide (e.1 < loc / 16) || decide ((loc + n) / 16 ≤ e.1))
           poisoned := s.poisoned.filter (fun e => decide (e.1 < loc / 64) || decide ((loc + n) / 64 ≤ e.1)) }

/-- Whether pieces of one write cover every byte of a sector (R474). -/
def coversSector (pieces : List (Nat × List Byte)) (sector : Nat) : Bool :=
  (List.range 64).all (fun i => pieces.any (fun p =>
    decide (p.1 ≤ 64 * sector + i) && decide (64 * sector + i < p.1 + p.2.length)))

/-- The sectors that pieces touch. -/
def piecesSectors (pieces : List (Nat × List Byte)) : List Nat := dedup (pieces.map (fun p => p.1 / 64))

/-- Write the pieces of one write in order under a key, clearing the poison of the sectors they cover whole (R441, R474). -/
def State.putPieces (s : State) (key : Nat) (pieces : List (Nat × List Byte)) : State :=
  let s := pieces.foldl (fun s p => s.putAt key p.1 p.2) s
  (piecesSectors pieces).foldl (fun s x => if coversSector pieces x then s.setPoison x false else s) s

/-! ## The sets of a cluster cache (R177) -/

/-- The cache-mode banks of a cluster in ascending order (R177). -/
def State.cacheBanks (s : State) (cl : Nat) : List Nat :=
  (List.range (kindBanks (chipKind (cl / 8)))).filter (fun b => decide ((s.bank (cl * 256 + b)).mode = 0))

/-- The way a set holds a line in, among the 16 from a key on. -/
def findWay (t : Table CacheLine) (base line world : Nat) : Option Nat :=
  (List.range 16).find? (fun w => match Table.find (base + w) t with
    | some c => decide (c.line = line) && decide (c.world = world)
    | none => false)

/-- The key of the set a line lives in, in a cluster's cache; none where the cluster has no cache (R177). -/
def State.setBase (s : State) (cl line : Nat) : Option Nat :=
  let bs := s.cacheBanks cl
  if bs.isEmpty then none
  else some ((cl * 256 + bs.getD (line % bs.length) 0) * 512 + (line / bs.length) % 32 * 16)

/-- The place of a line of a world in a cluster cache. -/
def State.linePlace (s : State) (cl line world : Nat) : Option Nat :=
  (s.setBase cl line).bind (fun base => (findWay s.clines base line world).map (base + ·))

/-- A line of every world becomes invalid in a cluster cache, its owners' occupancy with it (R178). -/
def State.dropLines (s : State) (cl line : Nat) : State :=
  match s.setBase cl line with
  | none => s
  | some base => (List.range 16).foldl (fun s w => match Table.find (base + w) s.clines with
    | some c => if c.line ≠ line then s else
        let regs := (base + w) / 512 * 64 + c.vdev
        let o := Table.get WayRegs.reset regs s.cways
        { s with clines := Table.del (base + w) s.clines, cways := Table.put WayRegs.reset regs { o with occ := o.occ - 1 } s.cways }
    | none => s) s

/-! ## Versions and the directory -/

/-- The owner's data of a line (R219). -/
def State.line (s : State) (line : Nat) : LineMeta := Table.get ⟨0, 0⟩ line s.lines

/-- Change the owner's data of a line. -/
def State.setLine (s : State) (line : Nat) (m : LineMeta) : State := { s with lines := Table.put ⟨0, 0⟩ line m s.lines }

/-- Raise a hub's version clock (R219). -/
def State.raiseClock (s : State) (hub v : Nat) : State :=
  if v ≤ (s.hub hub).clock then s else s.modHub hub (fun h => { h with clock := v })

/-- The clusters the directory records as holders of a line, with their states (R12). -/
def State.holders (s : State) (line : Nat) : Table Moesi := s.dir.filter (fun e => decide (e.1 / 128 = line))

/-- Whether a cluster cache owns a line (R219). -/
def State.cacheOwns (s : State) (line : Nat) : Bool :=
  (s.holders line).any (fun e => e.2 == .modified || e.2 == .exclusive)

/-- A record that comes back to its home takes the first place of the slice's table, whose last entry is then lost when
the table is full (R237, R239). -/
def State.recHome (s : State) (line : Nat) : State :=
  let sl := lineHome line
  let order := line :: (Table.get [] sl s.recOrder).filter (· ≠ line)
  let kept := order.take 16384
  let gone := order.drop 16384
  { s with recOrder := Table.put [] sl kept s.recOrder
           recs := gone.foldl (fun r l => Table.del l r) s.recs }

/-- The scope checker's records of some lines or parties are lost, and with them their places in the tables (R237, R239). -/
def State.dropRecs (s : State) (lost : Nat × SyncRec → Bool) : State :=
  let recs := s.recs.filter (fun e => !lost e)
  { s with recs := recs
           recOrder := (s.recOrder.map (fun e => (e.1, e.2.filter (fun l => (Table.find l recs).isSome)))).filter (fun e => !e.2.isEmpty) }

/-- A record that moves to a cluster cache takes no entry of its home's table (R237). -/
def State.recAway (s : State) (line : Nat) : State :=
  let sl := lineHome line
  { s with recOrder := Table.put [] sl ((Table.get [] sl s.recOrder).filter (· ≠ line)) s.recOrder }

/-- After a change of holders: the home takes back wv and the record of a line no cache owns any more. -/
def State.settle (s : State) (line : Nat) (owned : Bool) : State :=
  if owned && !s.cacheOwns line then
    let s := s.raiseClock ((paHome (line * 256)).getD 0) (s.line line).wv
    if (Table.find line s.recs).isSome then s.recHome line else s
  else s

/-- Recall a line from every holder, whose caches lose it (R286, Table 01.2). -/
def State.recall (s : State) (line : Nat) : State :=
  let owned := s.cacheOwns line
  let s := (s.holders line).foldl (fun s e => s.dropLines (e.1 % 128) line) s
  State.settle { s with dir := s.dir.filter (fun e => decide (e.1 / 128 ≠ line)) } line owned

/-- A read served at the home: a Modified holder becomes Owned and an Exclusive one Shared. -/
def State.snoop (s : State) (line : Nat) : State :=
  let owned := s.cacheOwns line
  State.settle { s with dir := s.dir.map (fun e => if e.1 / 128 = line then
      (e.1, match e.2 with | .modified => Moesi.owned | .exclusive => .shared | m => m) else e) } line owned

/-- The directory grants a cluster of a full peer a line to read. A line that another holds is Shared; a line that no other holds
is Exclusive or Shared, a free choice (log entry 2, DESIGN CHOICE): Table 18.2 shows a sole reader with a Shared line, R435 and its ledger one with an
Exclusive line. -/
def State.dirRead (s : State) (cl line : Nat) : State :=
  if (Table.find (line * 128 + cl) s.dir).isSome then s
  else if !(s.holders line).isEmpty then
    let s := s.snoop line
    { s with dir := Table.ins (line * 128 + cl) .shared s.dir }
  else
    let f := s.takeFree
    let sole := Config.freeBit f.1
    let s := { f.2 with dir := Table.ins (line * 128 + cl) (if sole then .exclusive else .shared) f.2.dir }
    if sole then s.recAway line else s

/-- The directory grants a cluster of a full peer a line to write: Modified, no other holder left; the version of one that owned it
comes back to the home's clock first (R219). -/
def State.dirWrite (s : State) (cl line : Nat) : State :=
  let s := if (s.holders line).any (fun e => decide (e.1 % 128 ≠ cl) && (e.2 == .modified || e.2 == .exclusive)) then
      s.raiseClock ((paHome (line * 256)).getD 0) (s.line line).wv else s
  let s := (s.holders line).foldl (fun s e => if e.1 % 128 = cl then s else s.dropLines (e.1 % 128) line) s
  let s := { s with dir := Table.ins (line * 128 + cl) .modified
                      (s.dir.filter (fun e => decide (e.1 / 128 ≠ line))) }
  s.recAway line

/-! ## Caches (R177, R178, R451) -/

/-- The victim of an allocation: the lowest invalid way of the fill mask, else its least recently used (R178). -/
def victimWay (t : Table CacheLine) (base : Nat) (fill : BitVec 16) : Option Nat :=
  let ways := (List.range 16).filter (fun w => fill.getLsbD w)
  match ways.find? (fun w => (Table.find (base + w) t).isNone) with
  | some w => some w
  | none => ways.foldl (fun best w =>
      let use : Nat → Nat := fun x => match Table.find (base + x) t with | some c => c.use | none => 0
      match best with
      | none => some w
      | some b => if use w < use b then some w else some b) none

/-- What one lookup does to a cache: hit, the place of the line if it now stands there, the line put out. -/
structure CacheOut where
  hit : Bool
  place : Option Nat
  evicted : Option CacheLine
  lines : Table CacheLine
  ways : Table WayRegs

/-- A place in the LRU order of a set beyond every line of it, and beyond a count. -/
def topUse (t : Table CacheLine) (base least : Nat) : Nat :=
  (List.range 16).foldl (fun n w => match Table.find (base + w) t with | some c => Nat.max n (c.use + 1) | none => n) (least + 1)

/-- Every line of a set moves up in its LRU order, so that place 0 is the least recent. -/
def ageSet (t : Table CacheLine) (base : Nat) : Table CacheLine :=
  (List.range 16).foldl (fun t w => Table.modify (base + w) (fun c => { c with use := c.use + 1 }) t) t

/-- One lookup of a line in the set at a key, by a virtual device (R178): a hit makes the line most recently used, and so does
an allocation unless `last` gives the new line the least recent place (Table 06.6). `uses` counts the lookups made so far. -/
def cacheLookup (t : Table CacheLine) (regs : Table WayRegs) (base regBase line world vdev uses : Nat) (last : Bool) :
    CacheOut :=
  let r := Table.get WayRegs.reset (regBase + vdev) regs
  let recent := topUse t base uses
  match findWay t base line world with
  | some w =>
    ⟨true, some (base + w), none, Table.modify (base + w) (fun c => { c with use := recent }) t,
      Table.put WayRegs.reset (regBase + vdev) { r with hits := r.hits + 1 } regs⟩
  | none =>
    let regs := Table.put WayRegs.reset (regBase + vdev) { r with misses := r.misses + 1 } regs
    match victimWay t base r.fill with
    | none => ⟨false, none, none, t, regs⟩
    | some w =>
      let out := Table.find (base + w) t
      let regs := match out with
        | some c =>
          let o := Table.get WayRegs.reset (regBase + c.vdev) regs
          Table.put WayRegs.reset (regBase + c.vdev) { o with occ := o.occ - 1 } regs
        | none => regs
      let n := Table.get WayRegs.reset (regBase + vdev) regs
      ⟨false, some (base + w), out,
        Table.ins (base + w) ⟨line, world, vdev, if last then 0 else recent, [], 0, 0, 0, 0, 0⟩ (if last then ageSet t base else t),
        Table.put WayRegs.reset (regBase + vdev) { n with occ := n.occ + 1 } regs⟩

/-- A request reaches the home slice: one lookup of the last-level cache (R451). -/
def State.homeTouch (s : State) (line vdev : Nat) : State :=
  let sl := lineHome line
  let o := cacheLookup s.llc s.lways ((sl * 1536 + (line / 32) % 1536) * 16) (sl * 64) line 0 vdev s.uses false
  { s with llc := o.lines, lways := o.ways, uses := s.uses + 1 }

/-- The key of a sector copy in a cluster cache. -/
def ccopyKey (cl sector world : Nat) : Nat := (cl * 2 ^ 50 + sector) * 256 + world

/-- Forget a cluster's sector copies of a line. -/
def State.dropCcopies (s : State) (cl line : Nat) : State :=
  { s with ccopies := s.ccopies.filter (fun e => decide (e.1 / 1024 ≠ cl * 2 ^ 48 + line)) }

/-- The bytes a non-coherent cluster cache holds dirty over a sector. -/
def overlayDirty (dirty : Table Byte) (sector : Nat) (bs : List Byte) : List Byte :=
  (List.range 64).map (fun i => match Table.find (64 * sector + i) dirty with | some b => b | none => bs.getD i 0)

/-- A line whose dirty bytes have gone home stays in its cluster cache: its filled sectors hold them, with the version of the
write-back (R207). -/
def State.cleanLine (s : State) (cl place : Nat) : State :=
  match Table.find place s.clines with
  | none => s
  | some x =>
    let copies := (List.range 4).foldl (fun t i =>
      Table.modify (ccopyKey cl (x.line * 4 + i) x.world) (fun (c : Copy) => { c with
        bytes := overlayDirty x.dirty (x.line * 4 + i) c.bytes, poison := c.poison && !x.clean.getLsbD i, wv := (s.line x.line).wv }) t) s.ccopies
    { s with ccopies := copies, clines := Table.modify place (fun x => { x with dirty := [], clean := 0, carried := 0 }) s.clines }

/-- The clocks of two hubs after a message between them: both the larger (R219). -/
def State.meetHubs (s : State) (a b : Nat) : State :=
  if a = b then s else (s.raiseClock a (s.hub b).clock).raiseClock b (s.hub a).clock

/-- The sectors of a line that hold some of its dirty bytes. -/
def CacheLine.dirtySectors (c : CacheLine) : List Nat := dedup (c.dirty.map (fun e => e.1 / 64))

/-- Write a line's dirty bytes back to its home (R207), with the highest version that their writers carried (R221): the message and its
answer carry the clocks of both hubs (R219). Poison that stands in a sector of the cache goes with its dirty bytes (R441). -/
def State.writeBack (s : State) (cl : Nat) (c : CacheLine) (carried : Nat) : State :=
  if c.dirty.isEmpty then s
  else
    let hub := chipHub (cl / 8)
    let home := (paHome (c.line * 256)).getD hub
    let s := s.meetHubs hub home
    let m := s.line c.line
    let v := Nat.max (Nat.max m.wv m.re) (Nat.max c.carried carried) + 1
    let s := s.recall c.line
    let s := c.dirty.foldl (fun s e => s.putAt (s.keyOf c.world) e.1 [e.2]) s
    let s := (List.range 4).foldl (fun s i => if c.clean.getLsbD i then s.setPoison (c.line * 4 + i) false else s) s
    let s := c.dirtySectors.foldl (fun s x => if c.bad.getLsbD (x % 4) then s.setPoison x true else s) s
    (State.raiseClock (s.setLine c.line { m with wv := v }) home v).meetHubs hub home

/-- A cluster's holding of a line ends. -/
def State.release (s : State) (cl line : Nat) : State :=
  if (Table.find (line * 128 + cl) s.dir).isSome then
    let owned := s.cacheOwns line
    State.settle { s with dir := Table.del (line * 128 + cl) s.dir } line owned
  else s

/-- A line leaves a cluster cache: a peer's holding ends, dirty bytes go home, copies are forgotten (R178). -/
def State.evict (s : State) (cl : Nat) (c : CacheLine) : State :=
  ((s.writeBack cl c 0).dropCcopies cl c.line).release cl c.line

/-- One lookup of a cluster cache (R177, R178); `attr` 1 is served elsewhere and never looked up, `attr` 2 takes the least
recent place, and `attr` 3 allocates nothing: a miss is counted and served from the hub (R192). Answers whether the line hit and its
place. -/
def State.clusterTouch (s : State) (cl line world vdev attr : Nat) : (Bool × Option Nat) × State :=
  match s.setBase cl line with
  | none => ((false, none), s)
  | some base =>
    if attr = 3 ∧ (findWay s.clines base line world).isNone = true then
      let regs := base / 512 * 64 + vdev
      let r := Table.get WayRegs.reset regs s.cways
      ((false, none), { s with cways := Table.put WayRegs.reset regs { r with misses := r.misses + 1 } s.cways, uses := s.uses + 1 })
    else
    let o := cacheLookup s.clines s.cways base (base / 512 * 64) line world vdev s.uses (decide (attr = 2))
    let s := { s with clines := o.lines, cways := o.ways, uses := s.uses + 1 }
    ((o.hit, o.place), match o.evicted with | some c => s.evict cl c | none => s)

/-- The bit of a sector among the four of its line. -/
def sectorBit (sector : Nat) : BitVec 4 := BitVec.ofNat 4 (2 ^ (sector % 4))

/-- Mark a sector of a line in a cluster cache as filled (R181). -/
def State.fillSector (s : State) (place sector : Nat) : State :=
  { s with clines := Table.modify place (fun c => { c with filled := c.filled ||| sectorBit sector }) s.clines }

/-- Whether a sector that stands in a cluster cache is poisoned there (R441). -/
def State.badSector (s : State) (place sector : Nat) : Bool :=
  match Table.find place s.clines with | some c => c.bad.getLsbD (sector % 4) | none => false

/-- A sector of a line in a cluster cache is filled anew, as a whole: poison that stood there is gone (R441). -/
def State.cleanFill (s : State) (place sector : Nat) : State :=
  if s.badSector place sector then
    { s with clines := Table.modify place (fun c => { c with bad := c.bad &&& ~~~sectorBit sector }) s.clines }
  else s

/-- Whether a line in a cluster cache has a sector filled (R181). -/
def State.sectorFilled (s : State) (place sector : Nat) : Bool :=
  match Table.find place s.clines with | some c => c.filled.getLsbD (sector % 4) | none => false

/-! ## Reading and writing a global location -/

/-- What an access to global memory finds; `lease` is the end of the lease under which a cluster cache holds it, `looked` says whether
it went beyond the core's own storage, so that it has made the lookups of its line (R472). -/
structure Found where
  bytes : List Byte
  poison : Bool
  wv : Nat
  lease : Option Nat := none
  looked : Bool := true

/-- Who asks for an access: the core, the warp's program versions, its world and virtual device. -/
structure Asker where
  core : Nat
  pv : List Nat
  world : Nat
  vdev : Nat

/-- The highest program version (R220). -/
def Asker.q (a : Asker) : Nat := maxNat a.pv

/-- Whether a lease end covers a load from storage shared at scope t (R223). -/
def leaseCovers (pv : List Nat) (t e : Nat) : Bool :=
  (List.range 7).all (fun i => decide (i + 4 ≤ t) || decide (pv.getD i 0 ≤ e))

/-- The sector of a location as memory holds it, for a world (R26, R182). -/
def State.sectorAt (s : State) (world loc : Nat) : Found :=
  { bytes := s.bytesAt (s.keyOf world) (loc / 64 * 64) 64, poison := s.poisonAt (loc / 64 * 64) 64, wv := (s.line (loc / 256)).wv }

/-- What a sector copy holds. -/
def Copy.found (c : Copy) : Found := { bytes := c.bytes, poison := c.poison, wv := c.wv, lease := some c.lease }

/-- A core exchanges messages with the home of a line, over both hubs where the home is the other's (R219). -/
def State.meetHome (s : State) (core line : Nat) : State := s.meetHubs (coreHub core) ((paHome (line * 256)).getD (coreHub core))

/-- The bytes of a location out of a sector's. -/
def Found.cut (f : Found) (loc n : Nat) : Found := { f with bytes := (f.bytes.drop (loc % 64)).take n }

/-- A read at the home slice (Table 07.2). `touch` says whether it makes a lookup of its own (R472). -/
def State.homeRead (s : State) (a : Asker) (loc : Nat) (touch : Bool) : Found × State :=
  let s := if isRemote loc then s.sendRemote loc
    else ((if touch then s.homeTouch (loc / 256) a.vdev else s).snoop (loc / 256)).meetHome a.core (loc / 256)
  (s.sectorAt a.world loc, s)

/-- The owner of a line leases a copy of what it gave to a warp: the end of the lease (R220). -/
def State.grantLease (s : State) (a : Asker) (line wv : Nat) : Nat × State :=
  let e := Nat.max wv a.q + s.lambda
  let m := s.line line
  (e, s.setLine line { m with re := Nat.max m.re e })

/-- A sector read at the home slice into a cluster cache of a chiplet that is no full peer, under a lease (R218, R220). -/
def State.leaseRead (s : State) (a : Asker) (key loc : Nat) (touch : Bool) : Found × State :=
  let h := s.homeRead a loc touch
  let g := h.2.grantLease a (loc / 256) h.1.wv
  ({ h.1 with lease := some g.1 },
    { g.2 with ccopies := Table.ins key ⟨h.1.bytes, h.1.poison, h.1.wv, g.1⟩ g.2.ccopies })

/-- A read from the storage the cluster shares (Table 07.2): a full peer's cluster cache, kept by the directory, where a copy shared
before the isolation of the line's owner still stands (R435); an
I/O-coherent one under a lease that covers scope 4; a non-coherent one as it stands; else the home slice. `deep` asks for
the storage of scopes 5 to 10; lanes of one instruction after the first on a line make no lookup (`touch`, R472). -/
def State.clusterRead (s : State) (a : Asker) (loc attr : Nat) (deep touch : Bool) : Found × State :=
  let line := loc / 256
  let cl := coreCluster a.core
  let cls := (s.chip (coreChip a.core)).cls
  if isRemote loc || decide (attr = 1) || (deep && decide (cls ≠ 0)) then s.homeRead a loc touch
  else
    let r := if touch then s.clusterTouch cl line a.world a.vdev attr else
      let p := s.linePlace cl line a.world; ((p.isSome, p), s)
    let s := r.2
    match r.1.2 with
    | none => s.homeRead a loc touch
    | some place =>
      let key := ccopyKey cl (loc / 64) a.world
      if cls = 0 then
        let s := if s.sectorFilled place (loc / 64) || !touch then s else (s.homeTouch line a.vdev).meetHome a.core line
        let s := s.fillSector place (loc / 64)
        let s := if (Table.find (line * 128 + cl) s.dir).isSome then s else s.dropCcopies cl line
        let s := s.dirRead cl line
        let f := match Table.find key s.ccopies with | some c => c.found | none => s.sectorAt a.world loc
        ({ f with poison := f.poison || s.badSector place (loc / 64) }, s)
      else
        let dirty := match Table.find place s.clines with | some c => c.dirty | none => []
        let fill := fun (s : State) => (s.cleanFill place (loc / 64)).leaseRead a key loc touch
        let h := match (if r.1.1 then Table.find key s.ccopies else none) with
          | some c => if cls = 2 || leaseCovers a.pv 4 c.lease then (c.found, s) else fill s
          | none => fill s
        let clean := match Table.find place h.2.clines with | some c => c.clean.getLsbD (loc / 64 % 4) | none => false
        let bad := h.2.badSector place (loc / 64)
        (if cls = 2 then { h.1 with bytes := overlayDirty dirty (loc / 64) h.1.bytes, poison := (h.1.poison && !clean) || bad }
          else { h.1 with poison := h.1.poison || bad }, h.2)

/-- The key of a sector copy in core storage. -/
def copyKey (sector world : Nat) : Nat := sector * 256 + world

/-- Forget the copies a core holds of a sector, of every world (R221). -/
def State.dropCore (s : State) (core sector : Nat) : State :=
  s.modCore core (fun c => { c with copies := c.copies.filter (fun e => decide (e.1 / 256 ≠ sector)) })

/-- Forget the copies a core and its cluster hold of a sector, of every world (R221). -/
def State.dropCopies (s : State) (core sector : Nat) : State :=
  let s := s.dropCore core sector
  { s with ccopies := s.ccopies.filter (fun e => decide (e.1 / 256 ≠ coreCluster core * 2 ^ 50 + sector)) }

/-- The bytes a core's pending writes hold over a location, for the world that wrote them (R189). -/
def overlayWrites (ws : List PendWrite) (key loc : Nat) (bs : List Byte) : List Byte :=
  (List.range bs.length).map (fun i =>
    ws.foldl (fun b w => if w.key = key then
        w.pieces.foldl (fun b p => if p.1 ≤ loc + i ∧ loc + i < p.1 + p.2.length then p.2.getD (loc + i - p.1) b else b) b
      else b) (bs.getD i 0))

/-- Whether a pending write of the core covers the whole sector of a location. -/
def wholeWritten (ws : List PendWrite) (key sector : Nat) : Bool :=
  ws.any (fun w => decide (w.key = key) && coversSector w.pieces sector)

/-- A read from core storage (R218, R220, R223): a leased copy that covers the warp's program versions may serve it (a free
choice says whether it is still held); else the cluster's storage does, and the copy is refreshed: under a lease of its own from
an owner, under that of a cluster cache which is none (R220). Pending writes of the core are seen. -/
def State.coreRead (s : State) (a : Asker) (loc n attr : Nat) (touch : Bool) : Found × State :=
  let key := copyKey (loc / 64) a.world
  let f := s.takeFree
  let s := f.2
  let serve := if isRemote loc then none else
    match Table.find key (s.core a.core).copies with
    | some c => if leaseCovers a.pv 3 c.lease && Config.freeBit f.1 then some c else none
    | none => none
  let r : Found × State := match serve with
    | some c => ({ c.found with looked := false }, s)
    | none =>
      let h := s.clusterRead a loc attr false touch
      if isRemote loc then h
      else
        let g := match h.1.lease with | some e => (e, h.2) | none => h.2.grantLease a (loc / 256) h.1.wv
        (h.1, g.2.modCore a.core (fun c => { c with copies := Table.ins key ⟨h.1.bytes, h.1.poison, h.1.wv, g.1⟩ c.copies }))
  let ws := (r.2.core a.core).writes
  let k := r.2.keyOf a.world
  let f := r.1.cut loc n
  ({ f with bytes := overlayWrites ws k loc f.bytes, poison := f.poison && !wholeWritten ws k (loc / 64) }, r.2)

/-- Whether a write of a core's chiplet lands in its cluster cache rather than at the home (R218, R233). -/
def State.cacheTakes (s : State) (core loc attr : Nat) : Bool :=
  !isRemote loc && decide ((s.chip (coreChip core)).cls ≠ 1) && decide (attr ≠ 1) && !(s.cacheBanks (coreCluster core)).isEmpty

/-- Whether a non-coherent chiplet's cluster cache holds the line a write went to: the write has left its bytes there. -/
def State.keepsDirty (s : State) (core cl line world : Nat) (takes : Bool) : Bool :=
  takes && decide ((s.chip (coreChip core)).cls = 2) && (s.linePlace cl line world).isSome

/-- A sector of a line in a cluster cache has been written whole: it loses its poison there (R441, R474). -/
def CacheLine.cleaned (c : CacheLine) (sector : Nat) : CacheLine :=
  { c with clean := c.clean ||| sectorBit sector, bad := c.bad &&& ~~~sectorBit sector }

/-- Put the bytes of a write into a line of a non-coherent chiplet's cluster cache, dirty, with the version that the write carries (R177,
R221, R474). -/
def CacheLine.put (c : CacheLine) (carried : Nat) (pieces : List (Nat × List Byte)) : CacheLine :=
  let c := { c with
    dirty := pieces.foldl (fun t p => ((List.range p.2.length).foldl (fun t i => Table.ins (p.1 + i) (p.2.getD i 0) t) t)) c.dirty
    carried := Nat.max c.carried carried, writes := c.writes + 1 }
  (piecesSectors pieces).foldl (fun c x => if coversSector pieces x then c.cleaned x else c) c

/-- The bytes of a line that a non-coherent chiplet's cluster cache holds dirty give way to a write that goes home past it: the core sees
what it wrote (R221, R243). -/
def State.undirty (s : State) (cl line : Nat) (pieces : List (Nat × List Byte)) : State :=
  match s.setBase cl line with
  | none => s
  | some base =>
    { s with clines := (List.range 16).foldl (fun t w => Table.modify (base + w) (fun c =>
        if c.line ≠ line ∨ c.dirty.isEmpty = true then c
        else { c with dirty := c.dirty.filter (fun e => !pieces.any (fun p => decide (p.1 ≤ e.1) && decide (e.1 < p.1 + p.2.length))) }) t) s.clines }

/-- A lookup of a cluster cache for a write, or, for a later lane of the instruction, only the place of the line (R472). -/
def State.writePlace (s : State) (cl line world vdev attr : Nat) (touch : Bool) : (Bool × Option Nat) × State :=
  if touch then s.clusterTouch cl line world vdev attr
  else let p := s.linePlace cl line world; ((p.isSome, p), s)

/-- Whether poison stands in the sector of a location in the cluster cache of a core whose chiplet is a full peer (R441). -/
def State.badHere (s : State) (core loc world : Nat) : Bool :=
  isPhys loc && decide ((s.chip (coreChip core)).cls = 0) && (match s.linePlace (coreCluster core) (loc / 256) world with
    | some place => s.badSector place (loc / 64)
    | none => false)

/-- Poison that stands in a cluster's copy of a line goes with the line when the cluster comes to hold it Modified (R441). -/
def State.ownBad (s : State) (cl line world : Nat) : State :=
  match s.linePlace cl line world with
  | none => s
  | some place => match Table.find place s.clines with
    | none => s
    | some c => if c.bad = 0 then s else
      let s := (List.range 4).foldl (fun s i => if c.bad.getLsbD i then s.setPoison (line * 4 + i) true else s) s
      { s with clines := Table.modify place (fun c => { c with bad := 0 }) s.clines }

/-- Give the pieces of a write their version at the owner of their line, and write them (R219, R221). Answers the version.
`look` says whether the write makes a lookup of the cluster cache (R178): an atomic does, a store does not (R181, R473; log entry 14, DEDUCED), so it
counts nothing and moves nothing in a full peer's cache, whose directory grants it the line all the same, unless the write allocates nothing and
the cluster holds no line (R192); a non-coherent
chiplet's cache has to hold the bytes and allocates, and keeps the sectors it has filled beneath them (R181). The answer of the home
carries its clock to the writer's hub (R219). `touch` is false for
the lanes of one instruction after the first on the line, which make no lookup anywhere (R472). -/
def State.ownerWrite (s : State) (core key world vdev attr carried : Nat) (pieces : List (Nat × List Byte)) (look touch : Bool) :
    Nat × State :=
  match pieces with
  | [] => (0, s)
  | p :: _ =>
    if !isPhys p.1 then (0, s.putPieces key pieces)
    else
      let line := p.1 / 256
      let cl := coreCluster core
      let s := if isRemote p.1 then s else s.meetHome core line
      let m := s.line line
      let v := Nat.max (Nat.max m.wv m.re) carried + 1
      let cls := (s.chip (coreChip core)).cls
      let takes := s.cacheTakes core p.1 attr
      let reach := fun (s : State) => if touch then s.homeTouch line vdev else s
      let grant := fun (s : State) => (((s.dirWrite cl line).ownBad cl line world).putPieces key pieces).setLine line { m with wv := v }
      let home := fun (s : State) =>
        let s := if isRemote p.1 then s.sendRemote p.1 else ((reach s).recall line).undirty cl line pieces
        let s := (s.putPieces key pieces).setLine line { m with wv := v }
        if isRemote p.1 then s else (s.raiseClock ((paHome (p.1)).getD 0) v).meetHome core line
      let s :=
        if !takes then home s
        else if decide (cls = 0) && !look then
          if attr = 3 ∧ (Table.find (line * 128 + cl) s.dir).isNone = true then home s else
          let owned := match Table.find (line * 128 + cl) s.dir with | some .modified => true | some .exclusive => true | _ => false
          grant (if owned then s else reach s)
        else
          let r := s.writePlace cl line world vdev attr touch
          match r.1.2 with
          | some place =>
            if cls = 0 then grant (if r.1.1 then r.2 else reach r.2)
            else { r.2 with clines := Table.modify place (fun c => c.put carried pieces) r.2.clines }
          | none => home r.2
      (v, (piecesSectors pieces).foldl (fun s x => if s.keepsDirty core cl line world takes then s.dropCore core x else s.dropCopies core x) s)

/-- An element or copy has by now written some sectors whole: they lose their poison, in the cluster cache that keeps the bytes or in
memory (R441, R474). -/
def State.cleanSectors (s : State) (core world attr : Nat) (pieces : List (Nat × List Byte)) : State :=
  (piecesSectors pieces).foldl (fun s x =>
    let takes := isPhys (64 * x) && s.cacheTakes core (64 * x) attr
    match (if s.keepsDirty core (coreCluster core) (x / 4) world takes then s.linePlace (coreCluster core) (x / 4) world else none) with
    | some place => { s with clines := Table.modify place (fun c => c.cleaned x) s.clines }
    | none => s.setPoison x false) s

/-! ## Translation (R183 to R188) -/

/-- What a translation answers. -/
inductive Xl where
  | ok (pa attr level : Nat)
  | fault (code sub level : Nat)
deriving DecidableEq, Repr

/-- The low bit of the index of a level (Table 06.5). -/
def levelLow (k : Nat) : Nat := 12 + 9 * k

/-- The index of a level in a virtual address. -/
def levelIndex (va k : Nat) : Nat := bits va (levelLow k + 8) (levelLow k)

/-- Whether the permission bits of a leaf allow an access; a read-modify-write needs both (R184, R248). -/
def permOk (rd wr ex : Bool) : AccessKind → Bool
  | .load => rd
  | .store => wr
  | .fetch => ex
  | .rmw => rd && wr

/-- The examination of one table entry (R184): a cause, the next table, or a leaf. -/
inductive Entry where
  | bad (code : Nat)
  | next (table : Nat)
  | leaf (e : TlbEntry)
deriving DecidableEq, Repr

/-- Examine an entry met at a level (R184, Table 06.6, R186). -/
def examine (asid va k e : Nat) : Entry :=
  let b := fun i => e.testBit i
  let attr := bits e 11 10
  let ppn := bits e 51 12
  if !b 0 then .bad 0x10
  else if bits e 63 52 ≠ 0 ∨ b 9 ∨ bits e 7 5 ≠ 0 ∨ attr = 3 ∨ (b 3 && !b 2)
      ∨ (!b 1 && (decide (attr ≠ 0) || b 8 || b 4 || b 3 || b 2))
      ∨ (b 8 && !(b 1 && decide (k = 0)))
      ∨ (b 1 && decide (k = 1) && decide (bits ppn 8 0 ≠ 0))
      ∨ (b 8 && decide (bits ppn 3 0 ≠ bits va 15 12)) then .bad 0x12
  else if b 1 && decide (2 ≤ k) then .bad 0x13
  else if !b 1 && decide (k = 0) then .bad 0x13
  else if !b 1 then .next (ppn * 4096)
  else
    let size := if k = 1 then 2 ^ 21 else if b 8 then 2 ^ 16 else 2 ^ 12
    .leaf ⟨asid, va / size * size, size, ppn * 4096 / size * size, b 2, b 3, b 4, attr, k⟩

/-- What a walk gathers: its answer, the pointer entries read, how many entries were read, the physical address of a
poisoned entry. -/
structure Walk where
  out : Except (Nat × Nat × Nat) TlbEntry
  ptrs : List WalkEntry
  reads : Nat
  poisonAt : Option Nat

/-- Read entries level by level from a table on (R184). -/
def walkFrom (s : State) (fetch : Bool) (asid va : Nat) : Nat → Nat → List WalkEntry → Nat → Walk
  | k, table, ptrs, reads =>
    let pa := table + 8 * levelIndex va k
    if (paHome pa).isNone then ⟨.error (0x11, if fetch then 1 else 0, k), ptrs, reads, none⟩
    else if s.poisonAt pa 8 then ⟨.error (0x28, if fetch then 2 else 1, k), ptrs, reads + 1, some pa⟩
    else
      match examine asid va k (leNat (s.bytesAt 0 pa 8)) with
      | .bad c => ⟨.error (c, if fetch then 1 else 0, k), ptrs, reads + 1, none⟩
      | .leaf e => ⟨.ok e, ptrs, reads + 1, none⟩
      | .next t =>
        match k with
        | 0 => ⟨.error (0x13, if fetch then 1 else 0, 0), ptrs, reads + 1, none⟩
        | j + 1 => walkFrom s fetch asid va j t (ptrs ++ [⟨asid, j + 1, va / 2 ^ levelLow (j + 1), t⟩]) (reads + 1)
termination_by structural k => k

/-- Put an entry at the front of an LRU list of a size. -/
def lruPut {β : Type} [DecidableEq β] (n : Nat) (x : β) (l : List β) : List β := (x :: l.filter (· ≠ x)).take n

/-- The deepest walk-cache entry that matches (R185). -/
def walkHit (l : List WalkEntry) (asid va : Nat) : Option WalkEntry :=
  [1, 2, 3, 4].findSome? (fun k => l.find? (fun e => decide (e.asid = asid) && decide (e.level = k)
    && decide (e.key = va / 2 ^ levelLow k)))

/-- Add to performance counters of a workgroup (Table 12.6), which count nothing while it is not resident (R393). -/
def State.count (s : State) (g : Nat) (sel : Nat) (n : Nat) : State :=
  s.modWg g (fun x => if x.stands then { x with perf := listSet sel (x.perf.getD sel 0 + BitVec.ofNat 64 n) x.perf } else x)

/-- One translation lookup on a core, walking the tables on a miss (R184 to R186). `g` is the workgroup whose counters
count a data lookup. R185 gives the data caches 128 and 32 entries and the fetch caches no size; the model gives them the same
(log entry 37, DESIGN CHOICE). -/
def State.xlate (s : State) (core : Nat) (fetch : Bool) (asid va : Nat) (acc : AccessKind) (g : Nat) : Xl × State :=
  let cr := s.core core
  let tlb := if fetch then cr.ftlb else cr.dtlb
  let wc := if fetch then cr.fwalk else cr.dwalk
  let tally := fun (s : State) (l : List (Nat × Nat)) => if fetch then s else l.foldl (fun s p => s.count g p.1 p.2) s
  let store := fun (s : State) (t : List TlbEntry) (w : List WalkEntry) =>
    s.modCore core (fun c => if fetch then { c with ftlb := t, fwalk := w } else { c with dtlb := t, dwalk := w })
  let answer := fun (e : TlbEntry) =>
    if permOk e.rd e.wr e.ex acc then Xl.ok (e.frame + (va - e.page)) e.attr e.level
    else Xl.fault 0x11 (if fetch then 1 else 0) e.level
  match tlb.find? (fun e => decide (e.asid = asid) && decide (e.page ≤ va) && decide (va < e.page + e.size)) with
  | some e => (answer e, tally (store s (lruPut 128 e tlb) wc) [(6, 1), (7, 1)])
  | none =>
    let hit := walkHit wc asid va
    let k := match hit with | some e => e.level - 1 | none => 4
    let table := match hit with | some e => e.table | none => Table.get 0 asid s.roots
    let wc := match hit with | some e => lruPut 32 e wc | none => wc
    let w := walkFrom s fetch asid va k table [] 0
    let wc := w.ptrs.foldl (fun l e => lruPut 32 e l) wc
    let s := tally s [(6, 1), (8, 1), (if hit.isSome then 9 else 10, 1), (11, w.reads)]
    let s := match w.poisonAt with
      | some pa => s.logEvent (coreHub core)
          { LogEntry.mk0 2 (coreChip core) with cause := 0x28, pa := pa / 64 * 64, va := va, asid := asid }
      | none => s
    match w.out with
    | .error (c, sub, lv) => (.fault c sub lv, store s tlb wc)
    | .ok e =>
      let ok := permOk e.rd e.wr e.ex acc
      (answer e, store s (if ok then lruPut 128 e tlb else tlb) wc)

/-- The virtual page of an address, 4 KiB. -/
def vpage (va : Nat) : Nat := va / 4096

/-! ## The hub's translation, and reads of a receive ring -/

/-- Translate an address for the hub, which caches no translation. -/
def State.hubXlate (s : State) (asid va : Nat) (acc : AccessKind) : Option Nat :=
  match (walkFrom s false asid va 4 (Table.get 0 asid s.roots) [] 0).out with
  | .error _ => none
  | .ok e =>
    let pa := e.frame + (va - e.page)
    if permOk e.rd e.wr e.ex acc && (paHome pa).isSome then some pa else none

/-- Whether an offset of a connection's receive ring holds no byte that has been received and not consumed (R419, R420). -/
def Conn.unread (c : Conn) (k : Nat) : Bool :=
  let size := 2 ^ (12 + c.recvSize)
  decide (c.rtail - c.rhead ≤ (k + size - c.rhead % size) % size)

/-- Whether one of n bytes at a location stands in the receive ring of a connection beyond its receive tail (R421). -/
def State.unreadRing (s : State) (loc n : Nat) : Bool :=
  [0, 1].any (fun h => (s.hub h).conns.any (fun e => (List.range (2 ^ (6 + e.2.recvSize))).any (fun i =>
    decide (s.hubXlate e.2.asid ((e.2.recv + 64 * i) % 2 ^ 57) .load = some (loc / 64 * 64))
      && (List.range n).any (fun j => e.2.unread (64 * i + loc % 64 + j)))))

/-- A host-side read of receive bytes beyond the receive tail returns any value (R421). -/
def State.hostSide (s : State) (loc n : Nat) (r : Found × State) : Found × State :=
  if s.unreadRing loc n then ({ r.1 with bytes := leBytes n (Config.freeNat r.2.takeFree.1) }, r.2.takeFree.2) else r

end Sys2Proof.Machine
end

