-- ==== Sys2Proof/Machine/Ops.lean ====
section
/-! DEFINITION. The shared operations: landing results, checking and performing the accesses of an instruction, taking an
exception, returning from one, reporting to Foulo, asynchronous causes, and ending warps and workgroups (R175, R190, R191,
R358, R377 to R390). -/

namespace Sys2Proof.Machine

/-! ## Causes -/

/-- A cause without trap value. -/
def cause0 (code sub : Nat) : CauseInfo := ⟨BitVec.ofNat 8 code, BitVec.ofNat 8 sub, false, [], []⟩

/-- A cause whose trap value is the same in every lane (the helper `trap(c, t)` of Table 02.17). -/
def causeVal (code sub : Nat) (t : Word) : CauseInfo := ⟨BitVec.ofNat 8 code, BitVec.ofNat 8 sub, false, laneSplat t, []⟩

/-- A cause with a trap value for each lane. -/
def causeLanes (code sub : Nat) (lo hi : Nat → Word) : CauseInfo :=
  ⟨BitVec.ofNat 8 code, BitVec.ofNat 8 sub, false, laneBuild lo, laneBuild hi⟩

/-- Whether a cause is asynchronous (Table 12.2). -/
def causeAsync (c : CauseInfo) : Bool :=
  c.code == 0x30 || (c.code == 0x31 && c.sub == 1) || (c.code == 0x41 && c.sub == 1)

/-- The trap values of a cause in all lanes. -/
def lanesOr0 (l : Lanes) : Lanes := if l.isEmpty then List.replicate 32 0 else l

/-! ## The asker of a warp's accesses -/

/-- The asker of a warp. -/
def askerOf (g : Wg) (w : Warp) : Asker := ⟨g.core, w.versions, g.world, g.vdev⟩

/-! ## Landing results (R190, R191, R209) -/

/-- Write one lane of a register slot; a poisoned result writes 0 and marks the lane (R191). -/
def Warp.setLane (w : Warp) (slot lane : Nat) (x : Word) (poison : Bool) : Warp :=
  let v := w.reg slot
  let bit : Mask := BitVec.ofNat 32 (2 ^ lane)
  w.setReg slot ⟨.general, listSet lane (if poison then 0 else x) v.vals,
    if poison then v.poison ||| bit else v.poison &&& ~~~bit⟩

/-- The words a load of some bytes yields (Table 06.8a). -/
def loadWords (bs : List Byte) (signed : Bool) : List Word :=
  let n := bs.length
  if n < 4 then [if signed then BitVec.ofInt 32 (sextN (leNat bs) (8 * n)) else BitVec.ofNat 32 (leNat bs)]
  else (List.range (n / 4)).map (fun i => BitVec.ofNat 32 (leNat ((bs.drop (4 * i)).take 4)))

/-- Log the poison a warp meets at a location, naming the sector (R484). -/
def State.logPoison (s : State) (cls : Nat) (g : Wg) (loc addr : Nat) (code : Nat) : State :=
  let chip := coreChip g.core
  let e := { LogEntry.mk0 cls chip with
    cause := code, gen := g.gen, asid := g.asid, vdev := g.vdev, world := g.world }
  s.logEvent (chipHub chip) (if isPriv loc then { e with va := addr / 64 * 64 % 2 ^ 32, detail := 2 ^ 31 }
    else if isBank loc then { e with va := addr % 2 ^ 57 }
    else { e with pa := loc / 64 * 64, va := addr % 2 ^ 57 })

/-- Whether two ranges of bytes meet when both are widened to aligned blocks of a size. -/
def blocksMeet (block a n b m : Nat) : Bool :=
  decide (a / block ≤ (b + m - 1) / block) && decide (b / block ≤ (a + n - 1) / block)

/-- Whether two writes of a core are kept in order: their bytes overlap, they merge into one unit of a protected world (R182, R189), one
completes a sector that its instruction writes whole, of which the other writes a part (R474), or they are lines of one instruction whose
lookups come in order (R472). -/
def PendWrite.meets (p q : PendWrite) : Bool :=
  (decide (p.batch ≠ 0) && decide (p.batch = q.batch))
    || q.pieces.any (fun x => p.pieces.any (fun y => overlaps x.1 x.2.length y.1 y.2.length
      || (decide (p.key ≠ 0) && blocksMeet 16 x.1 x.2.length y.1 y.2.length)
      || ((p.whole || q.whole) && blocksMeet 64 x.1 x.2.length y.1 y.2.length)))

/-! ## Writes at their owner (R182, R189, R219 to R224, R394) -/

/-- The bytes of the units that the write buffer had read for a write and that the write itself does not give: they are written with it
(R182). -/
def PendWrite.rest (p : PendWrite) : List (Nat × List Byte) :=
  p.snap.flatMap (fun u => (List.range 16).filterMap (fun i =>
    if p.pieces.any (fun x => decide (x.1 ≤ 16 * u.1 + i) && decide (16 * u.1 + i < x.1 + x.2.length)) then none
    else some (16 * u.1 + i, [u.2.getD i 0])))

/-- Write the rest of the units of a write where the write has gone: the cluster cache of a non-coherent chiplet, or memory (R182). -/
def State.mergeRest (s : State) (core : Nat) (p : PendWrite) : State :=
  match p.rest with
  | [] => s
  | x :: xs =>
    let cl := coreCluster core
    match (if isPhys x.1 && s.keepsDirty core cl (x.1 / 256) p.world (s.cacheTakes core x.1 p.attr) then s.linePlace cl (x.1 / 256) p.world
        else none) with
    | some place => { s with clines := Table.modify place (fun c => c.put p.carried (x :: xs)) s.clines }
    | none => (x :: xs).foldl (fun s y => s.putAt p.key y.1 y.2) s

/-- Perform a pending write at the owner of its line: its version goes back to its warp, and to those that have acquired it
(R219, R228). A unit that the write buffer had read before is written whole (R182). A write of an older generation is discarded
(R394). -/
def State.perform (s : State) (core : Nat) (p : PendWrite) : State :=
  if olderTag p.gen (s.gen p.vdev) then s
  else
  let o := s.ownerWrite core p.key p.world p.vdev p.attr p.carried p.pieces false true
  let s := o.2.mergeRest core p
  let s := if p.whole then s.cleanSectors core p.world p.attr p.pieces else s
  let line := match p.pieces with | x :: _ => x.1 / 256 | [] => 0
  let kept := decide ((s.chip (coreChip core)).cls = 2) && (p.pieces.any (fun x => isPhys x.1 && !isRemote x.1))
  let s := (s.modWg p.wg (fun g => { g with ver := Nat.max g.ver o.1 })).modCore core (fun c => { c with ver := Nat.max c.ver o.1 })
  (p.warp :: p.also).foldl (fun s id => s.modWarp id (fun w => { w with
    wmax := Nat.max w.wmax o.1, unflushed := if kept && !w.unflushed.contains line then w.unflushed ++ [line] else w.unflushed })) s

/-- Whether a location stands in a bank that is switching: what has been issued to it and is not performed waits (R205). -/
def State.inSwitch (s : State) (loc : Nat) : Bool := isBank loc && !(s.bank (bankOfLoc loc)).switching.isEmpty

/-- Perform pending write i of a core, if no earlier write of the core that it has to follow is still pending (R182, R189, R472, R474) and
no bank that it goes to is switching (R205). -/
def State.performAt (s : State) (core i : Nat) : State :=
  let ws := (s.core core).writes
  match ws[i]? with
  | none => s
  | some p =>
    if (ws.take i).any p.meets || p.pieces.any (fun x => s.inSwitch x.1) then s
    else (s.modCore core (fun c => { c with writes := listDel i c.writes })).perform core p

/-- The pending writes that some of them and the order among writes call for: those picked, and every earlier one that one of
them has to follow; and the rest. -/
def splitWrites (pick : PendWrite → Bool) : List PendWrite → List PendWrite × List PendWrite
  | [] => ([], [])
  | p :: ws =>
    let r := splitWrites pick ws
    if pick p || r.1.any p.meets then (p :: r.1, r.2) else (r.1, p :: r.2)

/-- Perform the pending writes of a core that are picked, in order, and those they have to follow (R182, R189). -/
def State.performWhere (s : State) (core : Nat) (pick : PendWrite → Bool) : State :=
  let r := splitWrites pick (s.core core).writes
  if r.1.isEmpty then s
  else r.1.foldl (fun s p => s.perform core p) (s.modCore core (fun c => { c with writes := r.2 }))

/-- Perform every pending write of a core that touches a line, in order. -/
def State.performLine (s : State) (core line : Nat) : State :=
  s.performWhere core (fun p => p.pieces.any (fun x => decide (x.1 / 256 = line)))

/-- Whether a pending write touches some bytes. -/
def PendWrite.touches (p : PendWrite) (loc n : Nat) : Bool := p.pieces.any (fun x => overlaps x.1 x.2.length loc n)

/-- A warp has read bytes through the pending writes of its core: what it does next to them follows those writes (R226). -/
def State.sawWrites (s : State) (core id loc n : Nat) : State :=
  if (s.core core).writes.any (fun p => p.touches loc n && decide (p.warp ≠ id) && !p.seen.contains id) then
    s.modCore core (fun c => { c with writes := c.writes.map (fun p =>
      if p.touches loc n && decide (p.warp ≠ id) && !p.seen.contains id then { p with seen := id :: p.seen } else p) })
  else s

/-- Read the data of a load of a warp at its storage (R218): private; a bank, where the warp's own writes of the bytes come first
(R189); or global through core storage, whose pending writes it then has seen (R226). `touch` says whether it is the first of its
instruction on its line (R472). -/
def State.readLoc (s : State) (id : Nat) (g : Wg) (w : Warp) (loc n attr : Nat) (touch : Bool) : Found × State :=
  if isPriv loc then ({ bytes := s.bytesAt 0 loc n, poison := s.poisonAt loc n, wv := 0 }, s)
  else if isBank loc then
    let s := s.performWhere g.core (fun p => decide (p.warp = id) && p.touches loc n)
    ({ bytes := s.bytesAt (s.keyOf g.world) loc n, poison := s.poisonAt loc n, wv := 0 }, s)
  else let r := s.hostSide loc n (s.coreRead (askerOf g w) loc n attr touch); (r.1, r.2.sawWrites g.core id loc n)

/-- Land one outstanding result of a warp (R190, R191, R209, R220, R222). -/
def State.landPending (s : State) (id : Nat) (p : Pending) : State :=
  match Table.find id s.warps with
  | none => s
  | some w0 =>
    match Table.find w0.wg s.wgs with
    | none => s
    | some g =>
      let step := fun (acc : State × List Nat × List Nat) (l : LaneLoad) =>
        let (s, seen, lns) := acc
        match Table.find id s.warps with
        | none => acc
        | some w =>
          let got : (List Word × Bool × Nat × Bool) × State := match l.value with
            | some vs => ((vs, l.bad, 0, false), s)
            | none =>
              if l.lost then ((l.slots.map (fun _ => 0), true, 0, false), s)
              else let r := s.readLoc id g w l.loc l.bytes l.attr (!lns.contains (l.loc / 256))
                ((loadWords r.1.bytes l.signed, r.1.poison, r.1.wv, r.1.looked), r.2)
          let (ws, poison, wv, looked) := got.1
          let s := got.2
          let sector := l.loc / 64
          let s := if poison && !l.lost && !seen.contains sector then s.logPoison 2 g l.loc l.addr 0 else s
          let w := (l.slots.zip ws).foldl (fun w e => w.setLane e.1 l.lane e.2 poison) w
          (s.setWarp id { w with ov := Nat.max w.ov wv }, if poison then sector :: seen else seen,
            if looked then l.loc / 256 :: lns else lns)
      let s := (p.loads.foldl step (s, [], [])).1
      match p.token with
      | none => s
      | some t => s.modWarp id (fun w => t.foldl (fun w e => w.setLane e.2 e.1 1 false) w)

/-- Land every outstanding result of a warp in order. -/
def State.landAll (s : State) (id : Nat) : State :=
  match Table.find id s.warps with
  | none => s
  | some w => (w.pend.foldl (fun s p => s.landPending id p) s).modWarp id (fun w => { w with pend := [] })

/-! ## Checking the accesses of one instruction (R171 to R175, R241, R248, R392) -/

/-- One lane's check: the location and page attribute, or the cause that applies with its table level. -/
inductive LaneChk where
  | ok (loc attr : Nat)
  | bad (code sub level : Nat)
deriving DecidableEq, Repr

/-- The order of the memory causes of one instruction (R175, R248, R392). -/
def causeRank (code sub : Nat) : Nat :=
  if code = 0x03 then 2 else if code = 0x28 ∧ sub = 1 then 3 else if code = 0x12 then 4 else if code = 0x13 then 5
  else if code = 0x10 then 6 else if code = 0x11 then 7 else if code = 0x38 then 8 else if code = 0x19 then 9
  else if code = 0x18 then 10 else if code = 0x20 then 11 else if code = 0x21 then 12 else if code = 0x48 then 13 else 14

/-- The check of a cluster address of n bytes (R172, R174, R179). `wide` says that the access is a W128 `LD` or `ST`. -/
def checkCluster (s : State) (g : Wg) (addr n : Nat) (wide : Bool) : LaneChk :=
  let cl := coreCluster g.core
  let bank := addr / 2 ^ 17 % 256
  let b := s.bank (cl * 256 + bank)
  if addr % n ≠ 0 then .bad 0x03 0 0
  else if 2 ^ 25 ≤ addr ∨ kindBanks (chipKind (cl / 8)) ≤ bank ∨ b.mode = 0 ∨ b.vdev.toNat ≠ g.vdev
    ∨ 2 ^ 17 < addr % 2 ^ 17 + n ∨ b.mode = 3 ∨ (b.mode = 2 ∧ ¬(wide = true ∧ addr % 2 ^ 17 = 0)) then .bad 0x11 0 0
  else if b.world.toNat ≠ g.world then .bad 0x38 0 0
  else .ok (locBank cl addr) 0

/-- The check of a private address of n bytes (R171, R174). -/
def checkPrivate (wg : Nat) (g : Wg) (addr n : Nat) : LaneChk :=
  if addr % n ≠ 0 then .bad 0x03 0 0
  else if g.scratch < addr + n then .bad 0x11 0 0
  else .ok (locPriv wg addr) 0

/-- The translation of one virtual address on the warp's core, once for each page of the instruction (R188). -/
def xlateMemo (s : State) (g : Wg) (wg va : Nat) (acc : AccessKind) (memo : List (Nat × Xl)) :
    Xl × List (Nat × Xl) × State :=
  match memo.find? (fun e => decide (e.1 = vpage va)) with
  | some (_, .ok pa attr lv) => (.ok (pa / 4096 * 4096 + va % 4096) attr lv, memo, s)
  | some (_, f) => (f, memo, s)
  | none => let r := s.xlate g.core false g.asid va acc wg; (r.1, (vpage va, r.1) :: memo, r.2)

/-- The check of one lane's address: alignment, translation, permission, and that memory stands there (R171 to R174, R184,
R449). `align` is the alignment, `n` the bytes. -/
def checkLane (s : State) (g : Wg) (wg space align n addr : Nat) (wide : Bool) (acc : AccessKind) (memo : List (Nat × Xl)) :
    LaneChk × List (Nat × Xl) × State :=
  if space = 0 then (checkPrivate wg g addr n, memo, s)
  else if space = 1 then (checkCluster s g addr n wide, memo, s)
  else
    let va := addr % 2 ^ 57
    if va % align ≠ 0 then (.bad 0x03 0 0, memo, s)
    else
      let r := xlateMemo s g wg va acc memo
      match r.1 with
      | .fault c sub lv => (.bad c sub lv, r.2)
      | .ok pa attr lv => (if (paHome pa).isNone then .bad 0x11 0 lv else .ok pa attr, r.2)

/-- Whether an access meets a range lock (R241): any access a destination range, a writing one a source range too. -/
def rangeHit (locks : List RangeLock) (space owner addr n : Nat) (writes : Bool) : Bool :=
  locks.any (fun k => decide (k.space = space) && decide (k.owner = owner) && overlaps addr n k.lo (k.hi - k.lo)
    && (k.dest || writes))

/-- The owner field of a range lock for an access of a workgroup in a space (R240). -/
def lockOwner (g : Wg) (wg space : Nat) : Nat := if space = 0 then wg else if space = 1 then coreCluster g.core else g.asid

/-- Whether an access meets a data watchpoint (R392): global accesses of world 0. -/
def watchHit (c : Core) (g : Wg) (space addr n : Nat) (acc : AccessKind) : Bool :=
  decide (space = 2) && decide (g.world = 0) && c.watch.any (fun k => overlaps addr n k.lo (k.hi - k.lo)
    && ((k.load && decide (acc ≠ .store)) || (k.store && decide (acc ≠ .load))))

/-- The trap values of a memory cause (Table 06.2). -/
def memCause (code sub space : Nat) (lns : List (Nat × Nat)) (chk : List (Nat × LaneChk)) : CauseInfo :=
  let find := fun l => lns.find? (fun e => decide (e.1 = l))
  causeLanes code sub
    (fun l => match find l with | some e => BitVec.ofNat 32 e.2 | none => 0)
    (fun l => match find l with
      | none => 0
      | some e =>
        let a := e.2 % 2 ^ 57
        let mine := match chk.find? (fun c => decide (c.1 = l)) with
          | some (_, .bad c sb lv) => if c = code ∧ sb = sub then 2 ^ 31 + lv % 8 * 2 ^ 26 else lv % 8 * 2 ^ 26
          | _ => 0
        BitVec.ofNat 32 (mine + space * 2 ^ 29 + (if space = 2 then a / 2 ^ 32 else 0)))

/-- A cause whose trap value is the address the warp stands at, in every enabled lane (Table 06.2, R379). -/
def codeCause (w : Warp) (code sub lv : Nat) : CauseInfo :=
  let lns := (lanes.filter (bitOf w.exm)).map (fun l => (l, w.pc.toNat))
  memCause code sub 2 lns (lns.map (fun e => (e.1, LaneChk.bad code sub lv)))

/-- What the check of an instruction's accesses answers: the locations of its lanes, or its cause. -/
inductive MemChk where
  | ok (locs : List (Nat × Nat × Nat))
  | bad (c : CauseInfo)

/-- Check every lane of an access before any effect (R175, R241, R248). `ranges` says whether range locks and watchpoints
are checked here (a synchronisation access meets them after its scope check). -/
def checkLanes (s : State) (g : Wg) (wg space align n : Nat) (wide : Bool) (acc : AccessKind) (ranges : Bool)
    (lns : List (Nat × Nat)) : MemChk × State :=
  let r := lns.foldl (fun (a : List (Nat × LaneChk) × List (Nat × Xl) × State) e =>
    let k := checkLane a.2.2 g wg space align n e.2 wide acc a.2.1
    (a.1 ++ [(e.1, k.1)], k.2)) ([], [], s)
  let s := r.2.2
  let c := s.core g.core
  let writes := decide (acc ≠ .load)
  let chk := r.1.zip lns |>.map (fun e => match e.1.2 with
    | .ok loc attr =>
      let a := if space = 2 then e.2.2 % 2 ^ 57 else e.2.2
      if ranges && rangeHit c.locks space (lockOwner g wg space) a n writes then (e.1.1, LaneChk.bad 0x21 0 0)
      else if ranges && watchHit c g space a n acc then (e.1.1, .bad 0x48 2 0)
      else (e.1.1, .ok loc attr)
    | b => (e.1.1, b))
  let best := chk.foldl (fun (b : Option (Nat × Nat)) e => match e.2 with
    | .ok _ _ => b
    | .bad code sub _ => match b with
      | none => some (code, sub)
      | some (c0, s0) => if causeRank code sub < causeRank c0 s0 then some (code, sub) else b) none
  match best with
  | some (code, sub) => (.bad (memCause code sub space lns chk), s)
  | none => (.ok (chk.filterMap (fun e => match e.2 with | .ok loc attr => some (e.1, loc, attr) | _ => none)), s)

/-! ## Taking an exception and returning from one -/

/-- The trap descriptor of a workgroup: the copy held by its chiplet's hub (R377). -/
def State.trapDesc (s : State) (g : Wg) : TrapDesc := Table.get {} g.asid (s.hub (coreHub g.core)).trapDescs

/-- `sr.cause` of a cause raised in a warp (Table 12.3). -/
def causeWord (w : Warp) (c : CauseInfo) : Word :=
  BitVec.ofNat 32 ((causeAsync c).toNat * 2 ^ 31 + c.fetch.toNat * 2 ^ 30 + w.window.toNat * 2 ^ 29 + w.melded.toNat * 2 ^ 28
    + c.sub.toNat * 256 + c.code.toNat)

/-- Clear the marks a poison cause concerns (R191, R381): the register each flagged lane's trap value names. -/
def Warp.clearMarks (w : Warp) (c : CauseInfo) : Warp :=
  if c.code = 0x28 ∧ c.sub = 0 then
    lanes.foldl (fun w l =>
      if (laneVal (lanesOr0 c.tvalh) l).getLsbD 31 then
        let n := (laneVal (lanesOr0 c.tval) l).toNat % 256
        let slot := if w.trap ∧ 240 ≤ n then n + 16 else n
        let v := w.reg slot
        w.setReg slot { v with poison := v.poison &&& ~~~(BitVec.ofNat 32 (2 ^ l)) }
      else w) w
  else w

/-- Step 2 of trap entry (R381): the trap registers, and the marks the trap concerns. -/
def Warp.recordTrap (w : Warp) (c : CauseInfo) : Warp :=
  let w := w.clearMarks c
  { w with cause := causeWord w c, epc := w.pc.setWidth 32, epch := (w.pc >>> 32).setWidth 25,
           tval := lanesOr0 c.tval, tvalh := lanesOr0 c.tvalh }

/-- Steps 3 and 4 of trap entry (R381): the mask saved and set to all ones, trap mode, the handler's address. -/
def Warp.enterHandler (w : Warp) (tbase : Nat) : Warp :=
  { w with trapMask := w.exm, exm := 0xFFFFFFFF#32, trap := true, pc := BitVec.ofNat 57 tbase, wait := .none,
           sync := none, barWait := none }

/-- Freeze the window of a workgroup, if it runs one (R149). -/
def Wg.freeze (g : Wg) : Wg := { g with win := g.win.map (fun x => { x with frozen := true }) }

/-- A frozen window resumes at its cycle when no participant is in trap mode and the workgroup is not halted (R149, R150). -/
def State.thaw (s : State) (gid : Nat) : State :=
  if (s.wgWarps gid).any (fun e => e.2.window && e.2.trap) then s
  else s.modWg gid (fun g => if g.status = .running then { g with win := g.win.map (fun x => { x with frozen := false }) } else g)

/-- Land every outstanding result of a warp that is in no window, those still in flight from one it has left too (R381). -/
def State.landWhole (s : State) (id : Nat) : State :=
  (s.landAll id).modWarp id (fun w => w.landDue (maxNat (w.landing.map Landing.due)))

/-- Trap entry (R381): outside a window every outstanding result lands first; in a window results in flight stay and the
window freezes (R149, R150). -/
def State.enterTrap (s : State) (id : Nat) (c : CauseInfo) : State :=
  match Table.find id s.warps with
  | none => s
  | some w =>
    match Table.find w.wg s.wgs with
    | none => s
    | some g =>
      let s := if w.window then s.modWg w.wg Wg.freeze else s.landWhole id
      s.modWarp id (fun w => (w.recordTrap c).enterHandler (s.trapDesc g).tbase)

/-- Return from a trap (R382): the mask, the mode, and the address fetch resumes at. -/
def Warp.leaveTrap (w : Warp) (target : BitVec 57) : Warp := { w with exm := w.trapMask, trap := false, pc := target }

/-- The address in `sr.epch`:`sr.epc`. -/
def Warp.epcAddr (w : Warp) : BitVec 57 := (w.epch ++ w.epc)

/-- Halt a workgroup at an instruction boundary (R383): its windows freeze; what it has outstanding lands as R190 gives. One
that an urgent halt has stopped goes on to be saved. -/
def State.haltWg (s : State) (gid : Nat) (st : WgStatus) : State :=
  let s := (s.wgWarps gid).foldl (fun s e => if e.2.window then s else s.landAll e.1) s
  s.modWg gid (fun g => { g.freeze with status := if g.status = .halting then .halting else st })

/-- A report to Foulo (R383): the workgroup halts, the trap registers are written without entering trap mode, and Foulo
receives the cause, `sr.epc` and the warp's identity. `dbg` is a debug halt (R392). -/
def State.report (s : State) (id : Nat) (c : CauseInfo) (dbg : Bool) : State :=
  match Table.find id s.warps with
  | none => s
  | some w =>
    match Table.find w.wg s.wgs with
    | none => s
    | some g =>
      let s := s.haltWg w.wg (if dbg then .debug else .reported)
      let s := s.modWg w.wg (fun g => { g with reportWarp := id })
      let s := s.modWarp id (fun w => { w.recordTrap c with sync := none })
      s.modHub (coreHub g.core) (fun h => { h with reports := h.reports ++ [⟨c.code.toNat, c.sub.toNat, w.wg, id, w.pc.toNat⟩] })

/-- Where a precise cause of a warp goes (R378). -/
inductive Route where
  | handler | report | debugHalt
deriving DecidableEq, Repr

/-- The first row of R378 that applies. -/
def routeOf (w : Warp) (g : Wg) (d : TrapDesc) (c : CauseInfo) : Route :=
  if w.trap then .report
  else if c.code = 0x48 ∧ d.dbg ∧ g.world = 0 then .debugHalt
  else if d.valid && d.deleg.testBit c.code.toNat then .handler
  else .report

/-- Raise a precise cause in a warp (R378). -/
def State.raise (s : State) (id : Nat) (c : CauseInfo) : State :=
  match Table.find id s.warps with
  | none => s
  | some w =>
    match Table.find w.wg s.wgs with
    | none => s
    | some g =>
      match routeOf w g (s.trapDesc g) c with
      | .handler => s.enterTrap id c
      | .debugHalt => s.report id c true
      | .report => s.report id c false

/-- An asynchronous cause held pending in a warp: one of the same code and subcode is merged with it (R384). -/
def Warp.hold (w : Warp) (c : CauseInfo) : Warp :=
  if w.async.any (fun x => decide (x.code = c.code) && decide (x.sub = c.sub)) then w else { w with async := w.async ++ [c] }

/-- An asynchronous cause arises in a warp (R378, R384): it is reported at once, halting nothing, and held pending in the
warp when delegated, merged with one of the same code and subcode. -/
def State.raiseAsync (s : State) (id : Nat) (c : CauseInfo) : State :=
  match Table.find id s.warps with
  | none => s
  | some w =>
    match Table.find w.wg s.wgs with
    | none => s
    | some g =>
      let d := s.trapDesc g
      let s := s.modHub (coreHub g.core) (fun h => { h with reports := h.reports ++ [⟨c.code.toNat, c.sub.toNat, w.wg, id, 0⟩] })
      if d.valid && d.deleg.testBit c.code.toNat then s.modWarp id (fun w => w.hold c) else s

/-! ## Ending warps and workgroups (R358, R390) -/

/-- Whether a workgroup has a warp left, or Millpond entries (R358). -/
def State.wgBusy (s : State) (gid : Nat) : Bool :=
  (s.warps.any (fun e => decide (e.2.wg = gid))) ||
    (match Table.find gid s.wgs with | some g => !g.pond.isEmpty | none => false)

/-- When a workgroup's last warp has ended it waits to retire (R358). -/
def State.settleWg (s : State) (gid : Nat) : State :=
  if s.wgBusy gid then s
  else s.modWg gid (fun g => if g.stands then { g with status := .retiring } else g)

/-- End a warp (R161, R390): its outstanding results land, its registers are cleared and return to the pool with it; a participant of a
window leaves it, which a formed warp of the same `sr.warp` does not (R143, R153). -/
def State.endWarp (s : State) (id : Nat) : State :=
  match Table.find id s.warps with
  | none => s
  | some w =>
    let s := s.landAll id
    let s := { s with warps := Table.del id s.warps }
    let s := if w.window then s.modWg w.wg (fun g => { g with win := g.win.map (fun x =>
      { x with inside := x.inside &&& ~~~(BitVec.ofNat 32 (2 ^ w.idx)) }) }) else s
    s.settleWg w.wg

/-- End every warp of a workgroup and discard its Millpond entries (R404). -/
def State.abortWg (s : State) (gid : Nat) : State :=
  let s := s.modWg gid (fun g => { g with pond := [], win := none, aborted := true })
  let s := (s.wgWarps gid).foldl (fun s e => s.endWarp e.1) s
  s.modWg gid (fun g => { g with status := .retiring })

/-- The Millpond bytes that stand in banks, by bank, of some entries. -/
def pondBank (es : List PondEntry) (bank : Nat) : Nat :=
  es.foldl (fun n e => if e.inBank = some bank then n + e.bytes else n) 0

/-- The workgroups resident on a core. -/
def State.resident (s : State) (core : Nat) : List (Nat × Wg) := s.wgs.filter (fun e => decide (e.2.core = core) && e.2.stands)

/-- The Millpond entries of a core in order of arrival. -/
def State.corePond (s : State) (core : Nat) : List (Nat × PondEntry) :=
  (s.resident core).flatMap (fun e => e.2.pond.map (fun p => (e.1, p)))

/-- The control core of a chiplet maps the code section of a packet for a core's fetch (R359). -/
def State.mapTask (s : State) (core pkt : Nat) : State :=
  s.modCore core (fun c => if c.tasks.contains pkt then c else { c with tasks := c.tasks ++ [pkt] })

/-- The control core unmaps the sections of a core of which no workgroup stands there any more (R359). -/
def State.unmapTasks (s : State) (core : Nat) : State :=
  s.modCore core (fun c => { c with tasks := c.tasks.filter (fun p => (s.resident core).any (fun e => decide (e.2.pkt = p))) })

/-- Release everything a workgroup holds on its core: its private bytes are cleared and its record goes (R28, R390); its packet keeps
the highest version given to its writes, which completion releases (R350). -/
def State.releaseWg (s : State) (gid : Nat) : State :=
  match Table.find gid s.wgs with
  | none => s
  | some g =>
    let s := s.clearRange (locPriv gid 0) (2 ^ 32)
    let s := s.modCore g.core (fun c => c.dropRing (fun e => decide (e.1 = gid)))
    let s := { s with pkts := Table.modify g.pkt (fun p => { p with ver := Nat.max p.ver g.ver }) s.pkts }
    State.unmapTasks { s with wgs := Table.del gid s.wgs, warps := s.warps.filter (fun e => decide (e.2.wg ≠ gid)) } g.core

end Sys2Proof.Machine
end

