-- ==== Sys2Proof/Machine/Operands.lean ====
section
/-! DEFINITION. Issuing one Vodon instruction: the registers it names, the checks made before it has any effect in the
order of Table 02.7, the scoreboard, the poison of its operands, and how it completes, waits or traps (R36, R41 to R49,
R66, R135, R136, R191, R381). -/

namespace Sys2Proof.Machine

/-- The lanes in which an instruction reads a source register: its active lanes, the lanes of the mask, lane 0, every lane,
the leader lane (R284), none (only the register's tag or presence matters), the first few lanes whenever any lane is active
(R126), or the lanes that the masks in a register of the active lanes pick (R127). -/
inductive Who where
  | active | mask | lane0 | all | leader | none | first (n : Nat) | picked (b : Nat)
deriving DecidableEq, Repr

/-- A source operand: register field value, number of consecutive registers, lanes in which it is read. -/
structure Src where
  reg : Nat
  count : Nat
  who : Who
deriving DecidableEq, Repr

/-- What an instruction names and where it is legal. `room` is a register number the budget must reach beyond its own
fields (R405), `absent` says that the executing chiplet kind lacks the hardware it names (R44), `wide` that the result is
per warp and goes to all 32 lanes, `split` is a guard field that is no guard (R158). -/
structure Use where
  srcs : List Src := []
  dsts : List (Nat × Nat) := []
  window : Bool := true
  meld : Bool := true
  trapOnly : Bool := false
  maskClass : Bool := false
  room : Nat := 0
  absent : Bool := false
  scope : Option Nat := Option.none
  wide : Bool := false
  split : Option Nat := Option.none
deriving DecidableEq, Repr

/-- A source read in the active lanes. -/
def srcA (n : Reg) (count : Nat := 1) : Src := ⟨n.toNat, count, .active⟩

/-- A source read in lane 0. -/
def src0 (n : Reg) (count : Nat := 1) : Src := ⟨n.toNat, count, .lane0⟩

/-- A source read in the leader lane. -/
def srcL (n : Reg) (count : Nat := 1) : Src := ⟨n.toNat, count, .leader⟩

/-- What one issue knows: the warp's number, the warp and workgroup as they stand, the active lanes. -/
structure Ctx where
  id : Nat
  w : Warp
  g : Wg
  act : Mask
deriving DecidableEq, Repr

/-- What the body of an instruction answers. `done` names the address to continue at, none for the next word; `over` says
that the instruction itself has settled where the warp stands. -/
inductive Res where
  | done (target : Option Nat) (s : State)
  | trap (c : CauseInfo) (s : State)
  | wait (k : Wait) (s : State)
  | over (s : State)

/-- The window cycle in which an instruction of the warp issues. -/
def Ctx.wc (c : Ctx) : Nat := match c.g.win with | some x => x.cycle | none => 0

/-- Whether the warp's core is an Eland core. -/
def Ctx.eland (c : Ctx) : Bool := coreEland c.g.core

/-- The latency of a result on the warp's chiplet kind. -/
def Ctx.lat (c : Ctx) (impala eland : Nat) : Nat := if c.eland then eland else impala

/-- The lowest-numbered active lane (R284). -/
def Ctx.leader (c : Ctx) : Option Nat := maskLow c.act

/-- The trap-bank names in trap mode and the melded names in a region lie outside the budget check (R45, R48, R49). -/
def Warp.regOk (w : Warp) (n : Nat) : Bool :=
  decide (n < w.budget) || (decide (240 ≤ n) && decide (n < 256) && (w.trap || w.melded))

/-- Every register field value an instruction names, with its count (R45). -/
def Use.regs (u : Use) : List (Nat × Nat) := u.srcs.map (fun x => (x.reg, x.count)) ++ u.dsts

/-- The register numbers of a field value and its count. -/
def span (n count : Nat) : List Nat := (List.range count).map (n + ·)

/-- The first register an instruction names that the warp may not name (R45). -/
def Use.badReg (u : Use) (w : Warp) : Option Nat := (u.regs.flatMap (fun r => span r.1 r.2)).find? (fun n => !w.regOk n)

/-- The lane that delivers lane j's value of `SPCMP`: the (j + 1)-th lowest set bit of the mask in register b (R127). -/
def Warp.pick (w : Warp) (b j : Nat) : Option Nat := (lanes.filter (bitOf (w.rd b j)))[j]?

/-- The lanes of a source. -/
def Src.lanes (x : Src) (w : Warp) (act : Mask) : Mask :=
  match x.who with
  | .active => act
  | .mask => w.exm
  | .lane0 => 1
  | .all => 0xFFFFFFFF#32
  | .leader => match maskLow act with | some l => BitVec.ofNat 32 (2 ^ l) | none => 0
  | .none => 0
  | .first n => if act = 0 then 0 else BitVec.ofNat 32 (2 ^ n - 1)
  | .picked b => maskOf (fun l => Sys2Proof.lanes.any (fun j => bitOf act j && decide (w.pick b j = some l)))

/-- The lanes in which a source's rename entry is in use: those it is read in, or the active ones where only its tag or its
presence matters (R48, R66, R91). -/
def Src.named (x : Src) (w : Warp) (act : Mask) : Mask :=
  match x.who with
  | .none => act
  | _ => x.lanes w act

/-- The fields an instruction names, with their counts and the lanes in which it uses them: its sources where it reads them,
its destinations where it writes them (R48, R66). -/
def Use.named (u : Use) (w : Warp) (act : Mask) : List (Nat × Nat × Mask) :=
  u.srcs.map (fun x => (x.reg, x.count, x.named w act))
    ++ u.dsts.map (fun d => (d.1, d.2, if u.wide then 0xFFFFFFFF#32 else act))

/-- The first melded name of an instruction whose rename entry in use lies at or beyond the budget or among the melded
numbers themselves (R48, R66). -/
def Use.badRename (u : Use) (w : Warp) (act : Mask) : Option Nat :=
  ((u.named w act).flatMap (fun r => (span r.1 r.2.1).map (fun n => (n, r.2.2)))).findSome? (fun e =>
    if w.meldName e.1 && lanes.any (fun l => bitOf e.2 l && (decide (w.budget ≤ w.rename e.1 l) || decide (240 ≤ w.rename e.1 l)))
    then some e.1 else none)

/-- Whether a destination is the meld register, by its number or through a rename entry in an active lane (R136), or, in
major 0x22, a melded name at all. -/
def Use.meldDst (u : Use) (w : Warp) (act : Mask) : Bool :=
  (u.dsts.flatMap (fun r => span r.1 r.2)).any (fun n => decide (n = w.meldReg.toNat) ||
    (w.meldName n && lanes.any (fun l => bitOf act l && decide (w.rename n l = w.meldReg.toNat))))
  || (u.maskClass && u.regs.any (fun r => decide (240 ≤ r.1)))

/-- The first cause of an instruction before its operands are looked at, in the order of Table 02.7; in trap mode the
checks of causes 0x08 and 0x0A are not made (R381). Where several conditions of cause 0x08 hold, an illegal instruction and a
destination that is the meld register, by its number or through a rename entry, come first, with subcode 0, and a bad rename
entry second, with subcode 1 (log entry 12, DEDUCED). -/
def issueCause (h : Hdr) (u : Use) (w : Warp) (act : Mask) : Option CauseInfo :=
  if (h.g && decide (w.budget ≤ h.guard.toNat)) || u.split.any (fun n => decide (w.budget ≤ n)) then some (cause0 0x02 2)
  else if (u.badReg w).isSome then some (causeVal 0x02 4 (BitVec.ofNat 32 ((u.badReg w).getD 0)))
  else if w.budget < u.room then some (cause0 0x02 4)
  else if u.trapOnly && !w.trap then some (cause0 0x02 5)
  else if !u.window && w.inWindow then some (cause0 0x0A 0)
  else if w.melded && !w.trap && (!u.meld || u.meldDst w act) then some (cause0 0x08 0)
  else match u.badRename w act with
    | some n => some (causeVal 0x08 1 (BitVec.ofNat 32 n))
    | none => if u.absent then some (cause0 0x04 0) else match u.scope with
      | some k => if 11 ≤ k then some (cause0 0x22 0) else none
      | none => none

/-- Whether the scoreboard holds the instruction: a register it names has a result outstanding (R3, R209). A window
participant is not held while it runs in the window (R148); its trap handler runs in dynamic mode and is (R150). -/
def Use.held (u : Use) (w : Warp) (h : Hdr) (act : Mask) : Bool :=
  if w.inWindow || (w.pend.isEmpty && w.landing.isEmpty) then false
  else
    let slots := fun (n k : Nat) (m : Mask) => (span n k).flatMap (fun i => w.slotsOf i (m ||| 1))
    (h.g && w.heldRead.contains h.guard.toNat)
    || u.srcs.any (fun x => (slots x.reg x.count (x.named w act)).any w.heldRead.contains)
    || u.dsts.any (fun d => (slots d.1 d.2 (if u.wide then 0xFFFFFFFF#32 else act)).any w.heldWrite.contains)

/-- The first source register found marked in a lane (R191): the number its field resolves to. A guard register is no operand here: R43 and
R191 speak of an operand and do not say whether a marked guard counts as one; it is read with no cause (log entry 48, DESIGN CHOICE). -/
def Use.markedIn (u : Use) (w : Warp) (act : Mask) (l : Nat) : Option Nat :=
  (u.srcs.flatMap (fun x => if bitOf (x.lanes w act) l then span x.reg x.count else [])).findSome? (fun n =>
    let slot := w.slot n l
    if bitOf (w.reg slot).poison l then some (if 256 ≤ slot then slot - 16 else slot) else none)

/-- The poison cause of an instruction that reads a marked register (R191). -/
def Use.poisonCause (u : Use) (w : Warp) (act : Mask) : Option CauseInfo :=
  if w.regs.all (fun r => decide (r.2.poison = 0)) then none
  else if lanes.any (fun l => (u.markedIn w act l).isSome) then
    some (causeLanes 0x28 0 (fun l => BitVec.ofNat 32 ((u.markedIn w act l).getD 0))
      (fun l => if (u.markedIn w act l).isSome then 0x80000000#32 else 0))
  else none

/-- Whether a path-select guard finds no active lane on its path, so that the word is not fetched (R135). -/
def Warp.skips (w : Warp) (h : Hdr) : Bool :=
  w.melded && !w.trap && h.g && decide (h.guard = w.meldReg) && decide (w.active h = 0)

/-- Where the warp goes next when its instruction names no address. -/
def Warp.next (w : Warp) : BitVec 57 := w.pc + 8

/-- An issue by a warp (R386): its stall count restarts, it waits for nothing, it stands at an
address, and a window participant outside trap mode has issued in a window cycle (R39). -/
def Warp.stepTo (w : Warp) (wc : Nat) (pc : BitVec 57) : Warp :=
  { w with pc := pc, wait := .none, issued := true, stall := 0, lastWc := if w.inWindow then wc else w.lastWc }

/-- The step event of a debugger after an instruction that a warp of world 0 has completed outside trap mode (R392); its trap
value is the address at which the warp then stands (R379; log entry 16, DEDUCED). -/
def State.stepEvent (s : State) (c : Ctx) : State :=
  if c.w.step && !c.w.trap && decide (c.g.world = 0) then
    match Table.find c.id s.warps with
    | none => s
    | some w => s.raise c.id (codeCause w 0x48 3 0)
  else s

/-- An instruction completes: the counters, the address, and the step event of a debugger (R37, R392, R393). -/
def State.finish (s : State) (c : Ctx) (target : Option Nat) : State :=
  let s := s.count c.w.wg 1 1
  (s.modWarp c.id (fun w => w.stepTo c.wc (match target with | some t => BitVec.ofNat 57 t | none => c.w.next))).stepEvent c

/-- A warp waits where it stands (R23). -/
def State.block (s : State) (id : Nat) (k : Wait) : State := s.modWarp id (fun w => { w with wait := k })

/-- The state an answer of a body leads to. -/
def Res.settle (r : Res) (c : Ctx) : State :=
  match r with
  | .done t s => s.finish c t
  | .trap x s => s.raise c.id x
  | .wait k s => s.block c.id k
  | .over s => s

/-- The outcome of an instruction for a warp that issues it: skipped, trapped, held, or its body's answer. -/
def issueIn (h : Hdr) (u : Use) (c : Ctx) (s : State) (body : Ctx → State → Res) : State :=
  if c.w.skips h then s.modWarp c.id (fun w => { w with pc := c.w.next, wait := .none })
  else match issueCause h u c.w c.act with
    | some x => s.raise c.id x
    | none =>
      if u.held c.w h c.act then s.block c.id .register
      else match u.poisonCause c.w c.act with
        | some x => s.raise c.id x
        | none => (body c s).settle c

/-- The issue context of the warp that executes, if there is one. -/
def State.ctx (s : State) (h : Hdr) : Option Ctx :=
  match Table.find s.me s.warps with
  | none => none
  | some w => match Table.find w.wg s.wgs with
    | none => none
    | some g => some ⟨s.me, w, g, w.active h⟩

/-- Issue one instruction of the executing warp. -/
def issue (h : Hdr) (u : Use) (s : State) (body : Ctx → State → Res) : Host.Outcome State Fault Refusal :=
  match s.ctx h with
  | none => .fault .noWarp
  | some c => .next (issueIn h u c s body)

/-- Issue an instruction whose operand values may name a shape that the executing chiplet kind lacks: cause 0x04 comes before
a marked operand register (Table 02.7, rows 5 and 6). -/
def issueShaped (h : Hdr) (u : Use) (shape : Ctx → Option CauseInfo) (s : State) (body : Ctx → State → Res) :
    Host.Outcome State Fault Refusal :=
  match s.ctx h with
  | none => .fault .noWarp
  | some c =>
    match (if c.w.skips h || (issueCause h u c.w c.act).isSome || u.held c.w h c.act then none else shape c) with
    | some x => .next (s.raise c.id x)
    | none => .next (issueIn h u c s body)

/-- The checks of an instruction all pass in a context: nothing stands between the issue and its own effect. -/
def Use.clear (u : Use) (h : Hdr) (c : Ctx) : Prop :=
  c.w.skips h = false ∧ issueCause h u c.w c.act = none ∧ u.held c.w h c.act = false ∧ u.poisonCause c.w c.act = none

end Sys2Proof.Machine
end

