-- ==== Sys2Proof/Machine/Flags.lean ====
section
/-! DEFINITION. What an instruction leaves beside its values: the representation tags of its results, the unit that
executes it with its latency, and the write itself, at once or through the landing buffer (R47, R67 to R75, Table 03.2).
Vodon keeps no condition flags (R76). -/

namespace Sys2Proof.Machine

/-- The tag a register field shows for a lane: a trap-bank register is always general (R91). -/
def Warp.tagOf (w : Warp) (n l : Nat) : Tag := if 256 ≤ w.slot n l then .general else (w.reg (w.slot n l)).tag

/-- Whether a register field reads one ordinary register, neither renamed nor of the trap bank (R68). -/
def Warp.plainName (w : Warp) (n : Nat) : Bool := decide (n < 240) || !(w.trap || w.melded)

/-- Whether all 32 lanes are known active without reading a general register (R68, item 1). -/
def Ctx.allKnown (c : Ctx) (h : Hdr) : Bool :=
  decide (c.w.exm = 0xFFFFFFFF#32) &&
    (!h.g || (decide ((c.w.reg h.guard.toNat).tag = .uniform) && c.w.guard h 0))

/-- Whether a field is tagged uniform. -/
def Ctx.uniform (c : Ctx) (n : Reg) : Bool := decide (c.w.tagOf n.toNat 0 = .uniform)

/-- Whether a field is tagged uniform or affine. -/
def Ctx.linear (c : Ctx) (n : Reg) : Bool := decide (c.w.tagOf n.toNat 0 ≠ .general)

/-- R68: whether the affine unit takes an instruction whose operand tags Table 03.1 lists. -/
def Ctx.affineUnit (c : Ctx) (h : Hdr) (fields : List Reg) (tags : Bool) : Bool :=
  c.allKnown h && fields.all (fun n => c.w.plainName n.toNat) && tags

/-- The tag of an affine-unit result: uniform when its stride is 0, affine otherwise (R69). -/
def affineTag (v : Lanes) : Tag := if laneVal v 1 = laneVal v 0 then .uniform else .affine

/-- Whether every register a field resolves to, in any lane, is tagged uniform (R70). -/
def Ctx.uniformAll (c : Ctx) (n : Reg) : Bool := lanes.all (fun l => decide (c.w.tagOf n.toNat l = .uniform))

/-- The tag of a lane-datapath result (R70): uniform when all 32 lanes are active and every register read, the guard
included, is tagged uniform; general otherwise. Where the lanes of such a result differ all the same (`AFF` on the lane
datapath, the dither of a rounding, two uniform registers read through the two rename tables), R70 says uniform and R47 one
value in every lane: the tag follows R70 and the lanes keep their own values (log entry 34, DESIGN CHOICE). -/
def Ctx.laneTag (c : Ctx) (h : Hdr) (srcs : List Reg) : Tag :=
  if c.act = 0xFFFFFFFF#32 ∧ (h.g = false ∨ (c.w.reg h.guard.toNat).tag = .uniform)
    ∧ srcs.all c.uniformAll then .uniform else .general

/-- Write a result: at once in dynamic mode, through the landing buffer at issue plus latency in a window (R74). -/
def Warp.put (w : Warp) (c : Ctx) (n : Nat) (m : Mask) (vals : Lanes) (tag : Tag) (lat : Nat) : Warp :=
  if w.inWindow then w.wrLater n m vals tag (c.wc + lat) else w.wrNow n m vals tag

/-- Write a result of the issuing warp. -/
def State.put (s : State) (c : Ctx) (n : Nat) (m : Mask) (vals : Lanes) (tag : Tag) (lat : Nat) : State :=
  s.modWarp c.id (fun w => w.put c n m vals tag lat)

/-- The sources of an instruction that reads some registers in its active lanes. -/
def useA (srcs : List Reg) (dst : Reg) : Use := { srcs := srcs.map (fun n => srcA n), dsts := [(dst.toNat, 1)] }

/-- The outcome of an arithmetic instruction on single registers (R42, R67 to R77): `f` gives the result of a lane from the
values of the sources there, `aff` says that Table 03.1 lists the form with these tags, the latencies are those of the lane
datapath. -/
def alu (h : Hdr) (dst : Reg) (srcs : List Reg) (aff : Ctx → Bool) (lat : Nat × Nat) (f : (Reg → Word) → Nat → Word)
    (s : State) : Host.Outcome State Fault Refusal :=
  issue h (useA srcs dst) s fun c s =>
    let vals := laneBuild (fun l => f (fun n => c.w.rd n.toNat l) l)
    if c.affineUnit h (dst :: srcs) (aff c) then
      .done none ((s.count c.w.wg 3 1).put c dst.toNat c.act vals (affineTag vals) 2)
    else
      .done none ((s.count c.w.wg 2 1).put c dst.toNat c.act vals (c.laneTag h srcs) (c.lat lat.1 lat.2))

/-- The outcome of a lane-datapath instruction that yields a 64-bit result in a pair (R36, R72). `srcs` are the sources
with their widths in registers. -/
def alu64 (h : Hdr) (dst : Reg) (srcs : List (Reg × Nat)) (lat : Nat × Nat) (f : Warp → Nat → DWord) (s : State) :
    Host.Outcome State Fault Refusal :=
  issue h { srcs := srcs.map (fun x => srcA x.1 x.2), dsts := [(dst.toNat, 2)] } s fun c s =>
    let tag := c.laneTag h (srcs.flatMap (fun x => if x.2 = 2 then [x.1, x.1 + 1] else [x.1]))
    let lo := laneBuild (fun l => (f c.w l).setWidth 32)
    let hi := laneBuild (fun l => ((f c.w l) >>> 32).setWidth 32)
    .done none (((s.count c.w.wg 2 1).put c dst.toNat c.act lo tag (c.lat lat.1 lat.2)).put c (dst.toNat + 1) c.act hi tag
      (c.lat lat.1 lat.2))

/-- No form of the instruction reaches the affine unit. -/
def never : Ctx → Bool := fun _ => false

/-- Write one value to all 32 lanes of a register, tagged uniform: the result of a per-warp instruction (R304, R371,
R396). -/
def State.putAll (s : State) (c : Ctx) (n : Nat) (x : Word) (lat : Nat) : State :=
  s.put c n 0xFFFFFFFF#32 (laneSplat x) .uniform lat

/-- Lane 0's value of a register field, read whatever lane 0's activity. -/
def Ctx.lane0 (c : Ctx) (n : Reg) : Word := c.w.rd n.toNat 0

end Sys2Proof.Machine
end

