-- ==== Sys2Proof/Machine/Integer.lean ====
section
/-! DEFINITION. Integer and affine arithmetic instructions (R67 to R98). -/

namespace Sys2Proof.Machine

/-- The outcome of an instruction. -/
abbrev Out := Host.Outcome State Fault Refusal

/-- Sign-extended immediate. -/
def sx16 (i : BitVec 16) : Word := i.signExtend 32

/-- Zero-extended immediate. -/
def zx16 (i : BitVec 16) : Word := i.setWidth 32

/-- The signed or unsigned value of a word, as a type suffix reads it. -/
def tyVal (ty : IntTy) (x : Word) : Int := match ty with | .si32 => x.toInt | .ui32 => x.toNat

/-- A result clamped to the range of a type suffix (R82). -/
def tySat (ty : IntTy) (x : Int) : Word := BitVec.ofInt 32 (match ty with | .si32 => sats x 32 | .ui32 => satu x 32)

/-- ABS: the saturating absolute value (R80). -/
def execAbs (h : Hdr) (dst a : Reg) (s : State) : Out :=
  alu h dst [a] never (4, 5) (fun r _ => BitVec.ofInt 32 (sats (r a).toInt.natAbs 32)) s

/-- ADD (R81). -/
def execAdd (h : Hdr) (dst a b : Reg) (s : State) : Out :=
  alu h dst [a, b] (fun c => c.linear a && c.linear b) (4, 5) (fun r _ => r a + r b) s

/-- ADD with immediate (R81). -/
def execAddImm (h : Hdr) (dst a : Reg) (imm : BitVec 16) (s : State) : Out :=
  alu h dst [a] (fun c => c.linear a) (4, 5) (fun r _ => r a + sx16 imm) s

/-- SUB (R81). -/
def execSub (h : Hdr) (dst a b : Reg) (s : State) : Out :=
  alu h dst [a, b] (fun c => c.linear a && c.linear b) (4, 5) (fun r _ => r a - r b) s

/-- ADD.SAT (R82). -/
def execAddSat (h : Hdr) (ty : IntTy) (dst a b : Reg) (s : State) : Out :=
  alu h dst [a, b] never (4, 5) (fun r _ => tySat ty (tyVal ty (r a) + tyVal ty (r b))) s

/-- SUB.SAT (R82). -/
def execSubSat (h : Hdr) (ty : IntTy) (dst a b : Reg) (s : State) : Out :=
  alu h dst [a, b] never (4, 5) (fun r _ => tySat ty (tyVal ty (r a) - tyVal ty (r b))) s

/-- ADD64 (R83). -/
def execAdd64 (h : Hdr) (dst a b : Reg) (s : State) : Out :=
  alu64 h dst [(a, 2), (b, 2)] (5, 6) (fun w l => w.rd64 a.toNat l + w.rd64 b.toNat l) s

/-- SUB64 (R83). -/
def execSub64 (h : Hdr) (dst a b : Reg) (s : State) : Out :=
  alu64 h dst [(a, 2), (b, 2)] (5, 6) (fun w l => w.rd64 a.toNat l - w.rd64 b.toNat l) s

/-- ADDA: an address plus a scaled immediate (R84). -/
def execAdda (h : Hdr) (sc : Fin 5) (dst a : Reg) (imm : BitVec 16) (s : State) : Out :=
  alu64 h dst [(a, 2)] (5, 6) (fun w l => w.rd64 a.toNat l + (imm.signExtend 64) * BitVec.ofNat 64 (2 ^ sc.val)) s

/-- ADDX: an address plus a scaled index (R85). -/
def execAddx (h : Hdr) (ty : IntTy) (sc : Fin 5) (dst a b : Reg) (s : State) : Out :=
  alu64 h dst [(a, 2), (b, 1)] (5, 6) (fun w l =>
    w.rd64 a.toNat l + BitVec.ofInt 64 (tyVal ty (w.rd b.toNat l) * 2 ^ sc.val)) s

/-- AFF: base plus stride times lane (R86). -/
def execAff (h : Hdr) (dst a b : Reg) (s : State) : Out :=
  alu h dst [a, b] (fun c => c.uniform a && c.uniform b) (4, 5) (fun r l => r a + r b * BitVec.ofNat 32 l) s

/-- AND (R87). -/
def execAndR (h : Hdr) (dst a b : Reg) (s : State) : Out := alu h dst [a, b] never (4, 5) (fun r _ => r a &&& r b) s

/-- AND with immediate (R87). -/
def execAndImm (h : Hdr) (dst a : Reg) (imm : BitVec 16) (s : State) : Out :=
  alu h dst [a] never (4, 5) (fun r _ => r a &&& zx16 imm) s

/-- OR (R87). -/
def execOrR (h : Hdr) (dst a b : Reg) (s : State) : Out := alu h dst [a, b] never (4, 5) (fun r _ => r a ||| r b) s

/-- OR with immediate (R87). -/
def execOrImm (h : Hdr) (dst a : Reg) (imm : BitVec 16) (s : State) : Out :=
  alu h dst [a] never (4, 5) (fun r _ => r a ||| zx16 imm) s

/-- XOR (R87). -/
def execXorR (h : Hdr) (dst a b : Reg) (s : State) : Out := alu h dst [a, b] never (4, 5) (fun r _ => r a ^^^ r b) s

/-- XOR with immediate (R87). -/
def execXorImm (h : Hdr) (dst a : Reg) (imm : BitVec 16) (s : State) : Out :=
  alu h dst [a] never (4, 5) (fun r _ => r a ^^^ zx16 imm) s

/-- ANDN (R87). -/
def execAndn (h : Hdr) (dst a b : Reg) (s : State) : Out := alu h dst [a, b] never (4, 5) (fun r _ => r a &&& ~~~(r b)) s

/-- The position of a bit field (R88). -/
def bfPos (b : Word) : Nat := bits b.toNat 4 0

/-- The width of a bit field (R88). -/
def bfWidth (b : Word) : Nat := Nat.min (bits b.toNat 13 8) (32 - bfPos b)

/-- The mask of a bit field. -/
def bfMask (b : Word) : Word := BitVec.ofNat 32 ((2 ^ bfWidth b - 1) * 2 ^ bfPos b)

/-- BFI: bit-field insert (R88). -/
def execBfi (h : Hdr) (dst a b c : Reg) (s : State) : Out :=
  alu h dst [a, b, c] never (4, 5) (fun r _ => (r c &&& ~~~(bfMask (r b))) ||| ((r a <<< bfPos (r b)) &&& bfMask (r b))) s

/-- The bit field b selects in a, extended as the suffix says (R89). -/
def bfExtract (ty : IntTy) (a b : Word) : Word :=
  if bfWidth b = 0 then 0
  else
    let f := bits a.toNat (bfPos b + bfWidth b - 1) (bfPos b)
    match ty with | .si32 => BitVec.ofInt 32 (sextN f (bfWidth b)) | .ui32 => BitVec.ofNat 32 f

/-- BFX: bit-field extract (R89). -/
def execBfx (h : Hdr) (ty : IntTy) (dst a b : Reg) (s : State) : Out :=
  alu h dst [a, b] never (4, 5) (fun r _ => bfExtract ty (r a) (r b)) s

/-- BREV: bit reversal (R90). -/
def execBrev (h : Hdr) (dst a : Reg) (s : State) : Out := alu h dst [a] never (4, 5) (fun r _ => (r a).reverse) s

/-- The number of leading zero bits of a word, 32 for 0 (R90). -/
def leadingZeros (x : Word) : Nat := if x = 0 then 32 else 31 - Nat.log2 x.toNat

/-- The number of trailing zero bits of a word, 32 for 0 (R90). -/
def trailingZeros (x : Word) : Nat := (maskLow x).getD 32

/-- CLZ (R90). -/
def execClz (h : Hdr) (dst a : Reg) (s : State) : Out :=
  alu h dst [a] never (4, 5) (fun r _ => BitVec.ofNat 32 (leadingZeros (r a))) s

/-- CTZ (R90). -/
def execCtz (h : Hdr) (dst a : Reg) (s : State) : Out :=
  alu h dst [a] never (4, 5) (fun r _ => BitVec.ofNat 32 (trailingZeros (r a))) s

/-- POPC (R90). -/
def execPopc (h : Hdr) (dst a : Reg) (s : State) : Out :=
  alu h dst [a] never (4, 5) (fun r _ => BitVec.ofNat 32 (maskCount (r a))) s

/-- The code of a tag (R47). -/
def tagCode : Tag → Word | .general => 0 | .uniform => 1 | .affine => 2

/-- FORM: the tag code of the register a resolves to in each lane, always on the affine unit; it reads no value of a
(R91). -/
def execForm (h : Hdr) (dst a : Reg) (s : State) : Out :=
  issue h { srcs := [⟨a.toNat, 1, .none⟩], dsts := [(dst.toNat, 1)] } s fun c s =>
    .done none ((s.count c.w.wg 3 1).put c dst.toNat c.act (laneBuild (fun l => tagCode (c.w.tagOf a.toNat l)))
      (if c.w.plainName a.toNat then .uniform else .general) 2)

/-- LI (R92). -/
def execLi (h : Hdr) (dst : Reg) (imm : Word) (s : State) : Out :=
  issue h (useA [] dst) s fun c s =>
    let affine := c.affineUnit h [dst] true
    .done none ((s.count c.w.wg (if affine then 3 else 2) 1).put c dst.toNat c.act (laneSplat imm)
      (if affine then .uniform else c.laneTag h []) (if affine then 2 else c.lat 4 5))

/-- MUL: the low 32 bits of the product (R93). -/
def execMul (h : Hdr) (dst a b : Reg) (s : State) : Out :=
  alu h dst [a, b] (fun c => (c.uniform a && c.linear b) || (c.linear a && c.uniform b)) (6, 7) (fun r _ => r a * r b) s

/-- MUL with immediate (R93). -/
def execMulImm (h : Hdr) (dst a : Reg) (imm : BitVec 16) (s : State) : Out :=
  alu h dst [a] (fun c => c.linear a) (6, 7) (fun r _ => r a * sx16 imm) s

/-- MAD (R93). -/
def execMad (h : Hdr) (dst a b c : Reg) (s : State) : Out :=
  alu h dst [a, b, c] never (6, 7) (fun r _ => r a * r b + r c) s

/-- MIN (R94). -/
def execMin (h : Hdr) (ty : IntTy) (dst a b : Reg) (s : State) : Out :=
  alu h dst [a, b] never (4, 5) (fun r _ => if tyVal ty (r a) ≤ tyVal ty (r b) then r a else r b) s

/-- MAX (R94). -/
def execMax (h : Hdr) (ty : IntTy) (dst a b : Reg) (s : State) : Out :=
  alu h dst [a, b] never (4, 5) (fun r _ => if tyVal ty (r a) ≤ tyVal ty (r b) then r b else r a) s

/-- The whole 64-bit product (R95). -/
def wideMul (ty : IntTy) (a b : Word) : DWord := BitVec.ofInt 64 (tyVal ty a * tyVal ty b)

/-- MULHI: the high 32 bits of the product (R95). -/
def execMulhi (h : Hdr) (ty : IntTy) (dst a b : Reg) (s : State) : Out :=
  alu h dst [a, b] never (6, 7) (fun r _ => (wideMul ty (r a) (r b) >>> 32).setWidth 32) s

/-- MULW: the whole product to a pair (R95). -/
def execMulw (h : Hdr) (ty : IntTy) (dst a b : Reg) (s : State) : Out :=
  alu64 h dst [(a, 1), (b, 1)] (6, 7) (fun w l => wideMul ty (w.rd a.toNat l) (w.rd b.toNat l)) s

/-- Shift left by a count, 0 from 32 on (R96). -/
def shlBy (x : Word) (k : Nat) : Word := if 32 ≤ k then 0 else x <<< k

/-- Logical shift right by a count (R96). -/
def shrBy (x : Word) (k : Nat) : Word := if 32 ≤ k then 0 else x >>> k

/-- Arithmetic shift right by a count (R96). -/
def sraBy (x : Word) (k : Nat) : Word := x.sshiftRight (Nat.min k 31)

/-- Rotate left by a count modulo 32 (R96). -/
def rolBy (x : Word) (k : Nat) : Word := x.rotateLeft (k % 32)

/-- SHL (R96); the affine unit takes a uniform count of 0 to 31 only. -/
def execShl (h : Hdr) (dst a b : Reg) (s : State) : Out :=
  alu h dst [a, b] (fun c => c.linear a && c.uniform b && decide ((c.w.rd b.toNat 0).toNat < 32)) (4, 5)
    (fun r _ => shlBy (r a) (r b).toNat) s

/-- SHL with immediate (R96). -/
def execShlImm (h : Hdr) (dst a : Reg) (n : BitVec 5) (s : State) : Out :=
  alu h dst [a] (fun c => c.linear a) (4, 5) (fun r _ => shlBy (r a) n.toNat) s

/-- SHR (R96). -/
def execShr (h : Hdr) (dst a b : Reg) (s : State) : Out :=
  alu h dst [a, b] never (4, 5) (fun r _ => shrBy (r a) (r b).toNat) s

/-- SHR with immediate (R96). -/
def execShrImm (h : Hdr) (dst a : Reg) (n : BitVec 5) (s : State) : Out :=
  alu h dst [a] never (4, 5) (fun r _ => shrBy (r a) n.toNat) s

/-- SRA (R96). -/
def execSra (h : Hdr) (dst a b : Reg) (s : State) : Out :=
  alu h dst [a, b] never (4, 5) (fun r _ => sraBy (r a) (r b).toNat) s

/-- SRA with immediate (R96). -/
def execSraImm (h : Hdr) (dst a : Reg) (n : BitVec 5) (s : State) : Out :=
  alu h dst [a] never (4, 5) (fun r _ => sraBy (r a) n.toNat) s

/-- ROL (R96). -/
def execRol (h : Hdr) (dst a b : Reg) (s : State) : Out :=
  alu h dst [a, b] never (4, 5) (fun r _ => rolBy (r a) (r b).toNat) s

/-- ROL with immediate (R96). -/
def execRolImm (h : Hdr) (dst a : Reg) (n : BitVec 5) (s : State) : Out :=
  alu h dst [a] never (4, 5) (fun r _ => rolBy (r a) n.toNat) s

/-- SEL (R97). -/
def execSel (h : Hdr) (dst a b c : Reg) (s : State) : Out :=
  alu h dst [a, b, c] never (4, 5) (fun r _ => if (r c).getLsbD 0 then r a else r b) s

/-- The relations of SET (R98). -/
def setRel (cc : SetCc) (a b : Word) : Bool :=
  match cc with
  | .eq => decide (a = b)
  | .ne => decide (a ≠ b)
  | .ltS => a.slt b
  | .leS => a.sle b
  | .ltU => a.ult b
  | .leU => a.ule b

/-- SET (R98). -/
def execSet (h : Hdr) (cc : SetCc) (dst a b : Reg) (s : State) : Out :=
  alu h dst [a, b] never (4, 5) (fun r _ => if setRel cc (r a) (r b) then 1 else 0) s

end Sys2Proof.Machine
end

