-- ==== Sys2Proof/Machine/Float.lean ====
section
/-! DEFINITION. Floating-point and conversion instructions (R99 to R127): exact values as dyadic or rational numbers, one
rounding, and the approximate functions as correctly rounded values. -/

namespace Sys2Proof.Machine

/-! ## Formats (R99, R100) -/

/-- A floating format (Table 04.1): exponent and stored significand bits, bias, the pattern of the largest finite value,
whether it saturates on overflow (E4M3, E5M2), whether it has infinities, and its canonical NaN. -/
structure Fmt where
  ebits : Nat
  mbits : Nat
  bias : Nat
  largest : Nat
  saturates : Bool
  hasInf : Bool
  nan : Nat
deriving DecidableEq, Repr

/-- F32 (Table 04.1). -/
def Fmt.f32 : Fmt := ⟨8, 23, 127, 0x7F7FFFFF, false, true, 0x7FC00000⟩

/-- F16 (Table 04.1). -/
def Fmt.f16 : Fmt := ⟨5, 10, 15, 0x7BFF, false, true, 0x7E00⟩

/-- BF16 (Table 04.1). -/
def Fmt.bf16 : Fmt := ⟨8, 7, 127, 0x7F7F, false, true, 0x7FC0⟩

/-- E4M3 (Table 04.1, R100). -/
def Fmt.e4m3 : Fmt := ⟨4, 3, 7, 0x7E, true, false, 0x7F⟩

/-- E5M2 (Table 04.1). -/
def Fmt.e5m2 : Fmt := ⟨5, 2, 15, 0x7B, true, true, 0x7E⟩

/-- The bits of a format. -/
def Fmt.width (f : Fmt) : Nat := 1 + f.ebits + f.mbits

/-- The exponent of the smallest normal. -/
def Fmt.emin (f : Fmt) : Int := 1 - (f.bias : Int)

/-- The pattern of a sign and a magnitude pattern. -/
def Fmt.signed (f : Fmt) (neg : Bool) (mag : Nat) : Nat := neg.toNat * 2 ^ (f.ebits + f.mbits) + mag

/-- The magnitude pattern of infinity, in the formats that have one. -/
def Fmt.infMag (f : Fmt) : Nat := (2 ^ f.ebits - 1) * 2 ^ f.mbits

/-- A value: NaN, an infinity, or the number (-1)^neg · m · 2^e. -/
inductive Num where
  | nan
  | inf (neg : Bool)
  | fin (neg : Bool) (m : Nat) (e : Int)
deriving DecidableEq, Repr

/-- The value of a pattern (R99, R100): `value(f, y)`. -/
def Fmt.value (f : Fmt) (y : Nat) : Num :=
  let neg := y.testBit (f.ebits + f.mbits)
  let ex := y / 2 ^ f.mbits % 2 ^ f.ebits
  let m := y % 2 ^ f.mbits
  if f.hasInf && decide (ex = 2 ^ f.ebits - 1) then (if m = 0 then .inf neg else .nan)
  else if !f.hasInf && decide (ex = 2 ^ f.ebits - 1) && decide (m = 2 ^ f.mbits - 1) then .nan
  else if ex = 0 then .fin neg m (f.emin - f.mbits)
  else .fin neg (2 ^ f.mbits + m) ((ex : Int) - f.bias - f.mbits)

/-! ## Rounding (R103 to R106) -/

/-- A rounding mode, with the dither value d of stochastic rounding. -/
inductive RMode where
  | rn | rz | rd | ru | sr (d : Nat)
deriving DecidableEq, Repr

/-- The dither table: D[i] is the five-bit reversal of i (R105, Table 04.2). -/
def dither (i : Nat) : Nat := bits i 0 0 * 16 + bits i 1 1 * 8 + bits i 2 2 * 4 + bits i 3 3 * 2 + bits i 4 4

/-- The mode of an element at a position, with the tile counter for SR (R106). -/
def modeAt (m : Rnd) (pos : Nat) (counter : Word) : RMode :=
  match m with
  | .rn => .rn | .rz => .rz | .rd => .rd | .ru => .ru
  | .sr => .sr (dither ((pos % 32 + bits counter.toNat 4 0) % 32))

/-- The multiple of the unit the mode chooses for the magnitude n / d units (R103). -/
def pickUnit (m : RMode) (neg : Bool) (n d : Nat) : Nat :=
  let q := n / d
  let r := n % d
  let up := match m with
    | .rn => decide (d < 2 * r) || (decide (2 * r = d) && decide (q % 2 = 1))
    | .rz => false
    | .rd => neg && decide (r ≠ 0)
    | .ru => !neg && decide (r ≠ 0)
    | .sr k => decide (64 * d ≤ 64 * r + (2 * k + 1) * d)
  q + up.toNat

/-- floor(log2 (n / d)) for n and d not 0. -/
def floorLog2 (n d : Nat) : Int :=
  let k : Int := (Nat.log2 n : Int) - Nat.log2 d
  if n * 2 ^ (-k).toNat < d * 2 ^ k.toNat then k - 1 else k

/-- The result of an overflow (R104). -/
def Fmt.overflow (f : Fmt) (m : RMode) (neg : Bool) : Nat :=
  f.signed neg (if f.saturates then f.largest
    else match m with
      | .rn => f.infMag
      | .rz => f.largest
      | .rd => if neg then f.infMag else f.largest
      | .ru => if neg then f.largest else f.infMag
      | .sr _ => f.infMag)

/-- Round the magnitude n / d, not 0, to a pattern (R103, R104). -/
def Fmt.roundRat (f : Fmt) (m : RMode) (neg : Bool) (n d : Nat) : Nat :=
  let e := Max.max (floorLog2 n d) f.emin
  let q := e - f.mbits
  let mant := pickUnit m neg (n * 2 ^ (-q).toNat) (d * 2 ^ q.toNat)
  let mag := (e - f.emin).toNat * 2 ^ f.mbits + mant
  if f.largest < mag then f.overflow m neg else f.signed neg mag

/-- Round a value to a pattern: NaN is canonical (R102), infinities stay or become the largest value (R115), a zero keeps
its sign. -/
def Fmt.round (f : Fmt) (m : RMode) : Num → Nat
  | .nan => f.nan
  | .inf neg => f.signed neg (if f.hasInf then f.infMag else f.largest)
  | .fin neg n e => if n = 0 then f.signed neg 0 else f.roundRat m neg (n * 2 ^ e.toNat) (2 ^ (-e).toNat)

/-- Round a finite value to an integer (R103, u = 1). -/
def roundInt (m : RMode) (neg : Bool) (n : Nat) (e : Int) : Int :=
  let k : Int := pickUnit m neg (n * 2 ^ e.toNat) (2 ^ (-e).toNat)
  if neg then -k else k

/-! ## Exact arithmetic (R118, R124) -/

/-- The exact product. -/
def Num.mul : Num → Num → Num
  | .nan, _ => .nan
  | _, .nan => .nan
  | .inf a, .inf b => .inf (a != b)
  | .inf a, .fin b n _ => if n = 0 then .nan else .inf (a != b)
  | .fin a n _, .inf b => if n = 0 then .nan else .inf (a != b)
  | .fin a n e, .fin b k g => .fin (a != b) (n * k) (e + g)

/-- The signed integer of a finite value at a smaller exponent. -/
def atExp (neg : Bool) (n : Nat) (e lo : Int) : Int :=
  let x : Int := (n * 2 ^ (e - lo).toNat : Nat)
  if neg then -x else x

/-- The exact sum; an exact zero of operands of opposite sign is +0, or −0 under RD (R118). -/
def Num.add (m : RMode) : Num → Num → Num
  | .nan, _ => .nan
  | _, .nan => .nan
  | .inf a, .inf b => if a = b then .inf a else .nan
  | .inf a, .fin _ _ _ => .inf a
  | .fin _ _ _, .inf b => .inf b
  | .fin a n e, .fin b k g =>
    let lo := Min.min e g
    let x := atExp a n e lo + atExp b k g lo
    if x = 0 then .fin (if a = b then a else decide (m = .rd)) 0 lo
    else .fin (decide (x < 0)) x.natAbs lo

/-- The value with its sign inverted. -/
def Num.neg : Num → Num
  | .nan => .nan
  | .inf a => .inf !a
  | .fin a n e => .fin (!a) n e

/-- Whether a pattern is a NaN of the format. -/
def Fmt.isNan (f : Fmt) (y : Nat) : Bool := decide (f.value y = .nan)

/-- The order of patterns with −0 below +0 (R120). -/
def Fmt.key (f : Fmt) (y : Nat) : Int :=
  let mag : Int := (y % 2 ^ (f.ebits + f.mbits) : Nat)
  if y.testBit (f.ebits + f.mbits) then -mag - 1 else mag

/-- The smaller of two patterns, avoiding NaN (R120). -/
def Fmt.least (f : Fmt) (x y : Nat) : Nat :=
  if f.isNan x && f.isNan y then f.nan else if f.isNan x then y else if f.isNan y then x
  else if f.key x ≤ f.key y then x else y

/-- The larger of two patterns, avoiding NaN (R120). -/
def Fmt.greatest (f : Fmt) (x y : Nat) : Nat :=
  if f.isNan x && f.isNan y then f.nan else if f.isNan x then y else if f.isNan y then x
  else if f.key x ≤ f.key y then y else x

/-- The F32 value of a word: `F(y)`. -/
def fv (x : Word) : Num := Fmt.f32.value x.toNat

/-- An F32 result as a register word. -/
def f32Word (m : RMode) (x : Num) : Word := BitVec.ofNat 32 (Fmt.f32.round m x)

/-- The mode of an instruction that does not list SR. -/
def plainMode (m : Rnd) : RMode := modeAt m 0 0

/-! ## F32 arithmetic -/

/-- FADD (R118). -/
def execFadd (h : Hdr) (m : Rnd) (dst a b : Reg) (s : State) : Out :=
  alu h dst [a, b] never (4, 5) (fun r _ => f32Word (plainMode m) (Num.add (plainMode m) (fv (r a)) (fv (r b)))) s

/-- FSUB (R118). -/
def execFsub (h : Hdr) (m : Rnd) (dst a b : Reg) (s : State) : Out :=
  alu h dst [a, b] never (4, 5) (fun r _ => f32Word (plainMode m) (Num.add (plainMode m) (fv (r a)) (fv (r b)).neg)) s

/-- FMUL (R118). -/
def execFmul (h : Hdr) (m : Rnd) (dst a b : Reg) (s : State) : Out :=
  alu h dst [a, b] never (4, 5) (fun r _ => f32Word (plainMode m) (Num.mul (fv (r a)) (fv (r b)))) s

/-- FFMA: one rounding (R118). -/
def execFfma (h : Hdr) (m : Rnd) (dst a b c : Reg) (s : State) : Out :=
  alu h dst [a, b, c] never (4, 5) (fun r _ =>
    f32Word (plainMode m) (Num.add (plainMode m) (Num.mul (fv (r a)) (fv (r b))) (fv (r c)))) s

/-- FMIN (R120). -/
def execFmin (h : Hdr) (dst a b : Reg) (s : State) : Out :=
  alu h dst [a, b] never (4, 5) (fun r _ => BitVec.ofNat 32 (Fmt.f32.least (r a).toNat (r b).toNat)) s

/-- FMAX (R120). -/
def execFmax (h : Hdr) (dst a b : Reg) (s : State) : Out :=
  alu h dst [a, b] never (4, 5) (fun r _ => BitVec.ofNat 32 (Fmt.f32.greatest (r a).toNat (r b).toNat)) s

/-- FABS: bit 31 cleared (R117). -/
def execFabs (h : Hdr) (dst a : Reg) (s : State) : Out :=
  alu h dst [a] never (4, 5) (fun r _ => r a &&& 0x7FFFFFFF#32) s

/-- FNEG: bit 31 inverted (R117). -/
def execFneg (h : Hdr) (dst a : Reg) (s : State) : Out :=
  alu h dst [a] never (4, 5) (fun r _ => r a ^^^ 0x80000000#32) s

/-- The bit FCLASS sets (R119). -/
def classBit (x : Word) : Nat :=
  let neg := x.getLsbD 31
  let ex := bits x.toNat 30 23
  let m := bits x.toNat 22 0
  if ex = 255 then (if m = 0 then (if neg then 0 else 7) else if x.getLsbD 22 then 9 else 8)
  else if ex = 0 then (if m = 0 then (if neg then 3 else 4) else if neg then 2 else 5)
  else if neg then 1 else 6

/-- FCLASS (R119). -/
def execFclass (h : Hdr) (dst a : Reg) (s : State) : Out :=
  alu h dst [a] never (4, 5) (fun r _ => BitVec.ofNat 32 (2 ^ classBit (r a))) s

/-- The relations of FSET (R122); −0 equals +0. -/
def fsetHolds (cc : FsetCc) (x y : Word) : Bool :=
  let un := Fmt.f32.isNan x.toNat || Fmt.f32.isNan y.toNat
  let k := fun (z : Word) => if z = 0x80000000#32 then (0 : Int) else Fmt.f32.key z.toNat
  match cc with
  | .eq => !un && decide (k x = k y)
  | .ne => un || decide (k x ≠ k y)
  | .lt => !un && decide (k x < k y)
  | .le => !un && decide (k x ≤ k y)
  | .un => un

/-- FSET (R122). -/
def execFset (h : Hdr) (cc : FsetCc) (dst a b : Reg) (s : State) : Out :=
  alu h dst [a, b] never (4, 5) (fun r _ => if fsetHolds cc (r a) (r b) then 1 else 0) s

/-! ## Conversions -/

/-- An integer as a value. -/
def intNum (x : Int) : Num := .fin (decide (x < 0)) x.natAbs 0

/-- CVT.F32.SI32 (R114). -/
def execCvtF32Si32 (h : Hdr) (m : Rnd) (dst a : Reg) (s : State) : Out :=
  alu h dst [a] never (4, 5) (fun r _ => f32Word (plainMode m) (intNum (r a).toInt)) s

/-- CVT.F32.UI32 (R114). -/
def execCvtF32Ui32 (h : Hdr) (m : Rnd) (dst a : Reg) (s : State) : Out :=
  alu h dst [a] never (4, 5) (fun r _ => f32Word (plainMode m) (intNum (r a).toNat)) s

/-- F32 rounded to an integer and clamped to a type's range (R104, R114). -/
def toInteger (ty : IntTy) (m : RMode) : Num → Word
  | .nan => 0
  | .inf neg => match ty with
    | .si32 => if neg then 0x80000000#32 else 0x7FFFFFFF#32
    | .ui32 => if neg then 0 else 0xFFFFFFFF#32
  | .fin neg n e => tySat ty (roundInt m neg n e)

/-- CVT.SI32.F32 (R114). -/
def execCvtSi32F32 (h : Hdr) (m : Rnd) (dst a : Reg) (s : State) : Out :=
  alu h dst [a] never (4, 5) (fun r _ => toInteger .si32 (plainMode m) (fv (r a))) s

/-- CVT.UI32.F32 (R114). -/
def execCvtUi32F32 (h : Hdr) (m : Rnd) (dst a : Reg) (s : State) : Out :=
  alu h dst [a] never (4, 5) (fun r _ => toInteger .ui32 (plainMode m) (fv (r a))) s

/-- F32 rounded to an integral value, keeping its sign (R121). -/
def integral (m : RMode) : Num → Num
  | .fin neg n e => .fin neg (roundInt m neg n e).natAbs 0
  | x => x

/-- FRND (R121). -/
def execFrnd (h : Hdr) (m : Rnd) (dst a : Reg) (s : State) : Out :=
  alu h dst [a] never (4, 5) (fun r _ => f32Word .rn (integral (plainMode m) (fv (r a)))) s

/-- The sources of a narrowing conversion: the tile counter only under SR (R106). -/
def withCounter (m : Rnd) (srcs : List Reg) (c : Reg) : List Reg := if m = .sr then srcs ++ [c] else srcs

/-- Two F32 values narrowed to the two halves of a word (R115). -/
def narrow2 (f : Fmt) (m : Rnd) (counter a b : Word) (l : Nat) : Word :=
  BitVec.ofNat 32 (f.round (modeAt m (2 * l) counter) (fv a) + 65536 * f.round (modeAt m (2 * l + 1) counter) (fv b))

/-- CVT.BF16.F32 (R115). -/
def execCvtBf16F32 (h : Hdr) (m : Rnd) (dst a b c : Reg) (s : State) : Out :=
  alu h dst (withCounter m [a, b] c) never (4, 5) (fun r l => narrow2 .bf16 m (r c) (r a) (r b) l) s

/-- CVT.F16.F32 (R115). -/
def execCvtF16F32 (h : Hdr) (m : Rnd) (dst a b c : Reg) (s : State) : Out :=
  alu h dst (withCounter m [a, b] c) never (4, 5) (fun r l => narrow2 .f16 m (r c) (r a) (r b) l) s

/-- Two F32 values narrowed to the two bytes of one half of a word, the other half kept (R115). -/
def narrowHalf (f : Fmt) (half : Bool) (m : Rnd) (counter a b old : Word) (l : Nat) : Word :=
  let j := 2 * half.toNat
  let x := f.round (modeAt m (4 * l + j) counter) (fv a) + 256 * f.round (modeAt m (4 * l + j + 1) counter) (fv b)
  if half then BitVec.ofNat 32 (bits old.toNat 15 0 + 65536 * x) else BitVec.ofNat 32 (bits old.toNat 31 16 * 65536 + x)

/-- CVT.E4M3.F32 (R115); reads its destination (R110). -/
def execCvtE4m3F32 (h : Hdr) (half : Bool) (m : Rnd) (dst a b c : Reg) (s : State) : Out :=
  alu h dst (withCounter m [a, b] c ++ [dst]) never (4, 5) (fun r l => narrowHalf .e4m3 half m (r c) (r a) (r b) (r dst) l) s

/-- CVT.E5M2.F32 (R115); reads its destination (R110). -/
def execCvtE5m2F32 (h : Hdr) (half : Bool) (m : Rnd) (dst a b c : Reg) (s : State) : Out :=
  alu h dst (withCounter m [a, b] c ++ [dst]) never (4, 5) (fun r l => narrowHalf .e5m2 half m (r c) (r a) (r b) (r dst) l) s

/-- Widening to F32, exact (R116). -/
def widen (f : Fmt) (x : Nat) : Word := f32Word .rn (f.value x)

/-- Half h of a word. -/
def halfOf (x : Word) (half : Bool) : Nat := if half then bits x.toNat 31 16 else bits x.toNat 15 0

/-- CVT.F32.BF16 (R116). -/
def execCvtF32Bf16 (h : Hdr) (half : Bool) (dst a : Reg) (s : State) : Out :=
  alu h dst [a] never (4, 5) (fun r _ => widen .bf16 (halfOf (r a) half)) s

/-- CVT.F32.F16 (R116). -/
def execCvtF32F16 (h : Hdr) (half : Bool) (dst a : Reg) (s : State) : Out :=
  alu h dst [a] never (4, 5) (fun r _ => widen .f16 (halfOf (r a) half)) s

/-- Byte n of a word. -/
def byteOf (x : Word) (n : Nat) : Nat := x.toNat / 256 ^ n % 256

/-- CVT.F32.E4M3 (R116). -/
def execCvtF32E4m3 (h : Hdr) (byte : BitVec 2) (dst a : Reg) (s : State) : Out :=
  alu h dst [a] never (4, 5) (fun r _ => widen .e4m3 (byteOf (r a) byte.toNat)) s

/-- CVT.F32.E5M2 (R116). -/
def execCvtF32E5m2 (h : Hdr) (byte : BitVec 2) (dst a : Reg) (s : State) : Out :=
  alu h dst [a] never (4, 5) (fun r _ => widen .e5m2 (byteOf (r a) byte.toNat)) s

/-! ## Packed arithmetic -/

/-- The format of a packed instruction (R107). -/
def packFmt : PackFmt → Fmt | .f16 => .f16 | .bf16 => .bf16

/-- A packed result: the function applied to each half (R123). -/
def packed (g : Bool → Nat) : Word := BitVec.ofNat 32 (g false + 65536 * g true)

/-- PADD (R123). -/
def execPadd (h : Hdr) (f : PackFmt) (m : Rnd) (dst a b : Reg) (s : State) : Out :=
  alu h dst [a, b] never (4, 5) (fun r _ => packed (fun i => (packFmt f).round (plainMode m)
    (Num.add (plainMode m) ((packFmt f).value (halfOf (r a) i)) ((packFmt f).value (halfOf (r b) i))))) s

/-- PMUL (R123). -/
def execPmul (h : Hdr) (f : PackFmt) (m : Rnd) (dst a b : Reg) (s : State) : Out :=
  alu h dst [a, b] never (4, 5) (fun r _ => packed (fun i => (packFmt f).round (plainMode m)
    (Num.mul ((packFmt f).value (halfOf (r a) i)) ((packFmt f).value (halfOf (r b) i))))) s

/-- PFMA (R123). -/
def execPfma (h : Hdr) (f : PackFmt) (m : Rnd) (dst a b c : Reg) (s : State) : Out :=
  alu h dst [a, b, c] never (4, 5) (fun r _ => packed (fun i => (packFmt f).round (plainMode m)
    (Num.add (plainMode m) (Num.mul ((packFmt f).value (halfOf (r a) i)) ((packFmt f).value (halfOf (r b) i)))
      ((packFmt f).value (halfOf (r c) i))))) s

/-- PMIN (R123). -/
def execPmin (h : Hdr) (f : PackFmt) (dst a b : Reg) (s : State) : Out :=
  alu h dst [a, b] never (4, 5) (fun r _ => packed (fun i => (packFmt f).least (halfOf (r a) i) (halfOf (r b) i))) s

/-- PMAX (R123). -/
def execPmax (h : Hdr) (f : PackFmt) (dst a b : Reg) (s : State) : Out :=
  alu h dst [a, b] never (4, 5) (fun r _ => packed (fun i => (packFmt f).greatest (halfOf (r a) i) (halfOf (r b) i))) s

/-- PDOT: two products and an F32 term, rounded once (R124). -/
def execPdot (h : Hdr) (f : PackFmt) (m : Rnd) (dst a b c : Reg) (s : State) : Out :=
  alu h dst [a, b, c] never (5, 6) (fun r _ =>
    let p := fun i => Num.mul ((packFmt f).value (halfOf (r a) i)) ((packFmt f).value (halfOf (r b) i))
    f32Word (plainMode m) (Num.add (plainMode m) (Num.add (plainMode m) (p false) (p true)) (fv (r c)))) s

/-! ## Weight packing -/

/-- The bits of a packed weight element (R101). -/
def qBits : QFmt → Nat | .q4 => 4 | .q3 => 3

/-- A scaled value rounded to a weight element (R125). -/
def quantize (q : QFmt) (m : RMode) : Num → Word
  | .nan => 0
  | .inf neg => BitVec.ofInt 32 (if neg then -(2 ^ (qBits q - 1)) else 2 ^ (qBits q - 1) - 1)
  | .fin neg n e => BitVec.ofInt 32 (sats (roundInt m neg n e) (qBits q))

/-- QNT (R125). -/
def execQnt (h : Hdr) (q : QFmt) (m : Rnd) (dst a b c : Reg) (s : State) : Out :=
  alu h dst (withCounter m [a, b] c) never (4, 5) (fun r l => quantize q (modeAt m l (r c)) (Num.mul (fv (r a)) (fv (r b)))) s

/-- The outcome of a cross-lane instruction: not legal in a melded region, two occupancies, latency 6 or 7 (R108, R109). -/
def crossLane (h : Hdr) (dst : Reg) (srcs : List Src) (tag : Ctx → Tag) (f : Ctx → Nat → Word) (s : State) : Out :=
  issue h { srcs := srcs, dsts := [(dst.toNat, 1)], meld := false } s fun c s =>
    .done none ((s.count c.w.wg 2 1).put c dst.toNat c.act (laneBuild (f c)) (tag c) (c.lat 6 7))

/-- The packed group string of the active lanes' elements (R126). -/
def groupString (c : Ctx) (w : Nat) (a : Reg) : Nat :=
  lanes.foldr (fun i n => n * 2 ^ w + (if bitOf c.act i then (c.w.rd a.toNat i).toNat % 2 ^ w else 0)) 0

/-- QPK (R126). -/
def execQpk (h : Hdr) (q : QFmt) (dst a : Reg) (s : State) : Out :=
  crossLane h dst [srcA a] (fun _ => .general) (fun c l =>
    BitVec.ofNat 32 (groupString c (qBits q) a / 2 ^ (32 * (l % 4)))) s

/-- QUNPK (R126). -/
def execQunpk (h : Hdr) (q : QFmt) (dst a : Reg) (s : State) : Out :=
  crossLane h dst [⟨a.toNat, 1, .first (qBits q)⟩] (fun _ => .general) (fun c l =>
    let str := (List.range (qBits q)).foldr (fun i n => n * 2 ^ 32 + (c.w.rd a.toNat i).toNat) 0
    BitVec.ofInt 32 (sextN (str / 2 ^ (qBits q * l)) (qBits q))) s

/-- SPMK: the mask of active lanes whose operand is not zero (R127). -/
def execSpmk (h : Hdr) (dst a : Reg) (s : State) : Out :=
  crossLane h dst [srcA a] (fun c => if c.act = 0xFFFFFFFF#32 then .uniform else .general)
    (fun c _ => maskOf (fun i => bitOf c.act i && decide (c.w.rd a.toNat i ≠ 0))) s

/-- SPCMP: compaction by a mask (R127). -/
def execSpcmp (h : Hdr) (dst a b : Reg) (s : State) : Out :=
  crossLane h dst [⟨a.toNat, 1, .picked b.toNat⟩, srcA b] (fun _ => .general) (fun c j =>
    match c.w.pick b.toNat j with | some i => c.w.rd a.toNat i | none => 0) s

/-! ## Approximate functions (R113)

Each is the exact function rounded once to nearest. The value is enclosed in fixed point with P fraction bits; every
series below adds at most 2^48 units of error at any P used, and the enclosure is refined until both its ends round to
the same pattern. -/

/-- The integer square root of numbers below 2^(2k + 2), bit by bit from 2^k. -/
def isqrtFrom (n : Nat) : Nat → Nat → Nat
  | 0, r => if (r + 1) * (r + 1) ≤ n then r + 1 else r
  | k + 1, r => isqrtFrom n k (if (r + 2 ^ (k + 1)) * (r + 2 ^ (k + 1)) ≤ n then r + 2 ^ (k + 1) else r)

/-- Sum of the terms t, t·z/k, … of an exponential series in fixed point, k rising from i. -/
def expTerms (p z : Nat) : Nat → Nat → Nat → Nat
  | 0, _, _ => 0
  | n + 1, i, t => t + expTerms p z n (i + 1) (t * z / (i * 2 ^ p))

/-- e^(z / 2^p) in fixed point. -/
def expFix (p z : Nat) : Nat := expTerms p z (p / 2 + 64) 1 (2 ^ p)

/-- Sum of t^(2i+1)/(2i+1) with signs for the arc tangent (alt) or without for its hyperbolic sister, in fixed point. -/
def atanTerms (p t2 : Nat) (alt : Bool) : Nat → Nat → Nat → Int
  | 0, _, _ => 0
  | n + 1, i, t => (t / (2 * i + 1) : Nat) + (if alt then -1 else 1) * atanTerms p t2 alt n (i + 1) (t * t2 / 2 ^ p)

/-- atan or atanh of t / 2^p in fixed point. -/
def atanFix (p : Nat) (alt : Bool) (t : Nat) : Int := atanTerms p (t * t / 2 ^ p) alt (p / 2 + 8) 0 t

/-- π in fixed point, by Machin's formula. -/
def piFix (p : Nat) : Nat := (16 * atanFix p true (2 ^ p / 5) - 4 * atanFix p true (2 ^ p / 239)).toNat

/-- ln 2 in fixed point: 2 atanh (1/3). -/
def ln2Fix (p : Nat) : Nat := (2 * atanFix p false (2 ^ p / 3)).toNat

/-- The alternating sine series of a fixed-point angle. -/
def sinTerms (p z2 : Nat) : Nat → Nat → Nat → Int
  | 0, _, _ => 0
  | n + 1, i, t => (t : Int) - sinTerms p z2 n (i + 1) (t * z2 / (2 ^ p * ((2 * i) * (2 * i + 1))))

/-- sin(π a) in fixed point for a = n / d in [0, 1/2]. -/
def sinPiFix (p n d : Nat) : Nat :=
  let z := piFix p * n / d
  (sinTerms p (z * z / 2 ^ p) (p / 4 + 16) 1 z).toNat

/-- Refine a fixed-point enclosure until both ends round alike: `g p` is the value scaled by 2^(p + e). -/
def refine (neg : Bool) (e : Int) (g : Nat → Nat) : Nat → Nat → Nat
  | 0, p => Fmt.f32.roundRat .rn neg (g p * 2 ^ e.toNat) (2 ^ (p + (-e).toNat))
  | n + 1, p =>
    let at' := fun x => Fmt.f32.roundRat .rn neg (x * 2 ^ e.toNat) (2 ^ (p + (-e).toNat))
    let x := g p
    if at' (x - 2 ^ 48) = at' (x + 2 ^ 48) then at' x else refine neg e g n (p + 320)

/-- RCP of a value (Table 04.10). -/
def rcpOf : Num → Nat
  | .nan => Fmt.f32.nan
  | .inf neg => Fmt.f32.signed neg 0
  | .fin neg n e => if n = 0 then Fmt.f32.signed neg Fmt.f32.infMag
      else Fmt.f32.roundRat .rn neg (2 ^ (-e).toNat) (n * 2 ^ e.toNat)

/-- RSQ of a value (Table 04.10): floor(2^t / √n) with a sticky half unit when it is not exact. -/
def rsqOf : Num → Nat
  | .nan => Fmt.f32.nan
  | .inf neg => if neg then Fmt.f32.nan else 0
  | .fin neg n e =>
    if n = 0 then Fmt.f32.signed neg Fmt.f32.infMag
    else if neg then Fmt.f32.nan
    else
      let odd := e % 2 = 1
      let n := if odd then 2 * n else n
      let k := (if odd then e - 1 else e) / 2
      let v := isqrtFrom (2 ^ 160 / n) 80 0
      let sticky := decide (v * v * n ≠ 2 ^ 160)
      Fmt.f32.roundRat .rn false ((2 * v + sticky.toNat) * 2 ^ (-k).toNat) (2 ^ 81 * 2 ^ k.toNat)

/-- EX2 of a value (Table 04.10). -/
def ex2Of : Num → Nat
  | .nan => Fmt.f32.nan
  | .inf neg => if neg then 0 else Fmt.f32.infMag
  | .fin neg n e =>
    let num := n * 2 ^ e.toNat
    let den := 2 ^ (-e).toNat
    if !neg && decide (128 * den ≤ num) then Fmt.f32.infMag
    else if neg && decide (150 * den ≤ num) then 0
    else
      let x : Int := if neg then -(num : Int) else num
      let i := x / den
      let f := (x % den).toNat
      if f = 0 then Fmt.f32.roundRat .rn false (2 ^ i.toNat) (2 ^ (-i).toNat)
      else refine false i (fun p => expFix p (ln2Fix p * f / den)) 3 320

/-- LG2 of a value (Table 04.10). -/
def lg2Of : Num → Nat
  | .nan => Fmt.f32.nan
  | .inf neg => if neg then Fmt.f32.nan else Fmt.f32.infMag
  | .fin neg n e =>
    if n = 0 then Fmt.f32.signed true Fmt.f32.infMag
    else if neg then Fmt.f32.nan
    else
      let k := Nat.log2 n
      let i := e + k
      if n = 2 ^ k then f32Word .rn (intNum i) |>.toNat
      else
        let frac := fun p => 2 * (atanFix p false ((n - 2 ^ k) * 2 ^ p / (n + 2 ^ k))).toNat * 2 ^ p / ln2Fix p
        let g := fun (p : Nat) => i * 2 ^ p + (frac p : Int)
        refine (decide (i < 0)) 0 (fun p => (g p).natAbs) 3 320

/-- SIN of a value: sin(πx) (Table 04.10). -/
def sinOf : Num → Nat
  | .nan => Fmt.f32.nan
  | .inf _ => Fmt.f32.nan
  | .fin neg n e =>
    let den := 2 ^ (-e).toNat
    let a := n * 2 ^ e.toNat % (2 * den)
    if a % den = 0 then Fmt.f32.signed neg 0
    else
      let flip := decide (den < a)
      let a := a % den
      let a := if den < 2 * a then den - a else a
      let sg := neg != flip
      if 2 * a = den then Fmt.f32.signed sg 0x3F800000
      else refine sg 0 (fun p => sinPiFix p a den) 3 320

/-- COS of a value: cos(πx) (Table 04.10). -/
def cosOf : Num → Nat
  | .nan => Fmt.f32.nan
  | .inf _ => Fmt.f32.nan
  | .fin _ n e =>
    let den := 2 * 2 ^ (-e).toNat
    let a := 2 * n * 2 ^ e.toNat % (2 * den)
    let a := if den < a then 2 * den - a else a
    let sg := decide (den < 2 * a)
    let a := if sg then den - a else a
    if a = 0 then Fmt.f32.signed sg 0x3F800000
    else if 2 * a = den then 0
    else refine sg 0 (fun p => sinPiFix p (den / 2 - a) den) 3 320

/-- TANH of a value (Table 04.10). -/
def tanhOf (x : Num) : Nat :=
  match x with
  | .nan => Fmt.f32.nan
  | .inf neg => Fmt.f32.signed neg 0x3F800000
  | .fin neg n e =>
    let num := n * 2 ^ e.toNat
    let den := 2 ^ (-e).toNat
    if num * 4096 ≤ den then Fmt.f32.round .rn x
    else if 19 * den ≤ 2 * num then Fmt.f32.signed neg 0x3F800000
    else refine neg 0 (fun p =>
      let t := expFix p (2 * num * 2 ^ p / den)
      (t - 2 ^ p) * 2 ^ p / (t + 2 ^ p)) 3 320

/-- The outcome of an approximate function (R113). -/
def approx (h : Hdr) (dst a : Reg) (f : Num → Nat) (s : State) : Out :=
  alu h dst [a] never (10, 12) (fun r _ => BitVec.ofNat 32 (f (fv (r a)))) s

/-- RCP (R113). -/
def execRcp (h : Hdr) (dst a : Reg) (s : State) : Out := approx h dst a rcpOf s

/-- RSQ (R113). -/
def execRsq (h : Hdr) (dst a : Reg) (s : State) : Out := approx h dst a rsqOf s

/-- EX2 (R113). -/
def execEx2 (h : Hdr) (dst a : Reg) (s : State) : Out := approx h dst a ex2Of s

/-- LG2 (R113). -/
def execLg2 (h : Hdr) (dst a : Reg) (s : State) : Out := approx h dst a lg2Of s

/-- SIN (R113). -/
def execSin (h : Hdr) (dst a : Reg) (s : State) : Out := approx h dst a sinOf s

/-- COS (R113). -/
def execCos (h : Hdr) (dst a : Reg) (s : State) : Out := approx h dst a cosOf s

/-- TANH (R113). -/
def execTanh (h : Hdr) (dst a : Reg) (s : State) : Out := approx h dst a tanhOf s

end Sys2Proof.Machine
end

