-- ==== Sys2Proof/Machine/Control.lean ====
section
/-! DEFINITION. Control flow, execution mask, melded regions, spawning and counted windows (R128 to R170, R483). -/

namespace Sys2Proof.Machine

/-- The target of a word offset of some bits: `pc + 8 + 8 × offset` (R37, R56, R157; log entry 9, DEDUCED). -/
def branchTo (pc : BitVec 57) (off : Int) : Nat := (BitVec.ofInt 57 ((pc.toNat : Int) + 8 + 8 * off)).toNat

/-- A new execution mask: inside a melded region, outside trap mode, only lanes of the entry mask (R130). -/
def Warp.setMask (w : Warp) (m : Mask) : Warp := { w with exm := if w.melded && !w.trap then m &&& w.entryMask else m }

/-! ## Branches (R131, R157) -/

/-- BRA: taken without a guard, or when some enabled lane's guard is true (Table 05.2). -/
def execBra (h : Hdr) (off : BitVec 24) (s : State) : Out :=
  issue h {} s fun c s => .done (if !h.g || decide (c.act ≠ 0) then some (branchTo c.w.pc off.toInt) else none) s

/-- BRA.ALL: taken without a guard, or when every enabled lane's guard is true (Table 05.2). -/
def execBraAll (h : Hdr) (off : BitVec 24) (s : State) : Out :=
  issue h {} s fun c s => .done (if !h.g || decide (c.act = c.w.exm) then some (branchTo c.w.pc off.toInt) else none) s

/-- BRA.NONE: taken when no enabled lane's guard is true (Table 05.2). -/
def execBraNone (h : Hdr) (off : BitVec 24) (s : State) : Out :=
  issue h {} s fun c s => .done (if c.act = 0 then some (branchTo c.w.pc off.toInt) else none) s

/-- The link of a call: `pc + 8` to a pair, in the active lanes (R133). -/
def State.link (s : State) (c : Ctx) (h : Hdr) (n : Reg) (srcs : List Reg) : State :=
  let ret := c.w.next
  let tag := c.laneTag h srcs
  (s.put c n.toNat c.act (laneSplat (ret.setWidth 32)) tag (c.lat 4 5)).put c (n.toNat + 1) c.act
    (laneSplat ((ret >>> 32).setWidth 32)) tag (c.lat 4 5)

/-- CALL (R159). -/
def execCall (h : Hdr) (link : Reg) (off : BitVec 24) (s : State) : Out :=
  issue h { dsts := [(link.toNat, 2)], window := false, meld := false } s fun c s =>
    if !h.g || decide (c.act ≠ 0) then .done (some (branchTo c.w.pc off.toInt)) (s.link c h link []) else .done none s

/-- An indirect jump (R132, R162): the target is the leader lane's; `after` is what the jump writes besides. -/
def indirect (h : Hdr) (a : Reg) (dsts : List (Nat × Nat)) (after : Ctx → State → State) (s : State) : Out :=
  issue h { srcs := [srcL a 2], dsts := dsts, window := false, meld := false } s fun c s =>
    match c.leader with
    | none => .done none s
    | some l =>
      let t := (c.w.rd64 a.toNat l).toNat % 2 ^ 57
      if t % 8 ≠ 0 then .trap (causeVal 0x03 0 (BitVec.ofNat 32 t)) s else .done (some t) (after c s)

/-- JMP (R162). -/
def execJmp (h : Hdr) (a : Reg) (s : State) : Out := indirect h a [] (fun _ s => s) s

/-- JMPL: a jump that writes the link (R162). -/
def execJmpl (h : Hdr) (dst a : Reg) (s : State) : Out :=
  indirect h a [(dst.toNat, 2)] (fun c s => s.link c h dst [a, a + 1]) s

/-- RET: a jump (R162). -/
def execRet (h : Hdr) (a : Reg) (s : State) : Out := indirect h a [] (fun _ s => s) s

/-- LOOP: step a temporal level (R163). -/
def execLoop (h : Hdr) (n : Fin 6) (off : BitVec 16) (s : State) : Out :=
  issue h {} s fun c s =>
    let lv := c.g.loops.getD n.val ⟨0, .absent⟩
    if lv.mark ≠ .temporal then .trap (causeVal 0x02 6 (BitVec.ofNat 32 n.val)) s
    else
      let i := (c.w.loops.getD n.val 0).toNat
      if i + 1 < lv.extent then
        .done (some (branchTo c.w.pc off.toInt))
          (s.modWarp c.id (fun w => { w with loops := listSet n.val (BitVec.ofNat 32 (i + 1)) w.loops }))
      else .done none (s.modWarp c.id (fun w => { w with loops := listSet n.val 0 w.loops }))

/-- EXIT: the warp ends (R161). -/
def execExit (h : Hdr) (s : State) : Out :=
  issue h { window := false, meld := false } s fun c s => .over ((s.count c.w.wg 1 1).endWarp c.id)

/-- NOP (R168). -/
def execNop (h : Hdr) (s : State) : Out := issue h {} s fun _ s => .done none s

/-! ## Execution mask (R129, R130, R164 to R167) -/

/-- The lanes enabled whose bit 0 of a register is a value. -/
def Ctx.laneBits (c : Ctx) (a : Reg) (want : Bool) : Mask :=
  maskOf (fun l => bitOf c.w.exm l && ((c.w.rd a.toNat l).getLsbD 0 == want))

/-- MAND and MANDN: save the mask and narrow it (R164). -/
def narrow (h : Hdr) (dst a : Reg) (want : Bool) (s : State) : Out :=
  issue h { srcs := [⟨a.toNat, 1, .mask⟩], dsts := [(dst.toNat, 1)], maskClass := true, wide := true } s fun c s =>
    .done none (((s.count c.w.wg 3 1).putAll c dst.toNat c.w.exm 2).modWarp c.id (fun w => w.setMask (c.laneBits a want)))

/-- MAND (R164). -/
def execMand (h : Hdr) (dst a : Reg) (s : State) : Out := narrow h dst a true s

/-- MANDN (R164). -/
def execMandn (h : Hdr) (dst a : Reg) (s : State) : Out := narrow h dst a false s

/-- MELSE: lane 0's value AND NOT the mask (R166). -/
def execMelse (h : Hdr) (a : Reg) (s : State) : Out :=
  issue h { srcs := [src0 a], maskClass := true } s fun c s =>
    .done none ((s.count c.w.wg 3 1).modWarp c.id (fun w => w.setMask (c.lane0 a &&& ~~~c.w.exm)))

/-- MSET: lane 0's value (R166). -/
def execMset (h : Hdr) (a : Reg) (s : State) : Out :=
  issue h { srcs := [src0 a], maskClass := true } s fun c s =>
    .done none ((s.count c.w.wg 3 1).modWarp c.id (fun w => w.setMask (c.lane0 a)))

/-- MVOTE: the ballot of the enabled lanes (R167). -/
def execMvote (h : Hdr) (dst a : Reg) (s : State) : Out :=
  issue h { srcs := [⟨a.toNat, 1, .mask⟩], dsts := [(dst.toNat, 1)], maskClass := true, wide := true } s fun c s =>
    .done none ((s.count c.w.wg 2 1).putAll c dst.toNat (c.laneBits a true) (c.lat 4 5))

/-! ## Meld (R134 to R138, R160, R165, R169) -/

/-- Open a melded region (R134). -/
def Warp.openMeld (w : Warp) (vp : BitVec 6) : Warp :=
  { w with entryMask := w.exm, meldReg := vp, melded := true,
           paths := maskOf (fun l => bitOf w.exm l && (laneVal (w.reg vp.toNat).vals l).getLsbD 0) }

/-- Close a melded region (R137). -/
def Warp.closeMeld (w : Warp) : Warp := { w with exm := w.entryMask, paths := 0, melded := false }

/-- Close the melded region a trap suspended (R160). -/
def Warp.closeSuspended (w : Warp) : Warp :=
  if w.melded then { w with trapMask := w.entryMask, paths := 0, melded := false } else w

/-- MELD (R134, R165). -/
def execMeld (h : Hdr) (vp : BitVec 6) (s : State) : Out :=
  issue h { srcs := [⟨vp.toNat, 1, .mask⟩], window := false, meld := false } s fun c s =>
    .done none (s.modWarp c.id (fun w => w.openMeld vp))

/-- ENDMELD (R137, R160). -/
def execEndmeld (h : Hdr) (s : State) : Out :=
  issue h { window := false } s fun c s =>
    if c.w.trap then .done none (s.modWarp c.id Warp.closeSuspended)
    else if !c.w.melded then .trap (cause0 0x08 0) s
    else .done none (s.modWarp c.id Warp.closeMeld)

/-- RNM: load a rename entry of each path's table; the register numbers are no operands (R169). -/
def execRnm (h : Hdr) (i : BitVec 4) (x y : Reg) (s : State) : Out :=
  issue h { window := false, meld := false } s fun c s =>
    .done none (s.modWarp c.id (fun w => { w with ren0 := listSet i.toNat x w.ren0, ren1 := listSet i.toNat y w.ren1 }))

/-! ## Spawning branch (R139 to R146, R158, R180, R470) -/

/-- The spawn banks of a core, in ascending bank order (R180). -/
def State.spawnBanks (s : State) (core : Nat) : List Nat :=
  ((List.range (kindBanks (chipKind (coreChip core)))).map (fun b => coreCluster core * 256 + b)).filter (fun b =>
    decide ((s.bank b).mode = 3) && decide ((s.bank b).core.toNat = core % 4))

/-- The bytes of a core's Millpond entries that stand in a place: none is the scratchpad region. -/
def State.pondUsed (s : State) (core : Nat) (place : Option Nat) : Nat :=
  (s.corePond core).foldl (fun n e => if e.2.inBank = place then n + e.2.bytes else n) 0

/-- The free Millpond bytes of a core, its region and its spawn banks together (R141, R180): what all its entries leave of
their capacity. -/
def State.pondFree (s : State) (core : Nat) : Nat :=
  kindPond (chipKind (coreChip core)) + (s.spawnBanks core).length * 2 ^ 17
    - (s.corePond core).foldl (fun n e => n + e.2.bytes) 0

/-- Where the next entry goes: the region, else the first spawn bank with room (R180). Where the free space suffices and no
single place has room for the whole entry, it goes to the last spawn bank (log entry 35, DESIGN CHOICE). -/
def State.pondPlace (s : State) (core n : Nat) : Option Nat :=
  if s.pondUsed core none + n ≤ kindPond (chipKind (coreChip core)) then none
  else match (s.spawnBanks core).find? (fun b => decide (s.pondUsed core (some b) + n ≤ 2 ^ 17)) with
    | some b => some b
    | none => (s.spawnBanks core).getLast?

/-- The key of a warp-former bin of a workgroup: resume address, role and budget (R142). -/
def binKey (resume role budget : Nat) : Nat := (resume * 4 + role) * 512 + budget

/-- The bin of an entry. -/
def PondEntry.bin (e : PondEntry) : Nat := binKey e.resume e.role e.budget

/-- The live registers of a livemask: groups of eight below the budget (R140). -/
def liveRegs (budget : Nat) (mask : Word) : List Nat :=
  (List.range (budget / 8)).flatMap (fun g => if mask.getLsbD g then span (8 * g) 8 else [])

/-- Write one spawned lane's entry (R140): its bin starts its wait anew (R142). -/
def State.spawnLane (s : State) (c : Ctx) (resume : Nat) (live : List Nat) (l : Nat) : State :=
  let n := 16 + 4 * live.length
  let e : PondEntry := {
    resume := resume, lane := l, warpIdx := c.w.idx, role := c.w.role, budget := c.w.budget, world := c.g.world,
    regs := live.map (fun r => (r, laneVal (c.w.reg r).vals l, bitOf (c.w.reg r).poison l)),
    loops := c.w.loops, prio := c.w.prio, bytes := n, inBank := s.pondPlace c.g.core n, arrival := s.opSeq }
  State.modWg { s with opSeq := s.opSeq + 1 } c.w.wg (fun g =>
    { g with pond := g.pond ++ [e], binWait := Table.del e.bin g.binWait })

/-- BRS: split the lanes and spawn the minority (R139 to R141, R158). Its register stands in the place of a guard and one beyond the
budget raises subcode 2 (log entry 12, DEDUCED). -/
def execBrs (h : Hdr) (live : Reg) (off : BitVec 24) (s : State) : Out :=
  issue { h with g := false, sense := false, guard := 0 }
    { srcs := [⟨h.guard.toNat, 1, .mask⟩, src0 live], window := false, meld := false, split := some h.guard.toNat } s fun c s =>
    let taken := c.w.active h
    let fell := c.w.exm &&& ~~~taken
    let target := branchTo c.w.pc off.toInt
    let next := c.w.next.toNat
    if taken = 0 then .done none (s.count c.w.wg 2 1)
    else if fell = 0 then .done (some target) (s.count c.w.wg 2 1)
    else
      let small := decide (maskCount taken ≤ maskCount fell)
      let spawned := if small then taken else fell
      let regs := liveRegs c.w.budget (c.lane0 live)
      if regs.any c.w.heldRead.contains then .wait .register s
      else
        let need := maskCount spawned * (16 + 4 * regs.length)
        if s.pondFree c.g.core < need then .trap (causeVal 0x09 0 (BitVec.ofNat 32 need)) s
        else
          let s := (lanes.filter (bitOf spawned)).foldl
            (fun s l => s.spawnLane c (if small then target else next) regs l) s
          let s := (s.count c.w.wg 2 1).count c.w.wg 12 need
          .done (if small then none else some target) (s.modWarp c.id (fun w => { w with exm := w.exm &&& ~~~spawned }))

/-! ## Counted windows (R147 to R153, R156, R170) -/

/-- The window mask bit of a warp. -/
def Warp.bit (w : Warp) : Mask := BitVec.ofNat 32 (2 ^ w.idx)

/-- ALIGN: arrive at the formation of a window, and wait for the last participant; window start moves the warp on (R147). In
trap mode the checks of cause 0x0A are not made (R381): a mask without the warp's own bit makes it no participant of
anything, and one that differs from the forming window's waits until that window has ended (log entry 36, DESIGN CHOICE). -/
def execAlign (h : Hdr) (a : Reg) (s : State) : Out :=
  issue h { srcs := [src0 a], window := false, meld := false } s fun c s =>
    let m := c.lane0 a
    if !bitOf m c.w.idx then (if c.w.trap then .done none s else .trap (causeVal 0x0A 0 m) s)
    else match c.g.win with
      | none =>
        .wait .align (s.modWg c.w.wg (fun g => { g with win := some ⟨m, c.w.bit, false, false, 0, 0, 4, 0⟩ }))
      | some x =>
        if x.running then .wait .align s
        else if x.mask ≠ m then (if c.w.trap then .wait .align s else .trap (causeVal 0x0A 0 m) s)
        else .wait .align (s.modWg c.w.wg (fun g => { g with win := some { x with arrived := x.arrived ||| c.w.bit } }))

/-- UNALIGN: leave the window; outside one it has no effect (R153, R170). -/
def execUnalign (h : Hdr) (s : State) : Out :=
  issue h {} s fun c s =>
    if !c.w.window then .done none s
    else .done none ((s.modWarp c.id (fun w => { w with window := false })).modWg c.w.wg (fun g =>
      { g with win := g.win.map (fun x => { x with inside := x.inside &&& ~~~c.w.bit }) }))

end Sys2Proof.Machine
end

