-- ==== Sys2Proof/Machine/Barrier.lean ====
section
/-! DEFINITION. The barrier word, the updates made to it by warps and by engine operations, and the waits of a release and an
acquire (R51, R224, R225, R255 to R262, R480). -/

namespace Sys2Proof.Machine

/-! ## The barrier word (Tables 08.1 and 08.2) -/

/-- The fields of a barrier word. -/
structure BarWord where
  phase : Bool
  error : Bool
  gen : Nat
  expected : Nat
  arrived : Nat
  bytes : Int
deriving DecidableEq, Repr

/-- The fields of a doubleword as a barrier word. -/
def barOf (x : DWord) : BarWord :=
  ⟨x.getLsbD 63, x.getLsbD 62, bits x.toNat 61 48, bits x.toNat 47 40, bits x.toNat 39 32, sextN x.toNat 32⟩

/-- The doubleword of some fields. -/
def BarWord.word (b : BarWord) : DWord :=
  BitVec.ofNat 64 (b.phase.toNat * 2 ^ 63 + b.error.toNat * 2 ^ 62 + b.gen % 2 ^ 14 * 2 ^ 48 + b.expected % 256 * 2 ^ 40
    + b.arrived % 256 * 2 ^ 32 + wrapI b.bytes 32)

/-- The completion test of an update (R256). -/
def BarWord.test (b : BarWord) : BarWord :=
  if b.arrived = b.expected ∧ b.bytes = 0 then { b with phase := !b.phase, arrived := 0 } else b

/-- Whether a byte count lies in the range of SI32. -/
def barRange (x : Int) : Bool := decide (-(2 ^ 31 : Int) ≤ x) && decide (x ≤ 2 ^ 31 - 1)

/-- A warp's update of a word: the new word, or none when it is refused (R257). -/
def BarWord.update (b : BarWord) : BarChange → Option BarWord
  | .init n => some ⟨false, false, (b.gen + 1) % 2 ^ 14, n, 0, 0⟩
  | .arrive => if b.arrived + 1 ≤ b.expected then some { b with arrived := b.arrived + 1 }.test else none
  | .sync => if b.arrived + 1 ≤ b.expected then some { b with arrived := b.arrived + 1 }.test else none
  | .arriveExp n =>
    if b.arrived + 1 ≤ b.expected ∧ barRange (b.bytes + n) = true then
      some { b with arrived := b.arrived + 1, bytes := b.bytes + n }.test else none
  | .expect n =>
    if b.arrived ≤ b.expected ∧ barRange (b.bytes + n) = true then some { b with bytes := b.bytes + n }.test else none
  | .drop => if b.arrived + 1 ≤ b.expected then some { b with expected := b.expected - 1 }.test else none
  | .test _ _ => some b

/-- The location of named barrier n of a workgroup (R51). -/
def barLoc (gid : Nat) (g : Wg) (n : Nat) : Nat := locPriv gid (g.bar + 8 * n)

/-- Barrier word n. -/
def State.barWord (s : State) (gid : Nat) (g : Wg) (n : Nat) : DWord :=
  BitVec.ofNat 64 (leNat (s.bytesAt 0 (barLoc gid g n) 8))

/-- A flip ends the wait of every `BWAIT` and `BSYNC` of the workgroup on the barrier that waits for another phase: it keeps the word
(R277). -/
def Warp.seeFlip (w : Warp) (n : Nat) (x : DWord) : Warp :=
  match w.barWait with
  | some (m, p, none) => if m = n ∧ x.getLsbD 63 ≠ p then { w with barWait := some (m, p, some x) } else w
  | _ => w

/-- Store a barrier word that was `old`. -/
def State.putBar (s : State) (gid : Nat) (g : Wg) (n : Nat) (old new : DWord) : State :=
  let s := s.putAt 0 (barLoc gid g n) (leBytes 8 new.toNat)
  if old.getLsbD 63 = new.getLsbD 63 then s
  else { s with warps := s.warps.map (fun e => (e.1, if e.2.wg = gid then e.2.seeFlip n new else e.2)) }

/-- The word after a warp's update: unchanged but for the error bit when it is refused (R257). -/
def barNext (old : DWord) (c : BarChange) : DWord :=
  match (barOf old).update c with
  | some b => b.word
  | none => old ||| (1 <<< 62)

/-- Report an asynchronous cause of a warp that may have ended: a warp that has is only reported (R257). -/
def State.asyncOrReport (s : State) (gid id : Nat) (c : CauseInfo) : State :=
  if (Table.find id s.warps).isSome then s.raiseAsync id c
  else match Table.find gid s.wgs with
    | some g => s.modHub (coreHub g.core) (fun h => { h with reports := h.reports ++ [⟨c.code.toNat, c.sub.toNat, gid, id, 0⟩] })
    | none => s

/-- The result of a `BTEST` on its way to a pair of registers takes the word that its read finds (R276, R388). -/
def Warp.testLands (w : Warp) (lo due : Nat) (x : DWord) : Warp :=
  { w with landing := w.landing.map (fun e =>
      if e.due ≠ due then e
      else if e.slot = lo then { e with vals := laneSplat (x.setWidth 32) }
      else if e.slot = lo + 1 then { e with vals := laneSplat ((x >>> 32).setWidth 32) } else e) }

/-- Perform one barrier update of a warp at the word (R256, R257); a `BSYNC` learns the phase it read, and waits from then on for the
update that ends it, whether or not its own arrival was refused (R275, R277; log entry 45, DESIGN CHOICE); the read of a window's `BTEST` changes
nothing (R276). -/
def State.performBar (s : State) (gid : Nat) (u : BarUpdate) : State :=
  match Table.find gid s.wgs with
  | none => s
  | some g =>
    let old := s.barWord gid g u.bar
    match u.change with
    | .test lo due => s.modWarp u.warp (fun w => w.testLands lo due old)
    | _ =>
    let s := s.putBar gid g u.bar old (barNext old u.change)
    let new := barNext old u.change
    let s := if u.change = .sync then s.modWarp u.warp (fun w => { w with
        bsync := some (some (old.getLsbD 63))
        barWait := some (u.bar, old.getLsbD 63, if new.getLsbD 63 = old.getLsbD 63 then none else some new) }) else s
    if ((barOf old).update u.change).isSome then s
    else s.asyncOrReport gid u.warp (causeVal 0x41 1 (BitVec.ofNat 32 u.bar))

/-- The core cycles a window has run or stood frozen for. -/
def Window.clock (x : Window) : Nat := x.cycle + x.stalls

/-- Whether a window holds an update back: one issued in it is performed 12 or 14 cycles later (R272). -/
def Wg.early (g : Wg) (u : BarUpdate) : Bool :=
  match g.win with
  | some x => x.running && !x.frozen && decide (x.clock < u.due)
  | none => false

/-- Perform update i of a workgroup, if no earlier one of the same warp is pending and it is not early (R272). -/
def State.performBarAt (s : State) (gid i : Nat) : State :=
  match Table.find gid s.wgs with
  | none => s
  | some g => match g.barPend[i]? with
    | none => s
    | some u =>
      if (g.barPend.take i).any (fun v => decide (v.warp = u.warp)) || g.early u then s
      else (s.modWg gid (fun g => { g with barPend := listDel i g.barPend })).performBar gid u

/-- The pending updates up to the last that satisfies a test, and those behind it. -/
def uptoLast (p : BarUpdate → Bool) : List BarUpdate → List BarUpdate × List BarUpdate
  | [] => ([], [])
  | u :: us =>
    let r := uptoLast p us
    if p u || !r.1.isEmpty then (u :: r.1, r.2) else ([], u :: r.2)

/-- Perform every pending barrier update of a warp, and those issued before it, in order: the warp reads what it wrote (R189, R272). -/
def State.settleBars (s : State) (gid id : Nat) : State :=
  match Table.find gid s.wgs with
  | none => s
  | some g =>
    let r := uptoLast (fun u => decide (u.warp = id)) g.barPend
    if r.1.isEmpty then s
    else r.1.foldl (fun s u => s.performBar gid u) (s.modWg gid (fun g => { g with barPend := r.2 }))

/-- Perform the updates of a workgroup that are due by now in the time of its window, in the order of their issue (R272). -/
def State.settleDue (s : State) (gid : Nat) : State :=
  match Table.find gid s.wgs with
  | none => s
  | some g =>
    let due := g.barPend.filter (fun u => decide (u.due ≠ 0) && !g.early u)
    if due.isEmpty then s
    else due.foldl (fun s u => s.performBar gid u)
      (s.modWg gid (fun g => { g with barPend := g.barPend.filter (fun u => !(decide (u.due ≠ 0) && !g.early u)) }))

/-- How many `BINIT`s of a warp on a barrier are still to be performed. -/
def Wg.initsDue (g : Wg) (id n : Nat) : Nat :=
  (g.barPend.filter (fun u => decide (u.warp = id ∧ u.bar = n) && (match u.change with
    | .init _ => true
    | _ => false))).length

/-- The generation an engine operation records: what every update its warp issued before it results in (R258, R480). -/
def State.barGen (s : State) (gid id : Nat) (g : Wg) (n : Nat) : Nat :=
  ((barOf (s.barWord gid g n)).gen + g.initsDue id n) % 2 ^ 14

/-- Whether a barrier word has still to come to the generation that an operation of a warp recorded, a `BINIT` that the warp issued before it
being still to be performed: the operation's updates wait for it (R480). -/
def State.barAhead (s : State) (gid id n gen : Nat) : Bool :=
  match Table.find gid s.wgs with
  | none => false
  | some g =>
    let d := (gen + 2 ^ 14 - (barOf (s.barWord gid g n)).gen) % 2 ^ 14
    decide (0 < d) && decide (d ≤ g.initsDue id n)

/-- An engine's landing of some bytes, or its arrival (R256 to R258): discarded when the generation has moved on; error alone
when refused. -/
def State.engineBar (s : State) (gid n gen bytes : Nat) (arrive failed : Bool) : State :=
  match Table.find gid s.wgs with
  | none => s
  | some g =>
    let old := s.barWord gid g n
    let b := barOf old
    if b.gen ≠ gen then s
    else
      let b := if failed then { b with error := true } else b
      let a := b.arrived + arrive.toNat
      let y := b.bytes - (bytes : Int)
      let new := if b.expected < a ∨ barRange y = false then { b with error := true }
        else { b with arrived := a, bytes := y }.test
      s.putBar gid g n old new.word

/-! ## Releases and acquires (R224, R225) -/

/-- Raise the program versions from scope 4 to a scope, by the raise of each. -/
def raisePv (pv : List Nat) (scope v : Nat) : List Nat :=
  (List.range 7).map (fun i => if i + 4 ≤ scope then Nat.max (pv.getD i 0) v else pv.getD i 0)

/-- Whether every earlier load of a warp has returned (R224, R225). -/
def Warp.loaded (w : Warp) : Bool := w.pend.isEmpty

/-- Whether the waits of a release of a warp at a scope have ended (R224): its loads returned; its writes and accepted stream
elements complete at the scope, on a non-coherent chiplet from scope 5 on only by a `FLUSH.G` of each line written. -/
def State.released (s : State) (id : Nat) (g : Wg) (w : Warp) (scope : Nat) : Bool :=
  w.loaded
    && g.streams.all (fun e => decide (e.2.owner ≠ id) || e.2.supplied.isEmpty)
    && (s.core g.core).writes.all (fun p => (decide (p.warp ≠ id) && !p.also.contains id) || (decide (scope < 4) && p.pieces.all (fun x => isPhys x.1)))
    && (decide (scope < 5) || decide ((s.chip (coreChip g.core)).cls ≠ 2) || w.unflushed.isEmpty)

/-- The version step of a release. -/
def Warp.release (w : Warp) (scope : Nat) : Warp := { w with pv := raisePv w.pv scope w.wmax }

/-- The version clock an acquire at a scope rises to (R225). -/
def State.acquireClock (s : State) (hub scope : Nat) : Nat :=
  if scope < 6 then 0 else if scope = 6 then (s.hub hub).clock else Nat.max (s.hub 0).clock (s.hub 1).clock

/-- The writes and versions that become a warp's own by an acquire at a scope: those of its workgroup from scope 2 on, those
of its core from scope 3 on; with the program versions that warps there have acquired to, for a release covers what an acquire made visible to
its warp (R228; log entry 21, DEDUCED). -/
def State.inherit (s : State) (id : Nat) (g : Wg) (gid scope : Nat) : State :=
  if scope < 2 then s
  else
    let mine := fun (p : PendWrite) => decide (p.wg = gid) || decide (3 ≤ scope)
    let mates := s.warps.filter (fun e => decide (e.2.wg = gid) || (decide (3 ≤ scope) &&
      (match Table.find e.2.wg s.wgs with | some x => decide (x.core = g.core) | none => false)))
    let lines := dedup (mates.flatMap (fun e => e.2.unflushed))
    let v := if scope = 2 then g.ver else (s.core g.core).ver
    let s := s.modCore g.core (fun c => { c with writes := c.writes.map (fun p =>
      if mine p && decide (p.warp ≠ id) && !p.also.contains id then { p with also := p.also ++ [id] } else p) })
    let floor := if scope = 2 then g.floor else (s.core g.core).floor
    s.modWarp id (fun w => { w with wmax := Nat.max w.wmax v, unflushed := lines, floor := maxVersions w.floor floor })

/-- A warp's workgroup and core keep the program versions that it goes by (R228; log entry 21, DEDUCED). -/
def State.noteVersions (s : State) (id : Nat) : State :=
  match Table.find id s.warps with
  | none => s
  | some w => match Table.find w.wg s.wgs with
    | none => s
    | some g => (s.modWg w.wg (fun g => { g with floor := maxVersions g.floor w.versions })).modCore g.core (fun c =>
        { c with floor := maxVersions c.floor w.versions })

/-- The version step of an acquire. -/
def State.acquire (s : State) (id : Nat) (g : Wg) (scope : Nat) : State :=
  let k := s.acquireClock (coreHub g.core) scope
  let gid := match Table.find id s.warps with | some w => w.wg | none => 0
  ((s.inherit id g gid scope).modWarp id (fun w => { w with pv := raisePv w.pv scope (Nat.max w.ov k) })).noteVersions id

end Sys2Proof.Machine
end

