-- ==== Sys2Proof/Machine/Fields.lean ====
section
/-! DEFINITION. The codes of instruction variants in minor opcodes and the checks of word fields that the decoder and the
well-formedness predicate share (R33 to R36, R41, R52, R245, R246, R303, R336, R337, R399). -/

namespace Sys2Proof

/-- What an instruction's entry says of its guard: taken, not taken (G = 1 raises cause 0x02), or required (`BRS`). -/
inductive GuardRule where
  | any | none | must
deriving DecidableEq, Repr

/-- The guard fields of a header are legal (R41, R154). -/
def Hdr.ok (h : Hdr) (gr : GuardRule) : Bool :=
  match gr with
  | .any => h.g || (!h.sense && decide (h.guard = 0))
  | .none => !h.g && !h.sense && decide (h.guard = 0)
  | .must => h.g

/-- A pair register is even (R36). -/
def even (n : Reg) : Bool := decide (n.toNat % 2 = 0)

/-- A quad register is a multiple of 4. -/
def quad (n : Reg) : Bool := decide (n.toNat % 4 = 0)

/-- A register that names as many registers as some bytes need: one, a pair, a quad. -/
def wide (bytes : Nat) (n : Reg) : Bool := if bytes = 8 then even n else if bytes = 16 then quad n else true

/-- The code of a type suffix. -/
def tyCode : IntTy → Nat | .si32 => 0 | .ui32 => 1

/-- The code of a rounding mode (R103). -/
def rndCode : Rnd → Nat | .rn => 0 | .rz => 1 | .rd => 2 | .ru => 3 | .sr => 4

/-- The code of a packed format (R107). -/
def packCode : PackFmt → Nat | .f16 => 0 | .bf16 => 1

/-- The offset of a packed weight format. -/
def qCode : QFmt → Nat | .q4 => 0 | .q3 => 1

/-- The code of an address space (Table 07.4). -/
def spCode : Space → Nat | .priv => 0 | .clus => 1 | .glob => 2

/-- The minor of a `SET` relation (Table 03.5). -/
def setCode : SetCc → Nat | .eq => 1 | .ne => 2 | .ltS => 3 | .leS => 4 | .ltU => 5 | .leU => 6

/-- The op of an `FSET` relation (Table 04.9). -/
def fsetCode : FsetCc → Nat | .eq => 1 | .ne => 2 | .lt => 3 | .le => 4 | .un => 5

/-- The kind of a load (Table 06.8a). -/
def ldCode : LdKind → Nat | .ui8 => 1 | .si8 => 2 | .ui16 => 3 | .si16 => 4 | .w32 => 5 | .w64 => 6 | .w128 => 7

/-- The kind of a store (Table 06.8b). -/
def stCode : StKind → Nat | .w8 => 1 | .w16 => 3 | .w32 => 5 | .w64 => 6 | .w128 => 7

/-- The offset of a width (Table 06.8d). -/
def widthCode : Width → Nat | .w32 => 0 | .w64 => 1 | .w128 => 2

/-- The bytes of a load (Table 06.8a). -/
def ldBytes : LdKind → Nat | .ui8 => 1 | .si8 => 1 | .ui16 => 2 | .si16 => 2 | .w32 => 4 | .w64 => 8 | .w128 => 16

/-- The bytes of a store (Table 06.8b). -/
def stBytes : StKind → Nat | .w8 => 1 | .w16 => 2 | .w32 => 4 | .w64 => 8 | .w128 => 16

/-- The bytes of a width. -/
def widthBytes : Width → Nat | .w32 => 4 | .w64 => 8 | .w128 => 16

/-- The code of an activation format (Table 10.1). -/
def actCode : ActFmt → Nat | .bf16 => 0 | .e4m3 => 1 | .e5m2 => 2

/-- The code of a weight format (Table 10.1). -/
def wgtCode : WgtFmt → Nat | .q4 => 0 | .q3 => 1 | .e4m3 => 2

/-- The code of a scale format (R337). -/
def scaleCode : ScaleFmt → Nat | .f32 => 0 | .bf16 => 1

/-- The code of a scale mode (R337). -/
def saccCode : SaccMode → Nat | .col => 1 | .row => 2 | .rc => 3

/-- The control field of atomics, reductions and joins (Table 07.4). -/
def control (sp : Space) (w64 : Bool) : BitVec 8 := BitVec.ofNat 8 (spCode sp + 4 * w64.toNat)

/-- The special registers of Table 02.8. -/
def srListed (n : Nat) : Bool :=
  [0x00, 0x01, 0x02, 0x03, 0x04, 0x05, 0x06, 0x08, 0x09, 0x0A, 0x0B, 0x0C, 0x0D, 0x10, 0x11, 0x12, 0x13, 0x14, 0x18, 0x19,
    0x1A, 0x1B, 0x1C, 0x20, 0x21].contains n

/-- The special registers Table 02.8 does not mark R. -/
def srWritable (n : Nat) : Bool := [0x00, 0x18, 0x19, 0x1A, 0x1B, 0x1C].contains n

/-- The context items of Table 12.9. -/
def itemListed (n : Nat) : Bool :=
  decide (n < 8) || (decide (0x10 ≤ n) && decide (n < 0x30)) || (decide (0x30 ≤ n) && decide (n < 0x36))

/-- The context items Table 12.9 marks RW. -/
def itemWritable (n : Nat) : Bool := decide (n = 0) || decide (n = 6) || (decide (0x10 ≤ n) && decide (n < 0x36))

end Sys2Proof
end

