-- ==== Sys2Proof/Machine/Pattern.lean ====
section
/-! DEFINITION. Stream pattern records, the elements they visit, and block-table entries, shared by streams and the bulk copy
engine (R192 to R195, R198 to R200, R212, R289, R297 to R301). -/

namespace Sys2Proof.Machine

/-! ## Records (R192, R194) -/

/-- The 8-byte words of a record. -/
def recWords (bs : List Byte) : List Nat := (List.range 8).map (fun i => leNat ((bs.drop (8 * i)).take 8))

/-- The element format codes of Table 06.7a, and untyped. -/
def formatListed (n : Nat) : Bool :=
  [0x00, 0x01, 0x02, 0x03, 0x04, 0x05, 0x08, 0x09, 0x10, 0x11, 0x12, 0x13, 0x14, 0x15].contains n

/-- The record that eight words lay out (Table 06.7). -/
def recOf (ws : List Nat) : PatRec :=
  let w := fun i => ws.getD i 0
  let d := fun i => w (2 + i)
  { clip := (w 0).testBit 60, p2z := (w 0).testBit 59, block := (w 0).testBit 58, ind := (w 0).testBit 57,
    base := bits (w 0) 56 0, ispace := (w 1).testBit 35, iw := (w 1).testBit 34, idim := bits (w 1) 33 32,
    world := bits (w 1) 31 24, tier := bits (w 1) 17 16, lsize := bits (w 1) 10 8, format := bits (w 1) 7 0,
    extent := (List.range 4).map (fun i => bits (d i) 31 0), stride := (List.range 4).map (fun i => sextN (bits (d i) 63 32) 32),
    index := w 6, box := (List.range 4).map (fun i => bits (w 7) (16 * i + 15) (16 * i)) }

/-- Whether word 0x00 fails with cause 0x02; a cluster tensor side has base bits [56:32] zero and no block table (R289). -/
def recBad0 (w0 lsize : Nat) (cluster : Bool) : Bool :=
  decide (bits w0 63 61 ≠ 0) || (w0.testBit 58 && !w0.testBit 57)
    || (decide (lsize ≤ 4) && decide (bits w0 56 0 % 2 ^ lsize ≠ 0))
    || (cluster && (decide (bits w0 56 32 ≠ 0) || w0.testBit 58))

/-- Whether word 0x08 fails with cause 0x02. -/
def recBad1 (w1 : Nat) : Bool :=
  decide (bits w1 63 36 ≠ 0) || decide (bits w1 23 18 ≠ 0) || decide (bits w1 15 11 ≠ 0) || decide (4 < bits w1 10 8)
    || decide (bits w1 17 16 = 3) || !formatListed (bits w1 7 0)

/-- Whether word 0x30 fails: the reserved bits of the index table's address or of the block table's number; without an
indirect level the word has no fields (log entry 20, DEDUCED). -/
def recBad6 (r : PatRec) : Bool :=
  if r.block then decide (bits r.index 63 16 ≠ 0) else if !r.ind then false
  else if r.ispace then decide (bits r.index 63 32 ≠ 0) else decide (bits r.index 63 57 ≠ 0)

/-- The first word of a record that fails: the cause and the word's byte offset (R194). -/
def recFails (ws : List Nat) (world : Nat) (cluster : Bool) : Option (Nat × Nat) :=
  let r := recOf ws
  if recBad0 (ws.getD 0 0) r.lsize cluster then some (0x02, 0)
  else if recBad1 (ws.getD 1 0) then some (0x02, 8)
  else if r.world ≠ world then some (0x38, 8)
  else match (List.range 4).find? (fun d => decide (r.extent.getD d 0 = 0)) with
    | some d => some (0x02, 0x10 + 8 * d)
    | none => if recBad6 r then some (0x02, 0x30) else if r.box.any (· = 0) then some (0x02, 0x38) else none

/-- The cause of a failing record word: its byte offset in every lane; the subcode of cause 0x02 is that of an operand value
(log entry 20, DEDUCED). -/
def recCause (f : Nat × Nat) : CauseInfo := causeVal f.1 (if f.1 = 0x02 then 6 else 0) (BitVec.ofNat 32 f.2)

/-- Read 64 record bytes at a record reference (R212), every lane carrying the trap value of an address fault. The bytes of a poisoned sector are
read as they stand, with no cause and no mark; a pool record is read in plain form, whatever the world of its kernel, and from memory itself,
past writes of the core that are still pending and copies that its storage holds (log entry 46, DESIGN CHOICE). -/
def State.readRecord (s : State) (wg : Nat) (g : Wg) (ref : Word) : Except CauseInfo (List Byte) × State :=
  let r := ref.toNat
  let all := lanes.map (fun l => (l, r % 2 ^ 24))
  if ref.getLsbD 31 then
    if r % 64 ≠ 0 then (.error (memCause 0x03 0 0 all (all.map (fun e => (e.1, .bad 0x03 0 0)))), s)
    else if bits r 30 24 ≠ 0 then (.error (causeVal 0x02 6 0), s)
    else if g.scratch < r % 2 ^ 24 + 64 then
      (.error (memCause 0x11 0 0 all (all.map (fun e => (e.1, .bad 0x11 0 0)))), s)
    else (.ok (s.bytesAt 0 (locPriv wg (r % 2 ^ 24)) 64), s)
  else if bits r 30 16 ≠ 0 ∨ g.records ≤ r then (.error (causeVal 0x02 6 0), s)
  else
    let va := (g.pool + 64 * r) % 2 ^ 57
    let x := s.xlate g.core false g.asid va .load wg
    let lns := lanes.map (fun l => (l, va))
    match x.1 with
    | .fault code sub lv => (.error (memCause code sub 2 lns (lns.map (fun e => (e.1, .bad code sub lv)))), x.2)
    | .ok pa _ lv =>
      if (paHome pa).isNone then (.error (memCause 0x11 0 2 lns (lns.map (fun e => (e.1, .bad 0x11 0 lv)))), x.2)
      else (.ok (x.2.bytesAt 0 pa 64), x.2)

/-! ## Elements (R195) -/

/-- The coordinates of element k in traversal order. -/
def PatRec.at (r : PatRec) (c : List Int) (k : Nat) : List Int :=
  let b := fun i => r.box.getD i 1
  let i := [k % b 0, k / b 0 % b 1, k / (b 0 * b 1) % b 2, k / (b 0 * b 1 * b 2)]
  (c.zip i).map (fun e => e.1 + (e.2 : Int))

/-- The element count. -/
def PatRec.count (r : PatRec) : Nat := r.box.foldl (· * ·) 1

/-- The element size in bytes. -/
def PatRec.size (r : PatRec) : Nat := 2 ^ r.lsize

/-- The address that the log entry of an element's poison names: none for a block-table element in global memory, whose address is not
translated (R300, R481, R484). -/
def PatRec.met (r : PatRec) (loc addr : Nat) : Nat := if r.block && isPhys loc then 0 else addr

/-- Whether an element is clipped. -/
def PatRec.clipped (r : PatRec) (x : List Int) : Bool :=
  r.clip && (x.zip r.extent).any (fun e => decide (e.1 < 0) || decide ((e.2 : Int) ≤ e.1))

/-- The offset in elements of coordinates. -/
def PatRec.offset (r : PatRec) (y : List Int) : Int := (y.zip r.stride).foldl (fun a e => a + e.1 * e.2) 0

/-- The coordinates along one dimension that are not clipped, lowest and highest; none when all are clipped. -/
def PatRec.reach (r : PatRec) (c : List Int) (d : Nat) : Option (Int × Int) :=
  let lo := c.getD d 0
  let hi := lo + ((r.box.getD d 1 : Nat) : Int) - 1
  let lo := if r.clip then Max.max lo 0 else lo
  let hi := if r.clip then Min.min hi (((r.extent.getD d 1 : Nat) : Int) - 1) else hi
  if hi < lo then none else some (lo, hi)

/-- The bounding range of a tensor side: first byte and length, empty when every element is clipped (R240). -/
def PatRec.bounds (r : PatRec) (c : List Int) : Nat × Nat :=
  let ds := (List.range 4).map (fun d => (r.reach c d, r.stride.getD d 0))
  if ds.any (fun e => e.1.isNone) then (0, 0)
  else
    let ends := ds.map (fun e => match e.1 with
      | some (lo, hi) => (Min.min (lo * e.2) (hi * e.2), Max.max (lo * e.2) (hi * e.2))
      | none => (0, 0))
    let lo := ends.foldl (fun a e => a + e.1) 0
    let hi := ends.foldl (fun a e => a + e.2) 0
    (wrapI ((r.base : Int) + lo * (r.size : Int)) 57, ((hi - lo + 1) * (r.size : Int)).toNat)

/-! ## Block-table entries (Table 09.1) -/

/-- A block-table entry. `pa` is the number of the 64 KiB block. -/
structure BtEntry where
  pa : Nat
  tier : Nat
  d : Bool
  c : Bool
  v : Bool
  next : Nat
  version : Nat
  refcount : Nat
deriving DecidableEq, Repr

/-- The entry that two words lay out. -/
def btOf (w0 w1 : Nat) : BtEntry :=
  ⟨bits w0 51 16, bits w0 3 3, w0.testBit 2, w0.testBit 1, w0.testBit 0, bits w1 63 40, bits w1 39 16, bits w1 15 0⟩

/-- The 16 bytes of an entry. -/
def BtEntry.bytes (e : BtEntry) : List Byte :=
  leBytes 8 (e.pa * 65536 + e.tier % 2 * 8 + e.d.toNat * 4 + e.c.toNat * 2 + e.v.toNat)
    ++ leBytes 8 (e.next * 2 ^ 40 + e.version % 2 ^ 24 * 65536 + e.refcount)

/-- The hub and descriptor of a block table that exists (R430). -/
def State.btTable (s : State) (t : Nat) : Option (Nat × BtDesc) :=
  [0, 1].findSome? (fun h => match Table.find t (s.hub h).btDescs with
    | some d => if d.valid then some (h, d) else none
    | none => none)

/-- The hub and descriptor of a table that a workgroup may name (R299). -/
def State.btFor (s : State) (g : Wg) (t : Nat) : Option (Nat × BtDesc) :=
  match s.btTable t with
  | some (h, d) => if d.vdev = g.vdev ∧ d.world = g.world then some (h, d) else none
  | none => none

/-- An entry of a table. -/
def State.btEntry (s : State) (d : BtDesc) (i : Nat) : BtEntry :=
  btOf (leNat (s.bytesAt 0 (d.array + 16 * i) 8)) (leNat (s.bytesAt 0 (d.array + 16 * i + 8) 8))

/-- Change an entry of a table. -/
def State.btPut (s : State) (d : BtDesc) (i : Nat) (e : BtEntry) : State := s.putAt 0 (d.array + 16 * i) e.bytes

/-! ## Where an element stands -/

/-- What resolving an element answers: clipped; its location, page attribute and address with the block-table entry it was
resolved through (table and entry as one number, version, block); poisoned by its index entry; a cause with the trap value words of its lane; or that it must wait. -/
inductive ElemAt where
  | clip
  | ok (loc attr addr : Nat) (via : Option (Nat × Nat × Nat))
  | lost (loc addr : Nat)
  | bad (code sub : Nat) (lo hi : Word)
  | hold
deriving DecidableEq, Repr

/-- The fault of an element's address (Table 06.2). -/
def elemBad (code sub lv space addr : Nat) : ElemAt :=
  .bad code sub (BitVec.ofNat 32 addr)
    (BitVec.ofNat 32 (2 ^ 31 + space * 2 ^ 29 + lv % 8 * 2 ^ 26 + (if space = 2 then addr % 2 ^ 57 / 2 ^ 32 else 0)))

/-- The fault of a block-table entry (R299). -/
def btBad (code t i : Nat) : ElemAt := .bad code 0 (BitVec.ofNat 32 i) (BitVec.ofNat 32 (2 ^ 31 + t % 65536))

/-- Whether an engine operation of a workgroup holds a destination lock over private bytes (R198). -/
def State.indexLocked (s : State) (core wg addr n : Nat) : Bool :=
  (s.core core).locks.any (fun k => decide (k.space = 0) && decide (k.owner = wg) && k.dest && overlaps addr n k.lo (k.hi - k.lo))

/-- Who resolves elements: a load or store stream of a warp, whose accesses are checked against range locks, or the copy
engine, whose are not (R241). -/
structure Resolver where
  wg : Nat
  g : Wg
  asker : Asker
  stream : Bool
  cluster : Bool

/-- A global address of an element or index entry: aligned, translated, permitted, memory, and for a stream clear of range locks and of the debugger's
watchpoints (R241, R392). -/
def State.resolveVa (s : State) (q : Resolver) (va n : Nat) (acc : AccessKind) : ElemAt × State :=
  if va % n ≠ 0 then (elemBad 0x03 0 0 2 va, s)
  else
    let x := s.xlate q.g.core false q.g.asid va acc q.wg
    match x.1 with
    | .fault code sub lv => (elemBad code sub lv 2 va, x.2)
    | .ok pa attr lv =>
      if (paHome pa).isNone then (elemBad 0x11 0 lv 2 va, x.2)
      else if q.stream && rangeHit (s.core q.g.core).locks 2 q.g.asid va n (decide (acc ≠ .load)) then
        (elemBad 0x21 0 0 2 va, x.2)
      else if q.stream && watchHit (s.core q.g.core) q.g 2 va n acc then (elemBad 0x48 2 0 2 va, x.2)
      else (.ok pa attr va none, x.2)

/-- The address of an index-table entry and its size (R195). -/
def PatRec.indexAddr (r : PatRec) (x : Int) : Nat × Nat :=
  let n : Nat := if r.iw then 8 else 4
  (wrapI ((r.index : Int) + x * (n : Int)) (if r.ispace then 32 else 57), n)

/-- The bytes of the index-table entry that element k reads (R195). -/
def State.indexRange (s : State) (q : Resolver) (r : PatRec) (c : List Int) (k : Nat) : List (Nat × Nat) :=
  if !r.ind || r.block || r.clipped (r.at c k) then []
  else
    let a := r.indexAddr ((r.at c k).getD r.idim 0)
    if r.ispace then [(locPriv q.wg a.1, a.2)]
    else match (s.resolveVa q a.1 a.2 .load).1 with
      | .ok pa _ _ _ => [(pa, a.2)]
      | _ => []

/-- The value of an index-table entry (R195, R198, R200): the number, or what stands in its way; a stream waits for an entry that an
engine operation of its workgroup is still to write (R198), a copy is ordered by its queue (R286). -/
def State.indexAt (s : State) (q : Resolver) (r : PatRec) (x : Int) : Except ElemAt Int × State :=
  let n := (r.indexAddr x).2
  let a := (r.indexAddr x).1
  if r.ispace then
    if a % n ≠ 0 then (.error (elemBad 0x03 0 0 0 a), s)
    else if q.g.scratch < a + n then (.error (elemBad 0x11 0 0 0 a), s)
    else if q.stream && s.indexLocked q.g.core q.wg a n then (.error .hold, s)
    else
      let loc := locPriv q.wg a
      if s.poisonAt loc n then (.error (.lost loc a), s) else (.ok (sextN (leNat (s.bytesAt 0 loc n)) (8 * n)), s)
  else
    let v := s.resolveVa q a n .load
    match v.1 with
    | .ok pa attr _ _ =>
      let f := if q.stream then v.2.coreRead q.asker pa n attr true
        else let h := v.2.clusterRead q.asker pa attr true true; (h.1.cut pa n, h.2)
      if f.1.poison then (.error (.lost pa a), f.2) else (.ok (sextN (leNat f.1.bytes) (8 * n)), f.2)
    | e => (.error e, v.2)

/-- Resolve a block-table element at a byte offset (R300). -/
def State.resolveBlock (s : State) (q : Resolver) (t off : Nat) (acc : AccessKind) : ElemAt :=
  match s.btFor q.g t with
  | none => btBad 0x19 t (off / 65536)
  | some (_, d) =>
    let i := off / 65536
    if d.entries ≤ i then btBad 0x19 t i
    else
      let e := s.btEntry d i
      if !e.v then btBad 0x19 t i
      else if acc ≠ .load ∧ e.d = true then .hold
      else if acc ≠ .load ∧ e.c = true then btBad 0x18 t i
      else .ok (e.pa * 65536 + off % 65536) 0 off (some (t * 2 ^ 24 + i, e.version, e.pa))

/-- The attribute under which an element is accessed, from its page's and from its record's tier: 3 looks the line up and allocates none
(R192). -/
def PatRec.attr (r : PatRec) (page : Nat) : Nat :=
  if page = 1 then 1 else if r.tier = 2 then 3 else if page = 2 ∨ r.tier = 1 then 2 else 0

/-- Where the element at coordinates y stands. -/
def State.resolveAt (s : State) (q : Resolver) (r : PatRec) (y : List Int) (acc : AccessKind) : ElemAt × State :=
  let off := r.offset y * (r.size : Int)
  if r.block then
    (match s.resolveBlock q (bits r.index 15 0) (wrapI off 57) acc with
      | .ok pa attr a via => .ok pa (r.attr attr) a via
      | e => e, s)
  else
    let va := wrapI ((r.base : Int) + off) 57
    if q.cluster then
      match checkCluster s q.g va r.size false with
      | .ok loc _ => (.ok loc 0 va none, s)
      | .bad code sub lv => (elemBad code sub lv 1 va, s)
    else
      let v := s.resolveVa q va r.size acc
      match v.1 with
      | .ok pa attr a via => (.ok pa (r.attr attr) a via, v.2)
      | e => (e, v.2)

/-- Where element k of a record opened at coordinates stands (R195). -/
def State.resolveElem (s : State) (q : Resolver) (r : PatRec) (c : List Int) (k : Nat) (acc : AccessKind) : ElemAt × State :=
  let x := r.at c k
  if r.clipped x then (.clip, s)
  else if r.ind && !r.block then
    let v := s.indexAt q r (x.getD r.idim 0)
    match v.1 with
    | .ok t => v.2.resolveAt q r (listSet r.idim t x) acc
    | .error e => (e, v.2)
  else s.resolveAt q r x acc

end Sys2Proof.Machine
end

