-- ==== Sys2Proof/Machine/Memory.lean ====
section
/-! DEFINITION. Loads, stores, line maintenance, asynchronous loads and cluster-bank modes (R171 to R191, R202 to R209,
R215). -/

namespace Sys2Proof.Machine

/-! ## Addresses -/

/-- The address of a lane: `rd64(a) + imm` for global, `rd(a) + imm` for private and cluster (R208). -/
def Warp.addr (w : Warp) (sp : Space) (a : Nat) (imm : Int) (l : Nat) : Nat :=
  match sp with
  | .glob => wrapI ((w.rd64 a l).toNat + imm) 64
  | _ => wrapI ((w.rd a l).toNat + imm) 32

/-- The active lanes with their addresses. -/
def Ctx.addrs (c : Ctx) (sp : Space) (a : Reg) (imm : Int) : List (Nat × Nat) :=
  (lanes.filter (bitOf c.act)).map (fun l => (l, c.w.addr sp a.toNat imm l))

/-- The address register of an access: a pair for global (R174). -/
def addrSrc (sp : Space) (a : Reg) : Src := srcA a (if sp = .glob then 2 else 1)

/-- The registers an access of some bytes names. -/
def wordsOf (n : Nat) : Nat := (n + 3) / 4

/-- Whether a location stands in a FIFO bank (R179). -/
def State.isFifo (s : State) (loc : Nat) : Bool := isBank loc && decide ((s.bank (bankOfLoc loc)).mode = 2)

/-- How many of some locations stand in a bank. -/
def bankCount (locs : List (Nat × Nat × Nat)) (b : Nat) : Nat :=
  (locs.filter (fun e => isBank e.2.1 && decide (bankOfLoc e.2.1 = b))).length

/-! ## Loads (R190, R191, R204, R208, R209) -/

/-- The outstanding load of some lanes. -/
def Ctx.laneLoads (c : Ctx) (sp : Space) (a : Reg) (imm : Int) (dst : Nat) (n : Nat) (signed : Bool)
    (locs : List (Nat × Nat × Nat)) : List LaneLoad :=
  locs.map (fun e => { lane := e.1, slots := (span dst (wordsOf n)).map (fun r => c.w.slot r e.1), loc := e.2.1, bytes := n,
                       signed := signed, addr := c.w.addr sp a.toNat imm e.1, attr := e.2.2 })

/-- The location of the 16-byte place of entry k of a FIFO bank, counted from the oldest: the entries go round the bank's 8,192 places
(R179). -/
def State.fifoPlace (s : State) (b k : Nat) : Nat := 2 ^ 56 + b * 2 ^ 17 + 16 * (((s.bank b).head + k) % 8192)

/-- Pop one entry of a FIFO bank for each lane that stands in one, in ascending lane order (R179); it is poisoned if its sector is (R191,
R441). -/
def State.popLanes (s : State) : List LaneLoad → List LaneLoad × State
  | [] => ([], s)
  | l :: rest =>
    if s.isFifo l.loc then
      let n := bankOfLoc l.loc
      let b := s.bank n
      let bad := s.poisonAt (s.fifoPlace n 0) 16
      let s := s.setBank n { b with fifo := b.fifo.drop 1, head := (b.head + 1) % 8192 }
      let r := s.popLanes rest
      ({ l with value := some (loadWords (b.fifo.getD 0 []) false), bad := bad } :: r.1, r.2)
    else let r := s.popLanes rest; (l :: r.1, r.2)

/-- Whether every FIFO bank some lanes stand in holds enough entries for all of them. -/
def State.fifoReady (s : State) (locs : List (Nat × Nat × Nat)) : Bool :=
  locs.all (fun e => !s.isFifo e.2.1 || decide (bankCount locs (bankOfLoc e.2.1) ≤ (s.bank (bankOfLoc e.2.1)).fifo.length))

/-- The passes of a private access: the most distinct words its lanes address in one of the 32 banks (R204). -/
def passes (n : Nat) (lns : List (Nat × Nat)) : Nat :=
  let ws := dedup (lns.flatMap (fun e => (List.range (wordsOf n)).map (fun i => e.2 / 4 + i)))
  maxNat ((List.range 32).map (fun b => (ws.filter (fun x => decide (x % 32 = b))).length))

/-- The landing-buffer entries of a private load in a window: the values and poison read now, due at a window cycle
(R190, R388). -/
def State.windowLoad (s : State) (c : Ctx) (loads : List LaneLoad) (words due : Nat) : State :=
  let got := loads.map (fun l => (l, loadWords (s.bytesAt 0 l.loc l.bytes) l.signed, s.poisonAt l.loc l.bytes))
  let bad := (got.filter (fun e => e.2.2)).map (fun e => e.1)
  let s := bad.foldl (fun (a : State × List Nat) l =>
    if a.2.contains (l.loc / 64) then a else (a.1.logPoison 2 c.g l.loc l.addr 0, l.loc / 64 :: a.2)) (s, []) |>.1
  let entries := (List.range words).flatMap (fun i =>
    (dedup (loads.map (fun l => l.slots.getD i 0))).map (fun sl =>
      let mine := got.filter (fun e => decide (e.1.slots.getD i 0 = sl))
      let at? := fun l => mine.find? (fun e => decide (e.1.lane = l))
      (⟨sl, maskOf (fun l => (at? l).isSome),
        laneBuild (fun l => match at? l with | some e => if e.2.2 then 0 else e.2.1.getD i 0 | none => 0), .general,
        maskOf (fun l => match at? l with | some e => e.2.2 | none => false), due⟩ : Landing)))
  s.modWarp c.id (fun w => { w with landing := w.landing ++ entries })

/-- Deliver the result of a load: a private one at once, or through the landing buffer of a window; any other stays
outstanding until it lands (R190). -/
def State.deliver (s : State) (c : Ctx) (sp : Space) (n : Nat) (p : Pending) : State :=
  match sp with
  | .priv =>
    if c.w.inWindow then
      s.windowLoad c p.loads (wordsOf n) (c.wc + c.lat 8 10 + (passes n (p.loads.map (fun l => (l.lane, l.addr))) - 1))
    else s.landPending c.id p
  | _ => if p.loads.isEmpty then s else s.modWarp c.id (fun w => { w with pend := w.pend ++ [p] })

/-- Whether an access of a warp meets an element that an `SST` of it has supplied and the generator has not yet handed on. -/
def Ctx.meetsSupplied (c : Ctx) (n : Nat) (locs : List (Nat × Nat × Nat)) : Bool :=
  c.g.streams.any (fun e => decide (e.2.owner = c.id) && e.2.supplied.any (fun x => locs.any (fun l => overlaps l.2.1 n x.loc x.bytes.length)))

/-- A private access to a barrier word follows the warp's own updates of it (R189, R260). -/
def State.settleOver (s : State) (c : Ctx) (n : Nat) (locs : List (Nat × Nat × Nat)) : State :=
  if c.g.barPend.any (fun u => decide (u.warp = c.id) &&
      locs.any (fun e => overlaps e.2.1 n (barLoc c.w.wg c.g u.bar) 8)) then s.settleBars c.w.wg c.id else s

/-- Whether an access of a warp has to wait before it is checked: a bank it addresses is switching, so that it is to be checked
under the bank's new state (R205). -/
def State.bankHeld (s : State) (core : Nat) (sp : Space) (lns : List (Nat × Nat)) : Bool :=
  decide (sp = .clus) && lns.any (fun e => (s.bank (coreCluster core * 256 + e.2 / 2 ^ 17 % 256)).switching.isEmpty = false)

/-- LD: load (R208). A load of bytes that the warp has supplied to a store stream waits until they are on their way (R189, R197). -/
def execLd (h : Hdr) (sp : Space) (k : LdKind) (dst a : Reg) (imm : BitVec 16) (s : State) : Out :=
  let n := ldBytes k
  issue h { srcs := [addrSrc sp a], dsts := [(dst.toNat, wordsOf n)], window := decide (sp = .priv) } s fun c s =>
    if s.bankHeld c.g.core sp (c.addrs sp a imm.toInt) then .wait .bank s else
    let r := checkLanes s c.g c.w.wg (spCode sp) n n (decide (k = .w128)) .load true (c.addrs sp a imm.toInt)
    match r.1 with
    | .bad x => .trap x r.2
    | .ok locs =>
      if !r.2.fifoReady locs then .wait .queue s
      else if c.meetsSupplied n locs then .wait .stream s
      else
        let p := (r.2.settleOver c n locs).popLanes (c.laneLoads sp a imm.toInt dst.toNat n (decide (k = .si8 ∨ k = .si16)) locs)
        .done none (p.2.deliver c sp n { loads := p.1 })

/-- LDA: asynchronous load with a token (R209). -/
def execLda (h : Hdr) (sp : Space) (w : Width) (dst a tok : Reg) (s : State) : Out :=
  let n := widthBytes w
  issue h { srcs := [addrSrc sp a], dsts := [(dst.toNat, wordsOf n), (tok.toNat, 1)], window := false } s fun c s =>
    if s.bankHeld c.g.core sp (c.addrs sp a 0) then .wait .bank s else
    let r := checkLanes s c.g c.w.wg (spCode sp) n n (decide (w = .w128)) .load true (c.addrs sp a 0)
    match r.1 with
    | .bad x => .trap x r.2
    | .ok locs =>
      if !r.2.fifoReady locs then .wait .queue s
      else if c.meetsSupplied n locs then .wait .stream s
      else
        let p := (r.2.settleOver c n locs).popLanes (c.laneLoads sp a 0 dst.toNat n false locs)
        let t := locs.map (fun e => (e.1, c.w.slot tok.toNat e.1))
        .done none (if p.1.isEmpty then p.2
          else p.2.modWarp c.id (fun w => { w with pend := w.pend ++ [{ loads := p.1, token := some t }] }))

/-! ## Stores (R189, R215, R221) -/

/-- The bytes of some consecutive registers in a lane, lowest register first, cut to n. -/
def Warp.storeBytes (w : Warp) (d n l : Nat) : List Byte :=
  ((span d (wordsOf n)).flatMap (fun r => leBytes 4 (w.rd r l).toNat)).take n

/-- A pending write of a warp: the pieces of one instruction in one line. -/
def Ctx.write (c : Ctx) (key attr : Nat) (pieces : List (Nat × List Byte)) : PendWrite :=
  { warp := c.id, wg := c.w.wg, pieces := pieces, key := key, world := c.g.world, carried := maxNat c.w.versions,
    attr := attr, vdev := c.g.vdev, gen := c.g.gen }

/-- The 16-byte units that pieces of a write cover in part. -/
def partUnits (pieces : List (Nat × List Byte)) : List Nat :=
  (dedup (pieces.flatMap (fun p => (List.range ((p.1 + p.2.length - 1) / 16 + 1 - p.1 / 16)).map (p.1 / 16 + ·)))).filter (fun u =>
    !(List.range 16).all (fun i => pieces.any (fun p => decide (p.1 ≤ 16 * u + i) && decide (16 * u + i < p.1 + p.2.length))))

/-- A unit as a core's write buffer reads it: what its cluster cache holds of it on a non-coherent chiplet, over memory (R182, R218). -/
def State.unitFor (s : State) (core key world u : Nat) : List Byte :=
  let cl := coreCluster core
  let mem := s.unit key u
  if !isPhys (16 * u) || decide ((s.chip (coreChip core)).cls ≠ 2) then mem
  else match (s.linePlace cl (u / 16) world).bind (fun k => Table.find k s.clines) with
    | none => mem
    | some c =>
      let base := match Table.find (ccopyKey cl (u / 4) world) s.ccopies with | some x => x.bytes.drop (u % 4 * 16) | none => mem
      (List.range 16).map (fun i => match Table.find (16 * u + i) c.dirty with | some b => b | none => base.getD i 0)

/-- A write of a protected world that covers units in part: the write buffer reads a unit now, or only when the write is
performed, a free choice (log entry 2, DESIGN CHOICE); a unit read now is written whole, so that a merge of another core in
between is lost. A unit that another write of the core still waits to merge into is read later (R182). -/
def State.readUnits (s : State) (core : Nat) (ws : List PendWrite) (p : PendWrite) : PendWrite × State :=
  if p.key = 0 then (p, s)
  else
    let f := s.takeFree
    let us := (partUnits p.pieces).filter (fun u => !ws.any (fun q => q.meets { p with pieces := [(16 * u, List.replicate 16 0)] }))
    (if Config.freeBit f.1 then { p with snap := us.map (fun u => (u, s.unitFor core p.key p.world u)) } else p, f.2)

/-- Put the pieces of one instruction on their way to their owners, one write for each line (R221). On a non-coherent chiplet each makes a
lookup of the cluster cache, in the order of the lanes (R472). -/
def State.sendPieces (s : State) (c : Ctx) (pieces : List (Nat × Nat × List Byte)) : State :=
  let key := s.keyOf c.g.world
  let batch := if (s.chip (coreChip c.g.core)).cls = 2 then maxNat ((s.core c.g.core).writes.map PendWrite.batch) + 1 else 0
  let ws := (dedup (pieces.map (fun p => p.1 / 256))).map (fun line =>
    let mine := pieces.filter (fun p => decide (p.1 / 256 = line))
    c.write key (match mine with | p :: _ => p.2.1 | [] => 0) (mine.map (fun p => (p.1, p.2.2))))
  ws.foldl (fun s p =>
    let r := s.readUnits c.g.core (s.core c.g.core).writes { p with batch := batch }
    r.2.modCore c.g.core (fun k => { k with writes := k.writes ++ [r.1] })) s

/-- Write the pieces of one instruction: private ones at once, others as pending writes of the core (R218). -/
def State.storePieces (s : State) (c : Ctx) (sp : Space) (pieces : List (Nat × Nat × List Byte)) : State :=
  match sp with
  | .priv => s.putPieces 0 (pieces.map (fun p => (p.1, p.2.2)))
  | _ => if pieces.isEmpty then s else s.sendPieces c pieces

/-- Whether an outstanding load of a warp still reads some bytes. -/
def Warp.loading (w : Warp) (loc n : Nat) : Bool :=
  w.pend.any (fun p => p.loads.any (fun l => l.value.isNone && overlaps l.loc l.bytes loc n))

/-- Push the lanes that stand in FIFO banks, in ascending lane order (R179); a sector whose four places one instruction fills is written
whole (R474). -/
def State.pushLanes (s : State) (pieces : List (Nat × Nat × List Byte)) : State :=
  let r := pieces.foldl (fun (a : State × List (Nat × List Byte)) p => if a.1.isFifo p.1 then
    let n := bankOfLoc p.1
    let b := a.1.bank n
    (a.1.setBank n { b with fifo := b.fifo ++ [p.2.2] }, a.2 ++ [(a.1.fifoPlace n b.fifo.length, p.2.2)]) else a) (s, [])
  (piecesSectors r.2).foldl (fun s x => if coversSector r.2 x then s.setPoison x false else s) r.1

/-- Whether every FIFO bank some lanes stand in has room for all of them. -/
def State.fifoRoom (s : State) (locs : List (Nat × Nat × Nat)) : Bool :=
  locs.all (fun e => !s.isFifo e.2.1
    || decide ((s.bank (bankOfLoc e.2.1)).fifo.length + bankCount locs (bankOfLoc e.2.1) ≤ 8192))

/-- ST: store (R215). A store to bytes that an outstanding load of the warp reads, or that the warp has supplied to a store
stream, follows them (R189, R197). -/
def execSt (h : Hdr) (sp : Space) (k : StKind) (d a : Reg) (imm : BitVec 16) (s : State) : Out :=
  let n := stBytes k
  issue h { srcs := [addrSrc sp a, srcA d (wordsOf n)], window := decide (sp = .priv) } s fun c s =>
    if s.bankHeld c.g.core sp (c.addrs sp a imm.toInt) then .wait .bank s else
    let r := checkLanes s c.g c.w.wg (spCode sp) n n (decide (k = .w128)) .store true (c.addrs sp a imm.toInt)
    match r.1 with
    | .bad x => .trap x r.2
    | .ok locs =>
      if !r.2.fifoRoom locs then .wait .queue s
      else if locs.any (fun e => c.w.loading e.2.1 n) then .wait .landing s
      else if c.meetsSupplied n locs then .wait .stream s
      else
        let ps := locs.map (fun e => (e.2.1, e.2.2, c.w.storeBytes d.toNat n e.1))
        .done none (((r.2.settleOver c n locs).pushLanes ps).storePieces c sp (ps.filter (fun p => !r.2.isFifo p.1)))

/-! ## Line maintenance (R207) -/

/-- The dirty bytes of a line of a cluster cache go home, and the line stays. -/
def State.flushPlace (s : State) (cl place carried : Nat) : State :=
  match Table.find place s.clines with
  | none => s
  | some x => (s.writeBack cl x carried).cleanLine cl place

/-- The dirty bytes that a non-coherent chiplet's cluster cache holds go home (R244; log entry 23, DEDUCED). -/
def State.flushCluster (s : State) (cl carried : Nat) : State :=
  (s.clines.filter (fun e => decide (e.1 / 512 / 256 = cl) && !e.2.dirty.isEmpty)).foldl (fun s e => s.flushPlace cl e.1 carried) s

/-- Write a line's dirty bytes home from core storage and the cluster cache, and keep the line (R207): a peer's Modified
line becomes Exclusive, its Owned line Shared. The version of the write-back goes to the warp, and to the warps
of the cluster whose writes it carries home (R224). -/
def State.flushLine (s : State) (c : Ctx) (line : Nat) : State :=
  let core := c.g.core
  let cl := coreCluster core
  let s := s.performLine core line
  let s := match s.linePlace cl line c.g.world with
    | none => s
    | some place => s.flushPlace cl place (maxNat c.w.versions)
  let clean : Moesi → Moesi := fun m => match m with | .modified => .exclusive | .owned => .shared | m => m
  let s := { s with dir := Table.modify (line * 128 + cl) clean s.dir }
  let wv := (s.line line).wv
  let s := s.modWarp c.id (fun w => { w with wmax := Nat.max w.wmax wv })
  { s with warps := s.warps.map (fun e => (e.1, if e.2.unflushed.contains line && (match Table.find e.2.wg s.wgs with
      | some g => decide (coreCluster g.core = cl)
      | none => false) then { e.2 with wmax := Nat.max e.2.wmax wv, unflushed := e.2.unflushed.filter (· ≠ line) } else e.2)) }

/-- Invalidate a line in core storage and the cluster cache (R207); a peer's holding ends. -/
def State.invalLine (s : State) (c : Ctx) (line : Nat) : State :=
  let core := c.g.core
  let cl := coreCluster core
  let s := (List.range 4).foldl (fun s i => s.dropCopies core (line * 4 + i)) s
  let s := match s.linePlace cl line c.g.world with
    | none => s
    | some place => match Table.find place s.clines with
      | none => s
      | some x =>
        let regs := place / 512 * 64 + x.vdev
        let o := Table.get WayRegs.reset regs s.cways
        State.evict { s with clines := Table.del place s.clines,
                             cways := Table.put WayRegs.reset regs { o with occ := o.occ - 1 } s.cways } cl x
  s.release cl line

/-- Line maintenance (R207): addresses have no alignment, need a load permission, and are checked as loads. -/
def lineOp (h : Hdr) (a : Reg) (imm : BitVec 16) (inval : Bool) (s : State) : Out :=
  issue h { srcs := [srcA a 2], window := false } s fun c s =>
    let r := checkLanes s c.g c.w.wg 2 1 1 false .load true (c.addrs .glob a imm.toInt)
    match r.1 with
    | .bad x => .trap x r.2
    | .ok locs =>
      if locs.any (fun e => c.w.loading (e.2.1 / 256 * 256) 256) then .wait .landing s
      else .done none ((dedup (locs.map (fun e => e.2.1 / 256))).foldl (fun s line =>
        let s := s.flushLine c line; if inval then s.invalLine c line else s) r.2)

/-- FLUSH.G (R207). -/
def execFlushG (h : Hdr) (a : Reg) (imm : BitVec 16) (s : State) : Out := lineOp h a imm false s

/-- INVAL.G (R207). -/
def execInvalG (h : Hdr) (a : Reg) (imm : BitVec 16) (s : State) : Out := lineOp h a imm true s

/-! ## Cluster banks (R176, R205, R206) -/

/-- The bank control register (Table 06.3). -/
def Bank.word (b : Bank) : Word :=
  BitVec.ofNat 32 (b.core.toNat * 2 ^ 26 + b.world.toNat * 2 ^ 16 + b.vdev.toNat * 256 + b.mode.toNat)

/-- Whether a copy names a bank of its cluster, by its number there: as its tile's, or as one that its cluster side reaches, which is any for
an indexed one (R205, R290). -/
def LeatForm.names (form : LeatForm) (r : PatRec) (coords : List Int) (tile b : Nat) : Bool :=
  if form = .g2c then decide (b = tile / 2 ^ 17 % 256)
  else if form = .c2p ∨ form = .p2c then
    let x := r.bounds coords
    r.ind || overlaps x.1 x.2 (b * 2 ^ 17) (2 ^ 17)
  else false

/-- Whether an engine operation that has still to land and arrive names a bank as tile or tensor side (R205, R290). -/
def State.opsOnBank (s : State) (b : Nat) : Bool :=
  s.cores.any (fun e => decide (coreCluster e.1 = b / 256) && e.2.copyQ.any (fun o => o.form.names o.record o.coords o.tile (b % 256)))

/-- Whether an entry that a FIFO bank has yielded has still to land (R205). -/
def State.popsOnBank (s : State) (b : Nat) : Bool :=
  s.warps.any (fun e => e.2.pend.any (fun p => p.loads.any (fun l => l.value.isSome && isBank l.loc && decide (bankOfLoc l.loc = b))))

/-- Whether a spawn bank still holds Millpond entries (R205). -/
def State.bankSpawns (s : State) (b : Nat) : Bool := s.wgs.any (fun e => e.2.pond.any (fun p => decide (p.inBank = some b)))

/-- Write back and empty the cluster cache of a cluster, its holdings of lines ended (R177 step 1). -/
def State.emptyCache (s : State) (cl : Nat) : State :=
  let mine := fun (k : Nat) => decide (k / 512 / 256 = cl)
  let s := (s.clines.filter (fun e => mine e.1)).foldl (fun s e => s.evict cl e.2) s
  let s := (s.dir.filter (fun e => decide (e.1 % 128 = cl))).foldl (fun s e => s.release cl (e.1 / 128)) s
  { s with
    clines := s.clines.filter (fun e => !mine e.1)
    ccopies := s.ccopies.filter (fun e => decide (e.1 / 256 / 2 ^ 50 ≠ cl))
    cways := s.cways.map (fun e => if e.1 / 64 / 256 = cl then (e.1, { e.2 with occ := 0 }) else e) }

/-- Switch a bank (R205): into or out of cache mode the cluster reshapes (R177); 128 KiB zeroed, FIFO emptied, the records of its lines
lost (R239), the new mode and owner set; the switches behind it stay. -/
def State.switchBank (s : State) (b : Nat) (x : BankSwitch) (rest : List BankSwitch) : State :=
  let s := if ((s.bank b).mode = 0) = (x.mode = 0) then s else s.emptyCache (b / 256)
  let loc := 2 ^ 56 + b * 2 ^ 17
  let s := s.clearRange loc (2 ^ 17)
  let s := s.dropRecs (fun e => decide (loc / 256 ≤ e.1) && decide (e.1 < (loc + 2 ^ 17) / 256))
  s.setBank b { mode := x.mode, core := x.core, world := x.world, vdev := x.vdev, switching := rest }

/-- Whether a switching bank may take its new state: what was performed there has landed, no engine operation issued before names it, and
a spawn bank holds no entry (R205). -/
def State.bankReady (s : State) (b : Nat) : Bool :=
  !s.opsOnBank b && !s.popsOnBank b && !(decide ((s.bank b).mode = 3) && s.bankSpawns b)

/-- The check of a waiting access to a bank against the bank's new state (R205). -/
def State.recheck (s : State) (gid loc n : Nat) (wide : Bool) : LaneChk :=
  match Table.find gid s.wgs with
  | some g => checkCluster s g ((loc - 2 ^ 56) % 2 ^ 25) n wide
  | none => .ok loc 0

/-- The accesses of some lanes as Table 06.2 counts them, with what the check says of each: the first cause in the order of R175. -/
def refusal (chk : List (Nat × Nat × LaneChk)) : Option CauseInfo :=
  let best := chk.foldl (fun (b : Option (Nat × Nat)) e => match e.2.2, b with
    | .ok _ _, b => b
    | .bad code sub _, none => some (code, sub)
    | .bad code sub _, some (c, u) => if causeRank code sub < causeRank c u then some (code, sub) else b) none
  best.map (fun b => memCause b.1 b.2 1 (chk.map (fun e => (e.1, e.2.1))) (chk.map (fun e => (e.1, e.2.2))))

/-- The loads of the warps that waited for a bank are checked against its new state: one that is refused raises its cause in its warp, and
writes nothing (R205; log entry 42, DESIGN CHOICE). -/
def State.recheckLoads (s : State) (b : Nat) : State :=
  s.warps.foldl (fun s e => e.2.pend.foldl (fun s p =>
    let mine := p.loads.filter (fun l => l.value.isNone && isBank l.loc && decide (bankOfLoc l.loc = b))
    match refusal (mine.map (fun l => (l.lane, l.addr, s.recheck e.2.wg l.loc l.bytes (decide (l.bytes = 16))))) with
    | none => s
    | some x => (s.modWarp e.1 (fun w => { w with pend := w.pend.filter (· ≠ p) })).raise e.1 x) s) s

/-- The writes of a core that waited for a bank are checked against its new state: one that is refused is dropped, and raises its cause in its
warp, if that has not ended (R205; log entry 42, DESIGN CHOICE). -/
def State.recheckWrites (s : State) (core b : Nat) : State :=
  (s.core core).writes.foldl (fun s p =>
    if !p.pieces.any (fun x => isBank x.1 && decide (bankOfLoc x.1 = b)) then s
    else match refusal (((List.range p.pieces.length).zip p.pieces).map (fun x =>
        (x.1, x.2.1 % 2 ^ 25, s.recheck p.wg x.2.1 x.2.2.length (decide (x.2.2.length = 16))))) with
    | none => s
    | some c => (s.modCore core (fun k => { k with writes := k.writes.filter (· ≠ p) })).raise p.warp c) s

/-- Whether some access that has been issued to a bank has still to be performed there. -/
def State.bankWaits (s : State) (b : Nat) : Bool :=
  s.warps.any (fun e => e.2.pend.any (fun p => p.loads.any (fun l => l.value.isNone && isBank l.loc && decide (bankOfLoc l.loc = b))))
    || s.cores.any (fun e => e.2.writes.any (fun p => p.pieces.any (fun x => isBank x.1 && decide (bankOfLoc x.1 = b))))

/-- A switching bank takes its new state once nothing it waits for is left, and what has waited is performed or refused under that
(R205). -/
def State.endSwitch (s : State) (b : Nat) : State :=
  match (s.bank b).switching with
  | [] => s
  | x :: rest =>
    if !s.bankReady b then s
    else if !s.bankWaits b then s.switchBank b x rest
    else
      let s := (s.switchBank b x rest).recheckLoads b
      s.cores.foldl (fun s e => s.recheckWrites e.1 b) s

/-- A switch begins (R205): from now on what has been issued to the bank and not performed there waits. -/
def State.beginSwitch (s : State) (b : Nat) (x : BankSwitch) : State :=
  s.setBank b { (s.bank b) with switching := (s.bank b).switching ++ [x] }

/-- BANKMODE: set a granted bank's mode (R205). The switch begins when the instruction issues; it completes, and writes the old
mode, once the bank has taken its new state. A switch already under way in the bank comes first. -/
def execBankmode (h : Hdr) (dst a b : Reg) (s : State) : Out :=
  issue h { srcs := [src0 a, src0 b], dsts := [(dst.toNat, 1)], window := false, meld := false } s fun c s =>
    match c.w.bankOp with
    | some (n, old) =>
      let s := s.endSwitch n
      if !(s.bank n).switching.isEmpty then .wait .bank s
      else .done none ((s.modWarp c.id (fun w => { w with bankOp := none })).putAll c dst.toNat old 1)
    | none =>
      let b0 := (c.lane0 a).toNat
      let m := (c.lane0 b).toNat
      let n := coreCluster c.g.core * 256 + b0
      let bank := s.bank n
      if m = 0 ∨ 3 < m then .trap (causeVal 0x02 6 (c.lane0 b)) s
      else if kindBanks (chipKind (coreChip c.g.core)) ≤ b0 then .trap (causeVal 0x11 0 (c.lane0 a)) s
      else if !bank.switching.isEmpty then .wait .bank (s.endSwitch n)
      else if bank.mode = 0 ∨ bank.vdev.toNat ≠ c.g.vdev then .trap (causeVal 0x11 0 (c.lane0 a)) s
      else
        let old : Word := bank.mode.setWidth 32
        let core : BitVec 2 := BitVec.ofNat 2 (c.g.core % 4)
        if bank.mode.toNat = m ∧ (m ≠ 3 ∨ bank.core = core) then .done none (s.putAll c dst.toNat old 1)
        else
          let s := (s.beginSwitch n ⟨BitVec.ofNat 2 m, if m = 3 then core else bank.core, BitVec.ofNat 8 c.g.world,
            BitVec.ofNat 6 c.g.vdev⟩).endSwitch n
          if !(s.bank n).switching.isEmpty then .wait .bank (s.modWarp c.id (fun w => { w with bankOp := some (n, old) }))
          else .done none (s.putAll c dst.toNat old 1)

/-- BANKQ: read bank state (R206). -/
def execBankq (h : Hdr) (dst a b : Reg) (s : State) : Out :=
  issue h { srcs := [src0 a, src0 b], dsts := [(dst.toNat, 1)], window := false, meld := false } s fun c s =>
    let b0 := (c.lane0 a).toNat
    let sel := (c.lane0 b).toNat
    let cl := coreCluster c.g.core
    if 4 < sel then .trap (causeVal 0x02 6 (c.lane0 b)) s
    else if kindBanks (chipKind (cl / 8)) ≤ b0 then .trap (causeVal 0x11 0 (c.lane0 a)) s
    else
      let bank := s.bank (cl * 256 + b0)
      let r := Table.get WayRegs.reset ((cl * 256 + b0) * 64 + c.g.vdev) s.cways
      let v : Word := match sel with
        | 0 => bank.word
        | 1 => if bank.mode = 0 then r.fill.setWidth 32 else 0
        | 2 => if bank.mode = 0 then BitVec.ofNat 32 r.occ else 0
        | 3 => if bank.mode = 0 then r.hits else 0
        | _ => if bank.mode = 0 then r.misses else 0
      .done none (s.putAll c dst.toNat v (c.lat 30 34))

end Sys2Proof.Machine
end

