-- ==== Sys2Proof/Machine/Stream.lean ====
section
/-! DEFINITION. Streams: opening, taking and supplying elements, status, and the address generator (R192 to R201, R210 to
R214, R474, R481). -/

namespace Sys2Proof.Machine

/-- Cause 0x40: a slot misused (R196). -/
def slotCause (n : BitVec 3) : CauseInfo := causeVal 0x40 0 (n.setWidth 32)

/-- Change a stream slot of a workgroup. -/
def State.setStream (s : State) (gid n : Nat) (x : Stream) : State :=
  s.modWg gid (fun g => { g with streams := Table.ins n x g.streams })

/-- A stream slot of a workgroup. -/
def State.stream (s : State) (gid n : Nat) : Option Stream :=
  match Table.find gid s.wgs with | some g => Table.find n g.streams | none => none

/-- The widths an element size takes (R196). -/
def widthFits (w : Width) (lsize : Nat) : Bool :=
  match w with | .w32 => decide (lsize ≤ 2) | .w64 => decide (lsize = 3) | .w128 => decide (lsize = 4)

/-- A slot that a warp may take from or supply to: open, its own, of the kind, of the width (R196). -/
def usable (x : Option Stream) (id : Nat) (store : Bool) (w : Width) : Option Stream :=
  match x with
  | some x => if x.opened && decide (x.owner = id) && (x.store == store) && widthFits w x.record.lsize then some x else none
  | none => none

/-- Who resolves the elements of a stream. -/
def State.streamResolver (s : State) (gid : Nat) (g : Wg) (x : Stream) : Resolver :=
  let pv := match Table.find x.owner s.warps with | some w => w.versions | none => []
  ⟨gid, g, ⟨g.core, pv, g.world, g.vdev⟩, true, false⟩

/-! ## The address generator (R196 to R200) -/

/-- What a stream holds once it has resolved an entry: that resolution, with its earlier ones of the same entry; the hold of another entry ends
(R301). -/
def Stream.holding (x : Stream) (v : Nat × Nat × Nat) : List (Nat × Nat × Nat) :=
  x.holds.filter (fun e => decide (e.1 = v.1) && decide (e ≠ v)) ++ [v]

/-- Form the next element of a load stream, where it can form one: its data queue has room, and the sector it lies in is asked for
already or its address queue of 128 sector requests has room (R197). -/
def State.formLoad (s : State) (gid n : Nat) (g : Wg) (x : Stream) : Option State :=
  if !x.opened || x.fault.isSome || decide (x.total ≤ x.formed) || decide (2048 < (x.queue.length + 1) * x.record.size)
    then none
  else
    let r := s.resolveElem (s.streamResolver gid g x) x.record x.coords x.formed .load
    let zeros : List Byte := List.replicate x.record.size 0
    let asked := dedup ((x.queue.filter (fun e => !e.ready)).filterMap (fun e => e.loc.map (· / 64)))
    let put := fun (e : StreamElem) (holds : List (Nat × Nat × Nat)) =>
      some (r.2.setStream gid n { x with formed := x.formed + 1, queue := x.queue ++ [e], holds := holds })
    match r.1 with
    | .clip => put ⟨none, 0, 0, true, zeros, false, 0⟩ x.holds
    | .ok loc attr addr via =>
      if 128 ≤ asked.length && !asked.contains (loc / 64) then none
      else put ⟨some loc, addr, attr, false, zeros, false, 0⟩ (match via with | some v => x.holding v | none => x.holds)
    | .lost loc addr => put ⟨some loc, addr, 0, true, zeros, true, 0⟩ x.holds
    | .bad code sub lo hi => some (r.2.setStream gid n { x with fault := some (code, sub, lo, hi) })
    | .hold => none

/-- The write of a supplied element, where it may be handed to the memory path now: a block-table entry is resolved again and
waits for its D (R300). An accepted element never faults (R200): where the entry has been shared since, the element goes to the block
that the entry maps now, and where it has been freed, nowhere (log entry 38, DESIGN CHOICE). -/
def State.suppliedWrite (s : State) (gid : Nat) (g : Wg) (x : Stream) (e : Supplied) : Option PendWrite :=
  let q := s.streamResolver gid g x
  let out := fun loc => some ({ warp := x.owner, wg := gid, pieces := [(loc, e.bytes)], key := s.keyOf g.world, world := g.world,
                                carried := e.carried, whole := e.whole, attr := e.attr, vdev := g.vdev, gen := g.gen, stream := true } : PendWrite)
  if x.record.block then
    match (s.resolveElem q x.record x.coords e.index .store).1 with
    | .hold => none
    | .ok loc _ _ _ => out loc
    | _ => match (s.resolveElem q x.record x.coords e.index .load).1 with
      | .ok loc _ _ _ => out loc
      | _ => (out 0).map (fun p => { p with pieces := [] })
  else out e.loc

/-- Whether something that the warp issued before a supplied element, and that touches its bytes, keeps the element from the memory path: an
outstanding load, or an element supplied before it to another stream (R189). -/
def State.suppliedBehind (s : State) (g : Wg) (x : Stream) (e : Supplied) : Bool :=
  (match Table.find x.owner s.warps with | some w => w.loading e.loc e.bytes.length | none => false)
    || g.streams.any (fun y => decide (y.2.owner = x.owner) && y.2.supplied.any (fun z =>
      decide (z.order < e.order) && overlaps z.loc z.bytes.length e.loc e.bytes.length))

/-- Take the next supplied element of a store stream and hand its store to the memory path. -/
def State.formStore (s : State) (gid n : Nat) (g : Wg) (x : Stream) : Option State :=
  match x.supplied with
  | [] => none
  | e :: rest =>
    if s.suppliedBehind g x e then none
    else match s.suppliedWrite gid g x e with
    | none => none
    | some p => some ((s.modCore g.core (fun c => { c with writes := c.writes ++ [p] })).setStream gid n { x with supplied := rest })

/-- Form one element of a stream, where it can form one. -/
def State.formOne (s : State) (gid n : Nat) : Option State :=
  match Table.find gid s.wgs with
  | none => none
  | some g => match Table.find n g.streams with
    | none => none
    | some x => if x.store then s.formStore gid n g x else if g.status = .running then s.formLoad gid n g x else none

/-- STREAM_ELEMENT_FORM: the address generator of a core serves the first stream after the one it served last that can form
an element (R196). -/
def execStreamElementForm (core : Nat) (s : State) : Out :=
  let c := s.core core
  let k := c.ring.length
  let order := (List.range k).map (fun i => (c.ringPos + i) % k)
  match order.findSome? (fun i => match c.ring[i]? with
      | some (gid, n) => (s.formOne gid n).map (fun s' => (i, s'))
      | none => none) with
  | none => .next s
  | some (i, s') => .next (s'.modCore core (fun c => { c with ringPos := i + 1 }))

/-- The first element of a data queue whose data are still due. -/
def firstDue (q : List StreamElem) : Option Nat := q.findIdx? (fun e => !e.ready)

/-- Whether an element that a load stream reads meets one that its warp has supplied to a store stream and that is still to be handed on:
the stream waits for it, for it is a store of its `SST` (R197). -/
def State.readBehind (g : Wg) (x : Stream) (loc : Nat) : Bool :=
  g.streams.any (fun y => decide (y.2.owner = x.owner) && y.2.supplied.any (fun z => overlaps z.loc z.bytes.length loc x.record.size))

/-- STREAM_DATA_RETURN: the data of a load stream's oldest outstanding element return (R197). -/
def execStreamDataReturn (gid n : Nat) (s : State) : Out :=
  match Table.find gid s.wgs, s.stream gid n with
  | some g, some x => match firstDue x.queue with
    | none => .next s
    | some i => match x.queue[i]? with
      | none => .next s
      | some e =>
        if State.readBehind g x (e.loc.getD 0) then .next s
        else
        let r := s.hostSide (e.loc.getD 0) x.record.size (s.coreRead (s.streamResolver gid g x).asker (e.loc.getD 0) x.record.size e.attr true)
        let s := r.2.sawWrites g.core x.owner (e.loc.getD 0) x.record.size
        .next (s.setStream gid n { x with queue := listSet i { e with
          ready := true, bytes := r.1.bytes, poison := r.1.poison, wv := r.1.wv } x.queue })
  | _, _ => .next s

/-! ## Instructions -/

/-- SOPEN: open a stream (R212). An open slot comes before anything its record raises (log entry 46, DESIGN CHOICE). -/
def sopen (h : Hdr) (slot : BitVec 3) (rec coord : Reg) (store : Bool) (s : State) : Out :=
  issue h { srcs := [src0 rec, src0 coord 4], window := false, meld := false } s fun c s =>
    let n := slot.toNat
    if (Table.find n c.g.streams).any Stream.opened then .trap (slotCause slot) s
    else
      let b := s.readRecord c.w.wg c.g (c.lane0 rec)
      match b.1 with
      | .error x => .trap x b.2
      | .ok bs =>
        let ws := recWords bs
        let r := recOf ws
        match recFails ws c.g.world false with
        | some f => .trap (recCause f) b.2
        | none =>
          if r.block && (b.2.btFor c.g (bits r.index 15 0)).isNone then
            .trap (causeLanes 0x19 0 (fun _ => 0) (fun _ => BitVec.ofNat 32 (2 ^ 31 + bits r.index 15 0))) b.2
          else
            let coords := (span coord.toNat 4).map (fun n => (c.w.rd n 0).toInt)
            let x : Stream := { opened := true, store := store, owner := c.id, record := r, coords := coords, total := r.count,
                                seq := b.2.opSeq }
            .done none (({ b.2 with opSeq := b.2.opSeq + 1 }.setStream c.w.wg n x).modCore c.g.core (fun k =>
              { k with ring := k.ring.filter (· ≠ (c.w.wg, n)) ++ [(c.w.wg, n)] }))

/-- SOPEN.LD (R212). -/
def execSopenLd (h : Hdr) (slot : BitVec 3) (rec coord : Reg) (s : State) : Out := sopen h slot rec coord false s

/-- SOPEN.ST (R212). -/
def execSopenSt (h : Hdr) (slot : BitVec 3) (rec coord : Reg) (s : State) : Out := sopen h slot rec coord true s

/-- Close a stream: undelivered data and holds go, supplied elements become pending writes, the generator's ring loses it;
none where a supplied element still waits for its block-table entry (R201, R210). -/
def State.closeStream (s : State) (gid n : Nat) : Option State :=
  match Table.find gid s.wgs with
  | none => some s
  | some g => match Table.find n g.streams with
    | none => some s
    | some x =>
      let ws := x.supplied.map (s.suppliedWrite gid g x)
      if ws.any Option.isNone then none
      else
        let s := s.modCore g.core (fun c => { c.dropRing (fun e => decide (e = (gid, n))) with writes := c.writes ++ ws.filterMap id })
        some (s.setStream gid n { x with opened := false, queue := [], supplied := [], holds := [], fault := none, logged := [] })

/-- SCLOSE (R210). -/
def execSclose (h : Hdr) (slot : BitVec 3) (s : State) : Out :=
  issue h { window := false, meld := false } s fun c s =>
    match Table.find slot.toNat c.g.streams with
    | none => .done none s
    | some x =>
      if !x.opened then .done none s
      else if x.owner ≠ c.id then .trap (slotCause slot) s
      else match s.closeStream c.w.wg slot.toNat with
        | some s => .done none s
        | none => .wait .stream s

/-- The faults of elements from one on that lanes of an `SLD` or `SST` meet: lane, cause, subcode, trap value words. -/
abbrev LaneFaults := List (Nat × Nat × Nat × Word × Word)

/-- The cause that lane faults raise: the first in the order of R175; each lane that met that cause carries its trap value,
the lane flag among it, and the other faulting lanes carry theirs without the flag. -/
def faultsCause (f : LaneFaults) : Option CauseInfo :=
  let best := f.foldl (fun (b : Option (Nat × Nat)) e => match b with
    | none => some (e.2.1, e.2.2.1)
    | some (c, u) => if causeRank e.2.1 e.2.2.1 < causeRank c u then some (e.2.1, e.2.2.1) else b) none
  best.map (fun b => causeLanes b.1 b.2
    (fun l => match f.find? (fun e => decide (e.1 = l)) with | some e => e.2.2.2.1 | none => 0)
    (fun l => match f.find? (fun e => decide (e.1 = l)) with
      | some e => if e.2.1 = b.1 ∧ e.2.2.1 = b.2 then e.2.2.2.2 else e.2.2.2.2 &&& 0x7FFFFFFF#32
      | none => 0))

/-- Resolve elements one after another for lanes; the faults met, and the others with what they resolved to. -/
def State.resolveLanes (s : State) (q : Resolver) (x : Stream) (acc : AccessKind) :
    List (Nat × Nat) → LaneFaults × List (Nat × Nat × ElemAt) × State
  | [] => ([], [], s)
  | (l, k) :: rest =>
    let r := s.resolveElem q x.record x.coords k acc
    let t := r.2.resolveLanes q x acc rest
    match r.1 with
    | .bad code sub lo hi => ((l, code, sub, lo, hi) :: t.1, t.2)
    | e => (t.1, (l, k, e) :: t.2.1, t.2.2)

/-- Substitute zero for a poisoned element: the counter, the sticky bit, and one log entry for each sector (R199, R481). The counter
stays at its largest value (log entry 39, DESIGN CHOICE). -/
def State.substitute (s : State) (gid n : Nat) (g : Wg) (e : StreamElem) : State :=
  match s.stream gid n with
  | none => s
  | some x =>
    let loc := e.loc.getD 0
    let s := if x.logged.contains (loc / 64) then s else s.logPoison 5 g loc (x.record.met loc e.addr) 0
    s.setStream gid n { x with poisoned := true, poisonCount := Nat.min (2 ^ 32 - 1) (x.poisonCount + 1),
                               logged := if x.logged.contains (loc / 64) then x.logged else loc / 64 :: x.logged }

/-- Log a sector whose poison a stream marks, once for the stream (R191, R484). -/
def State.markPoison (s : State) (gid n : Nat) (g : Wg) (e : StreamElem) : State :=
  match s.stream gid n with
  | none => s
  | some x =>
    let loc := e.loc.getD 0
    if x.logged.contains (loc / 64) then s
    else (s.logPoison 2 g loc (x.record.met loc e.addr) 0).setStream gid n { x with logged := loc / 64 :: x.logged }

/-- Deliver one element to a lane: zero for one substituted, a mark for a poisoned one, its words else (R191, R199, R211);
its version raises `ov` (R222). A poisoned element under p2z counts as substituted whatever the activity of its lane (log entry 40, DESIGN
CHOICE). -/
def State.deliverElem (s : State) (c : Ctx) (n : Nat) (p2z : Bool) (dst words : Nat) (l : Nat) (e : Option StreamElem) : State :=
  let act := bitOf c.act l
  let write := fun (s : State) (ws : List Word) (bad : Bool) =>
    if act then s.modWarp c.id (fun w =>
      ((span dst words).zip ws).foldl (fun w p => w.setLane (c.w.slot p.1 l) l p.2 bad) w) else s
  match e with
  | none => write s (List.replicate words 0) false
  | some e =>
    let ws := loadWords e.bytes false
    let s := s.modWarp c.id (fun w => { w with ov := Nat.max w.ov e.wv })
    if !e.poison then write s ws false
    else if p2z then write (s.substitute c.w.wg n c.g e) (List.replicate words 0) false
    else if act then write (s.markPoison c.w.wg n c.g e) (List.replicate words 0) true
    else s

/-- SLD: take elements from a load stream (R211). A try in a cycle of its core in which the generator waits for an index entry adds 1 to the
stall counter (R198); a faulting element raises whatever the activity of its lane (R200; log entry 40, DESIGN CHOICE). -/
def execSld (h : Hdr) (w : Width) (dst : Reg) (slot : BitVec 3) (s : State) : Out :=
  let words := widthBytes w / 4
  issue h { dsts := [(dst.toNat, words)], window := false, meld := false } s fun c s =>
    let n := slot.toNat
    match usable (Table.find n c.g.streams) c.id false w with
    | none => .trap (slotCause slot) s
    | some x =>
      let k := Nat.min 32 (x.total - x.done)
      let q := s.streamResolver c.w.wg c.g x
      let m := x.queue.length
      if m < k then
        match x.fault with
        | some f =>
          let r := s.resolveLanes q x .load ((List.range (k - m - 1)).map (fun i => (m + 1 + i, x.done + m + 1 + i)))
          match faultsCause ((m, f) :: r.1) with
          | some cz => .trap cz (r.2.2.setStream c.w.wg n { x with fault := none })
          | none => .wait .stream s
        | none =>
          match (s.resolveElem q x.record x.coords x.formed .load).1 with
          | .hold =>
            .wait .stream (s.setStream c.w.wg n { x with stallCount := Nat.min (2 ^ 32 - 1) (x.stallCount + 1) })
          | _ => .wait .stream s
      else if (x.queue.take k).any (fun e => !e.ready) then .wait .stream s
      else
        let s := lanes.foldl (fun s l => s.deliverElem c n x.record.p2z dst.toNat words l
          (if l < k then x.queue[l]? else none)) s
        .done none (match s.stream c.w.wg n with
          | some y => s.setStream c.w.wg n { y with done := x.done + k, queue := x.queue.drop k }
          | none => s)

/-- The elements that lanes of an `SST` supply: their locations and bytes, each marked when it completes a sector that the
instruction writes whole (R474), and placed behind those that the workgroup's streams still hold (R189). -/
def suppliedOf (c : Ctx) (a : Reg) (size : Nat) (es : List (Nat × Nat × ElemAt)) : List Supplied :=
  let order := maxNat (c.g.streams.flatMap (fun e => e.2.supplied.map Supplied.order)) + 1
  let got := es.filterMap (fun e => match e.2.2 with
    | .ok loc attr _ _ => some (e.2.1, loc, attr, c.w.storeBytes a.toNat size e.1)
    | _ => none)
  let ps := got.map (fun e => (e.2.1, e.2.2.2))
  (List.range got.length).filterMap (fun i => match got[i]? with
    | some (k, loc, attr, bs) => some ⟨k, loc, attr, bs,
        coversSector ps (loc / 64) && !(got.drop (i + 1)).any (fun e => decide (e.2.1 / 64 = loc / 64)), maxNat c.w.versions, order⟩
    | none => none)

/-- The block-table entry an element was resolved through. -/
def ElemAt.via : ElemAt → Option (Nat × Nat × Nat)
  | .ok _ _ _ v => v
  | _ => none

/-- SST: give elements to a store stream (R213). -/
def execSst (h : Hdr) (w : Width) (slot : BitVec 3) (a : Reg) (s : State) : Out :=
  issue h { srcs := [srcA a (widthBytes w / 4)], window := false, meld := false } s fun c s =>
    let n := slot.toNat
    match usable (Table.find n c.g.streams) c.id true w with
    | none => .trap (slotCause slot) s
    | some x =>
      if 2048 < (x.supplied.length + 32) * x.record.size then .wait .stream s
      else
        let mine := (lanes.filter (fun l => bitOf c.act l && decide (x.done + l < x.total))).map (fun l => (l, x.done + l))
        let r := s.resolveLanes (s.streamResolver c.w.wg c.g x) x .store mine
        let lost : LaneFaults := r.2.1.filterMap (fun e => match e.2.2 with
          | .lost _ addr => some (e.1, 0x28, 1, BitVec.ofNat 32 addr, BitVec.ofNat 32 (2 ^ 31 +
              (if x.record.ispace then 0 else 2 ^ 30 + addr / 2 ^ 32)))
          | _ => none)
        match faultsCause (r.1 ++ lost) with
        | some cz => .trap cz r.2.2
        | none =>
          if r.2.1.any (fun e => decide (e.2.2 = .hold)) then .wait .stream s
          else
            let via := r.2.1.filterMap (fun e => e.2.2.via)
            .done none (r.2.2.setStream c.w.wg n { x with
              done := Nat.min x.total (x.done + 32), formed := Nat.min x.total (x.done + 32),
              supplied := x.supplied ++ suppliedOf c a x.record.size r.2.1,
              holds := via.foldl (fun h v => Stream.holding { x with holds := h } v) x.holds })

/-- The stream status word (Table 06.10). -/
def Stream.status (x : Stream) : Word :=
  BitVec.ofNat 32 (x.opened.toNat * 2 ^ 31 + x.store.toNat * 2 ^ 30 + (decide (x.total ≤ x.done)).toNat * 2 ^ 29
    + x.poisoned.toNat * 2 ^ 28 + Nat.min 0xFFFFFF (x.total - x.done))

/-- SSTAT and its variants: read a word of a stream (R214). -/
def sstat (h : Hdr) (dst : Reg) (slot : BitVec 3) (f : Stream → Word) (s : State) : Out :=
  issue h { dsts := [(dst.toNat, 1)], window := false, meld := false } s fun c s =>
    match Table.find slot.toNat c.g.streams with
    | none => .trap (slotCause slot) s
    | some x => if x.owner ≠ c.id then .trap (slotCause slot) s else .done none (s.putAll c dst.toNat (f x) (c.lat 4 5))

/-- SSTAT (R214). -/
def execSstat (h : Hdr) (dst : Reg) (slot : BitVec 3) (s : State) : Out := sstat h dst slot Stream.status s

/-- SSTAT.STALL (R198, R214). -/
def execSstatStall (h : Hdr) (dst : Reg) (slot : BitVec 3) (s : State) : Out :=
  sstat h dst slot (fun x => BitVec.ofNat 32 x.stallCount) s

/-- SSTAT.POISON (R199, R214). -/
def execSstatPoison (h : Hdr) (dst : Reg) (slot : BitVec 3) (s : State) : Out :=
  sstat h dst slot (fun x => BitVec.ofNat 32 x.poisonCount) s

end Sys2Proof.Machine
end

