-- ==== Sys2Proof/Machine/Atomics.lean ====
section
/-! DEFINITION. Synchronisation accesses, the scope checker, atomics, reductions and fences (R216 to R254). -/

namespace Sys2Proof.Machine

/-! ## The scope checker (R217, R237 to R239) -/

/-- The identity of a lane of a warp. -/
def partyOf (g : Wg) (w : Warp) (lane : Nat) : Party :=
  ⟨coreHub g.core, coreChip g.core, coreCluster g.core, g.core % 32, w.wg, w.idx, lane, w.group, g.vdev, g.gen, none⟩

/-- Whether two parties are warps of one workgroup, wherever it has stood: a saved workgroup may resume on another core (R388). -/
def sameWg (p q : Party) : Bool := decide (p.chip < 12) && decide (q.chip < 12) && decide (p.wg = q.wg)

/-- The meeting scope of two parties (R217, Table 07.1). Harts of a Kudu share no cluster; parties of two modules meet in their pod.
No access of an agent beyond the package's PCIe interfaces is described, so none meets at host scope. -/
def meeting (p q : Party) : Nat :=
  if p.away ≠ q.away then 9
  else if sameWg p q then (if p.warp ≠ q.warp then 2 else if p.lane ≠ q.lane then 1 else 0)
  else if p.chip ≠ q.chip then (if p.hub = q.hub then 6 else 7)
  else if p.cluster ≠ q.cluster then 5
  else if p.core ≠ q.core then 4
  else if p.wg ≠ q.wg then 3
  else if p.warp ≠ q.warp then 2
  else if p.lane ≠ q.lane then 1
  else 0

/-- Whether a scope is inclusive with a record for a party (R217). -/
def inclusive (r : SyncRec) (scope : Nat) (p : Party) : Bool :=
  let m := meeting r.party p
  decide (m ≤ r.scope) && decide (m ≤ scope)

/-- What the checker decides for the lanes of one access: the lanes that fail with the records they met, and the records
the others leave (R238). -/
def checkScopes (recs : Table SyncRec) (scope : Nat) (party : Nat → Party) :
    List SyncLane → List (Nat × Nat × SyncRec) × Table SyncRec
  | [] => ([], recs)
  | l :: rest =>
    let line := l.loc / 256
    match Table.find line recs with
    | some r =>
      if inclusive r scope (party l.lane) then checkScopes (Table.ins line ⟨scope, party l.lane⟩ recs) scope party rest
      else let t := checkScopes recs scope party rest; ((l.lane, line, r) :: t.1, t.2)
    | none => checkScopes (Table.ins line ⟨scope, party l.lane⟩ recs) scope party rest

/-- The detail word of a class-4 log entry (Table 14.6). -/
def partyDetail (r : SyncRec) : Nat :=
  let p := r.party
  r.scope % 16 + p.core % 32 * 16 + p.group % 4 * 2 ^ 9 + p.warp % 32 * 2 ^ 11 + p.lane % 32 * 2 ^ 16
    + chipIndex p.chip % 8 * 2 ^ 21 + p.hub % 2 * 2 ^ 24

/-- Records that an access has left and that no cluster cache owns stand at the home of their line, first in the slice's table (R237);
those of a bank stand with the bank, and those of a line of another module there. -/
def State.homeRecs (s : State) (lines : List Nat) : State :=
  lines.foldl (fun s line =>
    if 2 ^ 43 ≤ line ∨ s.cacheOwns line = true ∨ (Table.find line s.recs).isNone = true then s else s.recHome line) s

/-- Present a synchronisation access of a party other than a warp to the checker of a line's home: the record it fails against, or
the state with its own record (R237, R238). -/
def State.partyCheck (s : State) (p : Party) (scope pa : Nat) : Except SyncRec State :=
  let line := pa / 256
  let keep := State.homeRecs { s with recs := Table.ins line ⟨scope, p⟩ s.recs } [line]
  match Table.find line s.recs with
  | some r => if inclusive r scope p then .ok keep else .error r
  | none => .ok keep

/-! ## What an access does (Tables 07.2 and 07.5) -/

/-- The value an atomic writes, none when it writes nothing. -/
def AtomOp.apply (op : AtomOp) (n old b cmp : Nat) : Option Nat :=
  let w := 2 ^ (8 * n)
  match op with
  | .add => some ((old + b) % w)
  | .addF32 => some (f32Word .rn ((fv (BitVec.ofNat 32 old)).add .rn (fv (BitVec.ofNat 32 b)))).toNat
  | .minS => some (if sextN old 32 ≤ sextN b 32 then old else b)
  | .minU => some (Nat.min old b)
  | .maxS => some (if sextN old 32 ≤ sextN b 32 then b else old)
  | .maxU => some (Nat.max old b)
  | .and => some (old &&& b)
  | .or => some (old ||| b)
  | .xor => some (old ^^^ b)
  | .exch => some b
  | .cas => if old = cmp then some b else none
  | .inc => some (if b ≤ old then 0 else old + 1)

/-- Whether an access reads for its warp: the versions it reads raise `ov` (R222, R253). -/
def SyncKind.loads : SyncKind → Bool
  | .ldaq | .atom _ | .jwait | .jpoll => true
  | _ => false

/-- Whether poison in the target is a cause (R236, R268). -/
def SyncKind.traps : SyncKind → Bool
  | .atom _ | .jadd | .jwait => true
  | _ => false

/-- The value an access writes, none when it writes nothing. -/
def SyncKind.apply (k : SyncKind) (n old b cmp : Nat) : Option Nat :=
  match k with
  | .strl => some b
  | .atom op => AtomOp.apply op n old b cmp
  | .red op => AtomOp.apply op n old b cmp
  | .jadd => some ((old + b) % 2 ^ 32)
  | _ => none

/-- Whether an access reads and writes in one step at the storage that performs atomics. -/
def SyncKind.rmw : SyncKind → Bool
  | .atom _ | .red _ | .jadd => true
  | _ => false

/-- What performing the lanes of an access gathers: the state, the lane results with the version read, their sector and poison, the
lines met, those of them performed at the home slice, the writes of a store, the highest version given. -/
structure SyncRun where
  s : State
  got : List (Nat × List Nat × Nat × Bool)
  lines : List Nat
  home : List Nat
  writes : List (Nat × List Byte × Nat)
  ver : Nat

/-- The dirty bytes that a non-coherent chiplet's cluster cache holds of a line go home before an access of the cluster is performed
there, which may not run against the warp's own writes (R226; log entry 41, DEDUCED). -/
def State.pushDirty (s : State) (core line world carried : Nat) : State :=
  if (s.chip (coreChip core)).cls ≠ 2 then s
  else match s.linePlace (coreCluster core) line world with
    | none => s
    | some place => match Table.find place s.clines with
      | none => s
      | some x => if x.dirty.isEmpty then s else (s.writeBack (coreCluster core) x carried).cleanLine (coreCluster core) place

/-- Read the bytes of a lane at the storage of the access: an `LDAQ`, `JPOLL` or `JWAIT` at the storage shared at its scope,
anything else at the storage that performs atomics (R233, R250, R252); received bytes beyond a receive tail read as any value (R421). -/
def syncRead (s : State) (id : Nat) (g : Wg) (w : Warp) (r : SyncReq) (l : SyncLane) (touch : Bool) : Found × State :=
  if !isPhys l.loc then
    ({ bytes := s.bytesAt (if isPriv l.loc then 0 else s.keyOf g.world) l.loc r.bytes, poison := s.poisonAt l.loc r.bytes, wv := 0 }, s)
  else
    let a := askerOf g w
    match r.kind with
    | .ldaq | .jwait | .jpoll =>
      if r.scope < 4 then
        let f := s.hostSide l.loc r.bytes (s.coreRead a l.loc r.bytes l.attr touch)
        (f.1, f.2.sawWrites g.core id l.loc r.bytes)
      else
        let s := if r.scope < 5 then s else s.pushDirty g.core (l.loc / 256) g.world a.q
        let f := s.clusterRead a l.loc l.attr (decide (5 ≤ r.scope)) touch
        s.hostSide l.loc r.bytes (f.1.cut l.loc r.bytes, f.2)
    | _ =>
      let f := s.sectorAt g.world l.loc
      s.hostSide l.loc r.bytes (f.cut l.loc r.bytes, s)

/-- The first atomic of an instruction on a line reaches the storage that performs it (R233): the cluster cache of a full peer, once
the directory has granted it the line Modified, or the home slice, which takes the line's ownership back. Answers whether it is the
home. -/
def State.syncGrant (s : State) (g : Wg) (w : Warp) (loc attr : Nat) : Bool × State :=
  let line := loc / 256
  let cl := coreCluster g.core
  if isRemote loc then (true, s)
  else
    let home := fun (s : State) =>
      (true, (((s.pushDirty g.core line g.world (maxNat w.versions)).homeTouch line g.vdev).meetHome g.core line).snoop line)
    if decide ((s.chip (coreChip g.core)).cls = 0) && s.cacheTakes g.core loc attr then
      let r := s.clusterTouch cl line g.world g.vdev attr
      match r.1.2 with
      | some _ => (false, (if r.1.1 then r.2 else (r.2.homeTouch line g.vdev).meetHome g.core line).dirWrite cl line |>.ownBad cl line g.world)
      | none => home r.2
    else home s

/-- Perform one lane (R234, R250): read, write in place with a version of its own, keep the result. A reduction on poison is not
performed and logged (R236). The writes of a store are gathered: its lanes together may write a sector whole (R474). -/
def syncLane (id : Nat) (g : Wg) (w : Warp) (r : SyncReq) (run : SyncRun) (l : SyncLane) : SyncRun :=
  let line := l.loc / 256
  let first := !run.lines.contains line
  let gr := if r.kind.rmw && isPhys l.loc && first then run.s.syncGrant g w l.loc l.attr else (run.home.contains line, run.s)
  let seen := run.lines
  let run := { run with s := gr.2, lines := line :: run.lines, home := if gr.1 then line :: run.home else run.home }
  let s := run.s
  let isRed := match r.kind with | .red _ => true | _ => false
  if s.poisonAt l.loc r.bytes && isRed then
    { run with s := if run.got.any (fun e => decide (e.2.2.1 = l.loc / 64)) then s else s.logPoison 2 g l.loc l.addr 0,
               got := run.got ++ [(l.lane, [], l.loc / 64, true)] }
  else
    let f := syncRead s id g w r l first
    let old := leNat f.1.bytes
    let run := { run with s := f.2, lines := if f.1.looked then run.lines else seen, got := run.got ++ [(l.lane, [old, if r.kind.loads then f.1.wv else 0], l.loc / 64, f.1.poison)] }
    match r.kind.apply r.bytes old l.value l.compare with
    | none => run
    | some x =>
      if !r.kind.rmw then { run with writes := run.writes ++ [(l.loc, leBytes r.bytes x, l.attr)] }
      else
        let key := if isPriv l.loc then 0 else f.2.keyOf g.world
        let o := f.2.ownerWrite g.core key g.world g.vdev (if gr.1 then 1 else l.attr) (maxNat w.versions) [(l.loc, leBytes r.bytes x)] false false
        { run with s := o.2, ver := Nat.max run.ver o.1 }

/-- Make the writes of a store, one for each line (R221, R474). -/
def SyncRun.store (run : SyncRun) (g : Wg) (w : Warp) : SyncRun :=
  (dedup (run.writes.map (fun e => e.1 / 256))).foldl (fun run line =>
    let mine := run.writes.filter (fun e => decide (e.1 / 256 = line))
    let key := if 2 ^ 52 ≤ line then 0 else run.s.keyOf g.world
    let o := run.s.ownerWrite g.core key g.world g.vdev (match mine with | e :: _ => e.2.2 | [] => 0) (maxNat w.versions)
      (mine.map (fun e => (e.1, e.2.1))) false true
    { run with s := o.2, ver := Nat.max run.ver o.1 }) run

/-- Write the results of an access to its destination registers: marked where poison was read (R191, R236, R247); a join's
goes to every lane, tagged uniform (R271). -/
def State.syncResults (s : State) (id : Nat) (r : SyncReq) (got : List (Nat × List Nat × Nat × Bool)) : State :=
  match r.kind with
  | .jpoll => match got, r.lanes with
    | (_, vs, _, bad) :: _, l :: _ =>
      let x : Word := BitVec.ofNat 32 (vs.getD 0 0)
      s.modWarp id (fun w => l.slots.foldl (fun w sl =>
        w.setReg sl (if bad then ⟨.uniform, laneSplat 0, 0xFFFFFFFF#32⟩ else ⟨.uniform, laneSplat x, 0⟩)) w)
    | _, _ => s
  | .ldaq | .atom _ => got.foldl (fun s e =>
      match r.lanes.find? (fun l => decide (l.lane = e.1)) with
      | some l => s.modWarp id (fun w => (l.slots.zip (loadWords (leBytes r.bytes (e.2.1.getD 0 0)) false)).foldl
          (fun w p => w.setLane p.1 e.1 p.2 e.2.2.2) w)
      | none => s) s
  | _ => s

/-- Whether an access acquires when it has read (R252, R269). -/
def SyncKind.acquires : SyncKind → Bool
  | .ldaq | .jwait | .jpoll => true
  | _ => false

/-- Whether an access is a release (R254, R269). -/
def SyncKind.releases : SyncKind → Bool
  | .strl | .jadd => true
  | _ => false

/-- The access of a warp is over: the acquire, where it makes one and its loads have returned, and the next word. -/
def State.endSync (s : State) (c : Ctx) (r : SyncReq) : State :=
  if r.kind.acquires || decide (r.kind = .acq) then
    if (match Table.find c.id s.warps with | some w => w.loaded | none => true) then
      State.finish ((s.acquire c.id c.g r.scope).modWarp c.id (fun w => { w with sync := none })) c none
    else s.modWarp c.id (fun w => { w with sync := some { r with kind := .acq, lanes := [] }, wait := .fence })
  else (s.modWarp c.id (fun w => { w with sync := none })).finish c none

/-- The writes that a line has taken where a `JWAIT` reads it: the version of its latest write, with those that a non-coherent chiplet's
cluster cache has taken since it holds the line, or the count kept for a private or bank line (R280). -/
def State.lineWrites (s : State) (g : Wg) (loc : Nat) : Nat :=
  let line := loc / 256
  if !isPhys loc then Table.get 0 line s.watched
  else
    let here := match (s.linePlace (coreCluster g.core) line g.world).bind (fun k => Table.find k s.clines) with
      | some c => c.writes
      | none => 0
    (s.line line).wv * 2 ^ 64 + here

/-- What a `JWAIT` has seen of its line: its writes, and its poison (R280). -/
def State.lineSeen (s : State) (g : Wg) (r : SyncReq) : Option Nat :=
  match r.lanes with
  | l :: _ => some (s.lineWrites g l.loc * 2 + (s.poisonAt l.loc 4).toNat)
  | [] => none

/-- Count the writes of the line that a `JWAIT` has read, where nothing else does (R280). -/
def State.watchLine (s : State) (r : SyncReq) : State :=
  match r.lanes with
  | l :: _ => if isPhys l.loc || (Table.find (l.loc / 256) s.watched).isSome then s
      else { s with watched := Table.ins (l.loc / 256) 0 s.watched }
  | [] => s

/-- Perform an access whose checks have passed (R233 to R236, R250 to R254, R278 to R280). -/
def State.syncPerform (s : State) (c : Ctx) (r : SyncReq) : State :=
  let w := if r.kind.releases then c.w.release r.scope else c.w
  let s := if r.kind.releases then s.modWarp c.id (fun w => w.release r.scope) else s
  let run := SyncRun.store (r.lanes.foldl (syncLane c.id c.g w r) ⟨s, [], [], [], [], 0⟩) c.g w
  let s := if r.kind.rmw then run.lines.foldl (fun s line =>
      if 2 ^ 48 ≤ line then s else (List.range 4).foldl (fun s i => s.dropCopies c.g.core (line * 4 + i)) s) run.s
    else run.s
  let ov := maxNat (run.got.map (fun e => e.2.1.getD 1 0))
  let kept := decide ((s.chip (coreChip c.g.core)).cls = 2) && decide (r.kind = .strl)
  let s := (s.modWg c.w.wg (fun g => { g with ver := Nat.max g.ver run.ver })).modCore c.g.core (fun k => { k with ver := Nat.max k.ver run.ver })
  let s := s.modWarp c.id (fun w => { w with
    ov := Nat.max w.ov ov, wmax := Nat.max w.wmax run.ver,
    unflushed := if kept then dedup (w.unflushed ++ run.lines.filter (· < 2 ^ 43)) else w.unflushed })
  let bad := run.got.filter (fun e => e.2.2.2)
  let s := if r.kind = .ldaq ∨ r.kind = .jpoll then
      (bad.foldl (fun (a : State × List Nat) e => if a.2.contains e.2.2.1 then a else
        match r.lanes.find? (fun l => decide (l.lane = e.1)) with
        | some l => (a.1.logPoison 2 c.g l.loc l.addr 0, e.2.2.1 :: a.2)
        | none => a) (s, [])).1 else s
  if r.kind = .jwait ∧ (run.got.any (fun e => decide (e.2.1.getD 0 0 ≠ 0))) = true then
    (s.watchLine r).modWarp c.id (fun w => { w with sync := some { r with seen := s.lineSeen c.g r }, wait := .join })
  else (s.syncResults c.id r run.got).endSync c r

/-- The lanes and addresses of an access. -/
def SyncReq.addrs (r : SyncReq) : List (Nat × Nat) := r.lanes.map (fun l => (l.lane, l.addr))

/-- A cause met at some lanes of an access, in the form of Table 06.2. -/
def SyncReq.cause (r : SyncReq) (code sub : Nat) (lns : List Nat) : CauseInfo :=
  memCause code sub r.space r.addrs (r.lanes.map (fun l =>
    (l.lane, if lns.contains l.lane then LaneChk.bad code sub 0 else .ok 0 0)))

/-- The checks made after the scope check: range locks and watchpoints, then a poisoned target (R236, R241, R248, R392). -/
def State.syncLate (s : State) (c : Ctx) (r : SyncReq) : Option CauseInfo :=
  let k := s.core c.g.core
  let writes := !(r.kind = .ldaq || r.kind = .jpoll || r.kind = .jwait)
  let acc : AccessKind := if !writes then .load else if r.kind = .strl then .store else .rmw
  let at57 := fun (l : SyncLane) => if r.space = 2 then l.addr % 2 ^ 57 else l.addr
  let locked := (r.lanes.filter (fun l => rangeHit k.locks r.space (lockOwner c.g c.w.wg r.space) (at57 l) r.bytes writes)).map SyncLane.lane
  let watched := (r.lanes.filter (fun l => watchHit k c.g r.space (at57 l) r.bytes acc)).map SyncLane.lane
  let bad := (r.lanes.filter (fun l => s.poisonAt l.loc r.bytes || s.badHere c.g.core l.loc c.g.world)).map SyncLane.lane
  if !locked.isEmpty then some (r.cause 0x21 0 locked)
  else if !watched.isEmpty then some (r.cause 0x48 2 watched)
  else if r.kind.traps && !bad.isEmpty then some (r.cause 0x28 1 bad)
  else none

/-- Cluster lanes met a bank switch while they waited: they are checked against its new mode (R205). -/
def State.syncBanks (s : State) (g : Wg) (r : SyncReq) : Option CauseInfo :=
  if r.space ≠ 1 then none
  else
    let chk := r.lanes.map (fun l => (l.lane, checkCluster s g l.addr r.bytes false))
    chk.findSome? (fun e => match e.2 with
      | .bad code sub _ => some (memCause code sub 1 r.addrs (chk.map (fun x => (x.1, x.2))))
      | _ => none)

/-- The checker answers a synchronisation access (R238): a scope failure leaves every record as it stood; else the records
are committed, the later checks are made, and the access is performed; a record whose line no cluster cache has come to own stands
at its home (R237). -/
def State.answer (s : State) (c : Ctx) (r : SyncReq) : State :=
  match s.syncBanks c.g r with
  | some x => s.raise c.id x
  | none =>
    let chk := if r.space = 0 then ([], s.recs) else checkScopes s.recs r.scope (partyOf c.g c.w) r.lanes
    if !chk.1.isEmpty then
      let s := (chk.1.foldl (fun (a : State × List Nat) f =>
        if a.2.contains f.2.1 then a
        else
          let l := r.lanes.find? (fun l => decide (l.lane = f.1))
          let addr := match l with | some l => l.addr | none => 0
          let loc := match l with | some l => l.loc | none => 0
          let e := { LogEntry.mk0 4 (coreChip c.g.core) with
            cause := 0x20, gen := c.g.gen, pa := if isPhys loc then loc else 0, va := if isPhys loc then addr % 2 ^ 57 else 0,
            asid := c.g.asid, vdev := c.g.vdev, world := c.g.world, detail := partyDetail f.2.2 }
          (a.1.logEvent (coreHub c.g.core) e, f.2.1 :: a.2)) (s, [])).1
      s.raise c.id (r.cause 0x20 0 (chk.1.map Prod.fst))
    else
      let s := { s with recs := chk.2 }
      State.homeRecs (match s.syncLate c r with
        | some x => s.raise c.id x
        | none => s.syncPerform c r) (if r.space = 0 then [] else dedup (r.lanes.map (fun l => l.loc / 256)))

/-- The sender sends a flit when it is the next in sequence, the replay buffer has room and no equalisation pass runs on the module
whose turn it is (R478). -/
def LinkDir.send (d : LinkDir) (p : Port) (port seq : Nat) (msg : LinkMsg) : LinkDir :=
  if seq = d.sent ∧ d.buffer.length < 128 ∧ p.retrain.getLsbD (seq % p.modules port) = false then
    { d with sent := d.sent + 1, buffer := d.buffer ++ [⟨seq, msg⟩] }
  else d

/-- Send messages in order, each in a flit of its own, as far as the port sends any; answers the messages left. -/
def LinkDir.pour (p : Port) (port : Nat) : LinkDir → List Nat → LinkDir × List Nat
  | d, [] => (d, [])
  | d, m :: ms =>
    let d' := d.send p port d.sent ⟨p.inc, m⟩
    if d'.sent = d.sent then (d, m :: ms) else LinkDir.pour p port d' ms

/-- Whether a location's line stands, or comes to stand, in the cluster cache of a full peer that performs an atomic on it (R178, R233). -/
def State.cacheHolds (s : State) (g : Wg) (loc attr : Nat) : Bool :=
  decide ((s.chip (coreChip g.core)).cls = 0) && s.cacheTakes g.core loc attr
    && (s.clusterTouch (coreCluster g.core) (loc / 256) g.world g.vdev attr).1.2.isSome

/-- The active lanes of an atomic or reduction that are performed at a home slice (R233, R477). -/
def State.homeLanes (s : State) (g : Wg) (r : SyncReq) : List Nat :=
  match r.kind with
  | .atom _ | .red _ =>
    if r.space ≠ 2 then []
    else (r.lanes.filter (fun l => !s.cacheHolds g l.loc l.attr)).map SyncLane.lane
  | _ => []

/-- The request messages of those lanes leave the core in ascending lane order, each in a flit of its own, over the port of its chiplet
while its link is up and sends flits, and have to reach the hub (R438, R477, R478): the state in which the access waits, none when it
need not. -/
def State.askHome (s : State) (id : Nat) (g : Wg) (r : SyncReq) : Option State :=
  let hub := coreHub g.core
  let port := chipPort (coreChip g.core)
  let p := Table.get {} port (s.hub hub).ports
  let msgs := match r.unsent with | some ms => ms | none => (s.homeLanes g r).map (requestMsg id)
  if msgs.isEmpty then
    (if r.unsent.isSome && p.toHub.buffer.any (fun f => (r.lanes.map (fun l => requestMsg id l.lane)).contains f.msg.body) then some s else none)
  else if !p.up then some s
  else
    let sent := LinkDir.pour p port p.toHub msgs
    some ((s.modHub hub (fun h => { h with ports := Table.put {} port { p with toHub := sent.1 } h.ports })).modWarp id
      (fun w => { w with sync := some { r with unsent := some sent.2 } }))

/-- SCOPE_CHECKER_ANSWER: the answer to the access a warp waits on (R238); a `JWAIT` reads again only after a write of its
line (R280); one to a bank that is switching goes on when the switch has ended (R205); one performed at a home slice once its
request messages have arrived (R477); an access whose acquire alone is left ends when its loads have returned. -/
def execScopeCheckerAnswer (id : Nat) (s : State) : Out :=
  match Table.find id s.warps with
  | none => .next s
  | some w => match Table.find w.wg s.wgs, w.sync with
    | some g, some r =>
      if g.status ≠ .running ∧ g.status ≠ .halting then .next s
      else
        let c : Ctx := ⟨id, w, g, w.exm⟩
        if r.kind = .acq then .next (s.endSync c r)
        else if s.bankHeld g.core (if r.space = 1 then .clus else .priv) r.addrs then .next s
        else if r.seen.isSome ∧ r.seen = s.lineSeen g r then .next s
        else match s.askHome id g r with
          | some s => .next s
          | none => .next (s.answer c r)
    | _, _ => .next s

/-! ## Instructions -/

/-- Whether an access has to wait for something issued before it to its bytes: an outstanding load, an element supplied to a store
stream or a pending write of the warp (R189), a pending write of the core that has read a unit of them and writes it whole (R182, R235), a
pending write that the warp has read or acquired (R226, R228), and, at scopes 0 to 3,
every pending write of the core, for it is complete there (R227, R230). -/
def State.syncOrder (s : State) (c : Ctx) (scope n : Nat) (locs : List (Nat × Nat × Nat)) : Bool :=
  c.meetsSupplied n locs || locs.any (fun e => c.w.loading e.2.1 n ||
    (s.core c.g.core).writes.any (fun p => p.snap.any (fun u => overlaps (16 * u.1) 16 e.2.1 n) || (p.touches e.2.1 n &&
      (decide (p.warp = c.id) || p.also.contains c.id || p.seen.contains c.id || decide (scope < 4)))))

/-- Present an access to the checker of its storage; private space is not checked and is performed at once (R237). -/
def State.present (s : State) (c : Ctx) (r : SyncReq) : Res :=
  if r.space = 0 then .over (s.answer c r)
  else .wait .checker (s.modWarp c.id (fun w => { w with sync := some r }))

/-- The lanes of an access at their locations. -/
def Ctx.syncLanes (c : Ctx) (sp : Space) (a : Reg) (n : Nat) (value compare : Nat → Nat) (dst : Option Reg)
    (locs : List (Nat × Nat × Nat)) : List SyncLane :=
  locs.map (fun e => ⟨e.1, e.2.1, c.w.addr sp a.toNat 0 e.1, e.2.2, value e.1, compare e.1,
    match dst with | some d => (span d.toNat (wordsOf n)).map (fun r => c.w.slot r e.1) | none => []⟩)

/-- The unsigned value of a data operand of n bytes in a lane. -/
def Warp.data (w : Warp) (x : Reg) (n l : Nat) : Nat := if n = 8 then (w.rd64 x.toNat l).toNat else (w.rd x.toNat l).toNat

/-- Issue a synchronisation access on the active lanes: the checks of R248 up to the translation, the waits that go before
it, then the checker. -/
def syncOp (h : Hdr) (sc : BitVec 4) (sp : Space) (n : Nat) (kind : SyncKind) (acc : AccessKind) (a : Reg)
    (b dst : Option Reg) (s : State) : Out :=
  let data := fun (x : Option Reg) => match x with | some r => [srcA r (wordsOf n)] | none => []
  let cas := decide (kind = .atom .cas)
  issue h { srcs := addrSrc sp a :: data b ++ (if cas then data dst else []),
            dsts := match dst with | some d => [(d.toNat, wordsOf n)] | none => [],
            window := false, scope := some sc.toNat } s fun c s =>
    if c.w.sync.isSome then .wait c.w.wait s
    else if s.bankHeld c.g.core sp (c.addrs sp a 0) then .wait .bank s
    else
      let r := checkLanes s c.g c.w.wg (spCode sp) n n false acc (decide (sp = .priv)) (c.addrs sp a 0)
      match r.1 with
      | .bad x => .trap x r.2
      | .ok locs =>
        let val := fun (x : Option Reg) l => match x with | some y => c.w.data y n l | none => 0
        let req : SyncReq := { kind := kind, scope := sc.toNat, bytes := n, space := spCode sp,
                               lanes := c.syncLanes sp a n (val b) (if cas then val dst else fun _ => 0) dst locs }
        if s.syncOrder c sc.toNat n locs then .wait .landing s
        else if kind.releases && !s.released c.id c.g c.w sc.toNat then .wait .fence s
        else if req.lanes.isEmpty then
          if kind.acquires && !c.w.loaded then .wait .fence s
          else .over ((if kind.releases then r.2.modWarp c.id (fun w => w.release sc.toNat) else r.2).endSync c req)
        else (r.2.settleOver c n locs).present c req

/-- The bytes of a width bit. -/
def w64Bytes (w64 : Bool) : Nat := if w64 then 8 else 4

/-- LDAQ: load-acquire (R252). -/
def execLdaq (h : Hdr) (sc : BitVec 4) (sp : Space) (w64 : Bool) (dst a : Reg) (s : State) : Out :=
  syncOp h sc sp (w64Bytes w64) .ldaq .load a none (some dst) s

/-- STRL: store-release (R254). -/
def execStrl (h : Hdr) (sc : BitVec 4) (sp : Space) (w64 : Bool) (a b : Reg) (s : State) : Out :=
  syncOp h sc sp (w64Bytes w64) .strl .store a (some b) none s

/-- An atomic (R250). -/
def atomic (h : Hdr) (sc : BitVec 4) (sp : Space) (n : Nat) (op : AtomOp) (dst a b : Reg) (s : State) : Out :=
  syncOp h sc sp n (.atom op) .rmw a (some b) (some dst) s

/-- ATOM.ADD (R250). -/
def execAtomAdd (h : Hdr) (sc : BitVec 4) (sp : Space) (w64 : Bool) (dst a b : Reg) (s : State) : Out :=
  atomic h sc sp (w64Bytes w64) .add dst a b s

/-- ATOM.ADD.F32 (R250). -/
def execAtomAddF32 (h : Hdr) (sc : BitVec 4) (sp : Space) (dst a b : Reg) (s : State) : Out := atomic h sc sp 4 .addF32 dst a b s

/-- ATOM.MIN (R250). -/
def execAtomMin (h : Hdr) (ty : IntTy) (sc : BitVec 4) (sp : Space) (dst a b : Reg) (s : State) : Out :=
  atomic h sc sp 4 (match ty with | .si32 => .minS | .ui32 => .minU) dst a b s

/-- ATOM.MAX (R250). -/
def execAtomMax (h : Hdr) (ty : IntTy) (sc : BitVec 4) (sp : Space) (dst a b : Reg) (s : State) : Out :=
  atomic h sc sp 4 (match ty with | .si32 => .maxS | .ui32 => .maxU) dst a b s

/-- ATOM.AND (R250). -/
def execAtomAnd (h : Hdr) (sc : BitVec 4) (sp : Space) (w64 : Bool) (dst a b : Reg) (s : State) : Out :=
  atomic h sc sp (w64Bytes w64) .and dst a b s

/-- ATOM.OR (R250). -/
def execAtomOr (h : Hdr) (sc : BitVec 4) (sp : Space) (w64 : Bool) (dst a b : Reg) (s : State) : Out :=
  atomic h sc sp (w64Bytes w64) .or dst a b s

/-- ATOM.XOR (R250). -/
def execAtomXor (h : Hdr) (sc : BitVec 4) (sp : Space) (w64 : Bool) (dst a b : Reg) (s : State) : Out :=
  atomic h sc sp (w64Bytes w64) .xor dst a b s

/-- ATOM.EXCH (R250). -/
def execAtomExch (h : Hdr) (sc : BitVec 4) (sp : Space) (w64 : Bool) (dst a b : Reg) (s : State) : Out :=
  atomic h sc sp (w64Bytes w64) .exch dst a b s

/-- ATOM.CAS: dst is the compare operand (R250). -/
def execAtomCas (h : Hdr) (sc : BitVec 4) (sp : Space) (w64 : Bool) (dst a b : Reg) (s : State) : Out :=
  atomic h sc sp (w64Bytes w64) .cas dst a b s

/-- ATOM.INC (R250). -/
def execAtomInc (h : Hdr) (sc : BitVec 4) (sp : Space) (dst a b : Reg) (s : State) : Out := atomic h sc sp 4 .inc dst a b s

/-- A reduction: an atomic's write with no result (R253). -/
def reduction (h : Hdr) (sc : BitVec 4) (sp : Space) (n : Nat) (op : AtomOp) (a b : Reg) (s : State) : Out :=
  syncOp h sc sp n (.red op) .rmw a (some b) none s

/-- RED.ADD (R253). -/
def execRedAdd (h : Hdr) (sc : BitVec 4) (sp : Space) (w64 : Bool) (a b : Reg) (s : State) : Out :=
  reduction h sc sp (w64Bytes w64) .add a b s

/-- RED.ADD.F32 (R253). -/
def execRedAddF32 (h : Hdr) (sc : BitVec 4) (sp : Space) (a b : Reg) (s : State) : Out := reduction h sc sp 4 .addF32 a b s

/-- RED.MIN (R253). -/
def execRedMin (h : Hdr) (ty : IntTy) (sc : BitVec 4) (sp : Space) (a b : Reg) (s : State) : Out :=
  reduction h sc sp 4 (match ty with | .si32 => .minS | .ui32 => .minU) a b s

/-- RED.MAX (R253). -/
def execRedMax (h : Hdr) (ty : IntTy) (sc : BitVec 4) (sp : Space) (a b : Reg) (s : State) : Out :=
  reduction h sc sp 4 (match ty with | .si32 => .maxS | .ui32 => .maxU) a b s

/-- RED.AND (R253). -/
def execRedAnd (h : Hdr) (sc : BitVec 4) (sp : Space) (w64 : Bool) (a b : Reg) (s : State) : Out :=
  reduction h sc sp (w64Bytes w64) .and a b s

/-- RED.OR (R253). -/
def execRedOr (h : Hdr) (sc : BitVec 4) (sp : Space) (w64 : Bool) (a b : Reg) (s : State) : Out :=
  reduction h sc sp (w64Bytes w64) .or a b s

/-- RED.XOR (R253). -/
def execRedXor (h : Hdr) (sc : BitVec 4) (sp : Space) (w64 : Bool) (a b : Reg) (s : State) : Out :=
  reduction h sc sp (w64Bytes w64) .xor a b s

/-- A fence: the waits and the version steps of its parts (R224, R225, R251). -/
def fence (h : Hdr) (sc : BitVec 4) (rel acq : Bool) (s : State) : Out :=
  issue h { window := false, scope := some sc.toNat } s fun c s =>
    if (rel && !s.released c.id c.g c.w sc.toNat) || !c.w.loaded then .wait .fence s
    else
      let s := if rel then s.modWarp c.id (fun w => w.release sc.toNat) else s
      .done none (if acq then s.acquire c.id c.g sc.toNat else s)

/-- FENCE.REL (R224, R251). -/
def execFenceRel (h : Hdr) (sc : BitVec 4) (s : State) : Out := fence h sc true false s

/-- FENCE.ACQ (R225, R251). -/
def execFenceAcq (h : Hdr) (sc : BitVec 4) (s : State) : Out := fence h sc false true s

/-- FENCE.AR: the release, then the acquire (R251). -/
def execFenceAr (h : Hdr) (sc : BitVec 4) (s : State) : Out := fence h sc true true s

end Sys2Proof.Machine
end

