-- ==== Sys2Proof/WellFormed.lean ====
section
/-! DEFINITION. Well-formed instructions: the terms of `Instr` that some instruction word stands for, so that encoding one
and decoding the word gives it back. Every check names the rule of the encoding it comes from: guard fields (R41, R154, R271,
R304, R335, R371, R396), pair and quad registers (R36, R246, R304), rounding modes of the minor maps (R112), the tile-counter
field (R106), special registers and context items (R52, R399), `XRD` and `XWR` numbers (R405), the follow field (R292) and
the scale fields of `SACC` (R337). -/

namespace Sys2Proof

/-- The trap values of a cause stand for 32 lanes, or for 0 in all of them. -/
def CauseInfo.ok (c : CauseInfo) : Bool :=
  (c.tval.isEmpty || decide (c.tval.length = 32)) && (c.tvalh.isEmpty || decide (c.tvalh.length = 32))

/-! ## The numbers that events name (Table 01.1, R427, R433) -/

/-- A hub, or a Saiga. -/
def hubNo (h : Nat) : Bool := decide (h < 2)
/-- A port of a hub. -/
def portNo (p : Nat) : Bool := decide (p < 8)
/-- A chiplet. -/
def chipNo (c : Nat) : Bool := decide (c < 16)
/-- A Vodon core: 24 on each of chiplets 0 to 5, 8 on each of chiplets 6 to 11, 32 numbers a chiplet. -/
def coreNo (n : Nat) : Bool := decide (n < 384) && decide (n % 32 < if n < 192 then 24 else 8)
/-- A hart of the Kudus, 40 each. -/
def hartNo (h : Nat) : Bool := decide (h < 80)

/-- The instruction is one an instruction word stands for; an event, which has no word, names parts that the package has. -/
def Instr.wellFormed : Instr → Bool
  | .abs h _ _ => h.ok .any
  | .add h _ _ _ => h.ok .any
  | .addImm h _ _ _ => h.ok .any
  | .sub h _ _ _ => h.ok .any
  | .addSat h _ _ _ _ => h.ok .any
  | .subSat h _ _ _ _ => h.ok .any
  | .add64 h dst a b => h.ok .any && even dst && even a && even b
  | .sub64 h dst a b => h.ok .any && even dst && even a && even b
  | .adda h _ dst a _ => h.ok .any && even dst && even a
  | .addx h _ _ dst a _ => h.ok .any && even dst && even a
  | .aff h _ _ _ => h.ok .any
  | .andR h _ _ _ => h.ok .any
  | .andImm h _ _ _ => h.ok .any
  | .orR h _ _ _ => h.ok .any
  | .orImm h _ _ _ => h.ok .any
  | .xorR h _ _ _ => h.ok .any
  | .xorImm h _ _ _ => h.ok .any
  | .andn h _ _ _ => h.ok .any
  | .bfi h _ _ _ _ => h.ok .any
  | .bfx h _ _ _ _ => h.ok .any
  | .brev h _ _ => h.ok .any
  | .clz h _ _ => h.ok .any
  | .ctz h _ _ => h.ok .any
  | .popc h _ _ => h.ok .any
  | .form h _ _ => h.ok .any
  | .li h _ _ => h.ok .any
  | .mul h _ _ _ => h.ok .any
  | .mulImm h _ _ _ => h.ok .any
  | .mad h _ _ _ _ => h.ok .any
  | .min h _ _ _ _ => h.ok .any
  | .max h _ _ _ _ => h.ok .any
  | .mulhi h _ _ _ _ => h.ok .any
  | .mulw h _ dst _ _ => h.ok .any && even dst
  | .shl h _ _ _ => h.ok .any
  | .shlImm h _ _ _ => h.ok .any
  | .shr h _ _ _ => h.ok .any
  | .shrImm h _ _ _ => h.ok .any
  | .sra h _ _ _ => h.ok .any
  | .sraImm h _ _ _ => h.ok .any
  | .rol h _ _ _ => h.ok .any
  | .rolImm h _ _ _ => h.ok .any
  | .sel h _ _ _ _ => h.ok .any
  | .set h _ _ _ _ => h.ok .any
  | .rcp h _ _ => h.ok .any
  | .rsq h _ _ => h.ok .any
  | .ex2 h _ _ => h.ok .any
  | .lg2 h _ _ => h.ok .any
  | .sin h _ _ => h.ok .any
  | .cos h _ _ => h.ok .any
  | .tanh h _ _ => h.ok .any
  | .cvtF32Si32 h m _ _ => h.ok .any && decide (m ≠ .sr)
  | .cvtF32Ui32 h m _ _ => h.ok .any && decide (m ≠ .sr)
  | .cvtSi32F32 h m _ _ => h.ok .any && decide (m ≠ .sr)
  | .cvtUi32F32 h m _ _ => h.ok .any && decide (m ≠ .sr)
  | .cvtBf16F32 h m _ _ _ c => h.ok .any && (decide (m = .sr) || decide (c = 0))
  | .cvtF16F32 h m _ _ _ c => h.ok .any && (decide (m = .sr) || decide (c = 0))
  | .cvtE4m3F32 h _ m _ _ _ c => h.ok .any && (decide (m = .sr) || decide (c = 0))
  | .cvtE5m2F32 h _ m _ _ _ c => h.ok .any && (decide (m = .sr) || decide (c = 0))
  | .cvtF32Bf16 h _ _ _ => h.ok .any
  | .cvtF32F16 h _ _ _ => h.ok .any
  | .cvtF32E4m3 h _ _ _ => h.ok .any
  | .cvtF32E5m2 h _ _ _ => h.ok .any
  | .fabs h _ _ => h.ok .any
  | .fneg h _ _ => h.ok .any
  | .fadd h m _ _ _ => h.ok .any && decide (m ≠ .sr)
  | .fsub h m _ _ _ => h.ok .any && decide (m ≠ .sr)
  | .fmul h m _ _ _ => h.ok .any && decide (m ≠ .sr)
  | .ffma h m _ _ _ _ => h.ok .any && decide (m ≠ .sr)
  | .fclass h _ _ => h.ok .any
  | .fmin h _ _ _ => h.ok .any
  | .fmax h _ _ _ => h.ok .any
  | .frnd h m _ _ => h.ok .any && decide (m ≠ .sr)
  | .fset h _ _ _ _ => h.ok .any
  | .padd h _ m _ _ _ => h.ok .any && decide (m ≠ .sr)
  | .pmul h _ m _ _ _ => h.ok .any && decide (m ≠ .sr)
  | .pfma h _ m _ _ _ _ => h.ok .any && decide (m ≠ .sr)
  | .pmin h _ _ _ _ => h.ok .any
  | .pmax h _ _ _ _ => h.ok .any
  | .pdot h _ m _ _ _ _ => h.ok .any && decide (m ≠ .sr)
  | .qnt h _ m _ _ _ c => h.ok .any && (decide (m = .sr) || decide (c = 0))
  | .qpk h _ _ _ => h.ok .any
  | .qunpk h _ _ _ => h.ok .any
  | .spmk h _ _ => h.ok .any
  | .spcmp h _ _ _ => h.ok .any
  | .bra h _ => h.ok .any
  | .braAll h _ => h.ok .any
  | .braNone h _ => h.ok .any
  | .brs h _ _ => h.ok .must
  | .call h link _ => h.ok .any && even link
  | .endmeld h => h.ok .none
  | .exit h => h.ok .none
  | .jmp h a => h.ok .any && even a
  | .jmpl h dst a => h.ok .any && even dst && even a
  | .ret h a => h.ok .any && even a
  | .loop h _ _ => h.ok .none
  | .mand h _ _ => h.ok .none
  | .mandn h _ _ => h.ok .none
  | .meld h _ => h.ok .none
  | .melse h _ => h.ok .none
  | .mset h _ => h.ok .none
  | .mvote h _ _ => h.ok .none
  | .nop h => h.ok .any
  | .rnm h _ _ _ => h.ok .none
  | .align h _ => h.ok .none
  | .unalign h => h.ok .none
  | .ld h sp k dst a _ => h.ok .any && wide (ldBytes k) dst && (decide (sp ≠ .glob) || even a)
  | .st h sp k d a _ => h.ok .any && wide (stBytes k) d && (decide (sp ≠ .glob) || even a)
  | .flushG h a _ => h.ok .any && even a
  | .invalG h a _ => h.ok .any && even a
  | .lda h sp w dst a _ => h.ok .any && wide (widthBytes w) dst && (decide (sp ≠ .glob) || even a)
  | .sopenLd h _ _ _ => h.ok .any
  | .sopenSt h _ _ _ => h.ok .any
  | .sclose h _ => h.ok .any
  | .sld h w dst _ => h.ok .any && wide (widthBytes w) dst
  | .sst h w _ a => h.ok .any && wide (widthBytes w) a
  | .sstat h _ _ => h.ok .any
  | .sstatStall h _ _ => h.ok .any
  | .sstatPoison h _ _ => h.ok .any
  | .bankmode h _ _ _ => h.ok .any
  | .bankq h _ _ _ => h.ok .any
  | .ldaq h _ sp w64 dst a => h.ok .any && (decide (sp ≠ .glob) || even a) && (!w64 || even dst)
  | .strl h _ sp w64 a b => h.ok .any && (decide (sp ≠ .glob) || even a) && (!w64 || even b)
  | .atomAdd h _ sp w64 dst a b => h.ok .any && (decide (sp ≠ .glob) || even a) && (!w64 || even dst) && (!w64 || even b)
  | .atomAddF32 h _ sp _ a _ => h.ok .any && (decide (sp ≠ .glob) || even a)
  | .atomMin h _ _ sp _ a _ => h.ok .any && (decide (sp ≠ .glob) || even a)
  | .atomMax h _ _ sp _ a _ => h.ok .any && (decide (sp ≠ .glob) || even a)
  | .atomAnd h _ sp w64 dst a b => h.ok .any && (decide (sp ≠ .glob) || even a) && (!w64 || even dst) && (!w64 || even b)
  | .atomOr h _ sp w64 dst a b => h.ok .any && (decide (sp ≠ .glob) || even a) && (!w64 || even dst) && (!w64 || even b)
  | .atomXor h _ sp w64 dst a b => h.ok .any && (decide (sp ≠ .glob) || even a) && (!w64 || even dst) && (!w64 || even b)
  | .atomExch h _ sp w64 dst a b => h.ok .any && (decide (sp ≠ .glob) || even a) && (!w64 || even dst) && (!w64 || even b)
  | .atomCas h _ sp w64 dst a b => h.ok .any && (decide (sp ≠ .glob) || even a) && (!w64 || even dst) && (!w64 || even b)
  | .atomInc h _ sp _ a _ => h.ok .any && (decide (sp ≠ .glob) || even a)
  | .redAdd h _ sp w64 a b => h.ok .any && (decide (sp ≠ .glob) || even a) && (!w64 || even b)
  | .redAddF32 h _ sp a _ => h.ok .any && (decide (sp ≠ .glob) || even a)
  | .redMin h _ _ sp a _ => h.ok .any && (decide (sp ≠ .glob) || even a)
  | .redMax h _ _ sp a _ => h.ok .any && (decide (sp ≠ .glob) || even a)
  | .redAnd h _ sp w64 a b => h.ok .any && (decide (sp ≠ .glob) || even a) && (!w64 || even b)
  | .redOr h _ sp w64 a b => h.ok .any && (decide (sp ≠ .glob) || even a) && (!w64 || even b)
  | .redXor h _ sp w64 a b => h.ok .any && (decide (sp ≠ .glob) || even a) && (!w64 || even b)
  | .fenceRel h _ => h.ok .any
  | .fenceAcq h _ => h.ok .any
  | .fenceAr h _ => h.ok .any
  | .binit h _ _ => h.ok .none
  | .barv h _ => h.ok .none
  | .barvExp h _ _ => h.ok .none
  | .bexp h _ _ => h.ok .none
  | .bdrop h _ => h.ok .none
  | .bwait h dst _ _ => h.ok .none && even dst
  | .btest h dst _ => h.ok .none && even dst
  | .bsync h _ => h.ok .none
  | .qmovPush h _ _ => h.ok .none
  | .qmovPop h _ _ => h.ok .none
  | .qmovPeek h _ _ => h.ok .none
  | .qmovStat h _ _ => h.ok .none
  | .jadd h _ sp a _ => h.ok .none && (decide (sp ≠ .glob) || even a)
  | .jarr h _ sp a => h.ok .none && (decide (sp ≠ .glob) || even a)
  | .jwait h _ sp a => h.ok .none && (decide (sp ≠ .glob) || even a)
  | .jpoll h _ sp _ a => h.ok .none && (decide (sp ≠ .glob) || even a)
  | .cpyG2p h _ _ _ follow => h.ok .any && even follow
  | .cpyP2g h _ _ _ follow => h.ok .any && decide (follow = 0)
  | .cpyC2p h _ _ _ follow => h.ok .any && even follow
  | .cpyP2c h _ _ _ follow => h.ok .any && decide (follow = 0)
  | .cpyG2c h _ _ _ follow => h.ok .any && even follow
  | .cpylG h _ va vd => h.ok .any && even va && even vd
  | .drnSt h _ _ _ => h.ok .any
  | .drnAdd h _ _ _ => h.ok .any
  | .cperr h dst => h.ok .none && quad dst
  | .btalloc h _ _ _ _ => h.ok .none
  | .btshare h _ _ _ _ => h.ok .none
  | .btcow h _ _ _ => h.ok .none
  | .btfree h _ _ _ => h.ok .none
  | .btmove h _ _ _ _ => h.ok .none
  | .btrd h dst _ _ => h.ok .none && quad dst
  | .btstat h dst _ => h.ok .none && quad dst
  | .mma h _ _ _ _ => h.ok .any
  | .mmaSp h _ _ _ _ => h.ok .any
  | .mlw h _ _ _ => h.ok .any
  | .mlwSp h _ _ _ => h.ok .any
  | .aclr h _ => h.ok .none
  | .ard h _ _ _ => h.ok .any
  | .awr h _ _ _ => h.ok .any
  | .mstat h _ => h.ok .none
  | .mstatClr h _ => h.ok .none
  | .sacc h _ _ mode _ b c => h.ok .none && (decide (mode ≠ .row) || decide (b = 0)) && (decide (mode ≠ .col) || decide (c = 0))
  | .opb h _ => h.ok .none
  | .taskend h => h.ok .none
  | .prio h _ => h.ok .none
  | .wgq h _ _ => h.ok .none
  | .pktst h _ => h.ok .none
  | .srd h _ sr => h.ok .any && srListed sr.toNat
  | .swr h _ sr => h.ok .any && srWritable sr.toNat
  | .tret h => h.ok .none
  | .tretNext h => h.ok .none
  | .brk h _ => h.ok .any
  | .trapi h _ => h.ok .any
  | .xrd h _ n => h.ok .none && decide (n.toNat < 16)
  | .xwr h _ n => h.ok .none && decide (n.toNat < 16)
  | .cxrd h _ item => h.ok .none && itemListed item.toNat
  | .cxwr h _ item => h.ok .none && itemWritable item.toNat
  | .pmrd h dst _ => h.ok .none && even dst
  | .pmrst h => h.ok .none
  | .genwait h _ _ => h.ok .none
  | .wgabort h _ => h.ok .none
  | .trapEntry _ c => c.ok
  | .fouloReport _ c => c.ok
  | .vspawn _ _ _ _ | .vjoin _ _ | .vpoll _ _ | .vjadd _ _ _ | .vqbind _ _ _ | .vqwait _ => true
  | .spawnCsrAccess hart _ _ _ _ => hartNo hart
  | .fouloResume _ | .fouloDeliver _ | .fouloSave _ | .fouloTerminate _ | .fouloKill _ | .asyncEventDelivery _ => true
  | .referenceTick chip => chipNo chip
  | .watchdogStall _ | .watchdogOperator _ | .resultLanding _ _ | .ldaLanding _ _ => true
  | .windowStart _ | .windowResume _ | .windowEnd _ | .binTimeout _ _ => true
  | .warpForm core => coreNo core
  | .streamElementForm core => coreNo core
  | .streamDataReturn _ _ => true
  | .translationWalk core _ asid va _ => coreNo core && decide (asid < 65536) && decide (va < 2 ^ 57)
  | .writeAtOwner core _ => coreNo core
  | .scopeCheckerAnswer _ | .barrierUpdate _ _ => true
  | .leatOperationStart core _ => coreNo core
  | .leatLanding core _ _ => coreNo core
  | .leatArrival core _ => coreNo core
  | .followOnDelivery core _ => coreNo core
  | .followOnEnterQueue core => coreNo core
  | .blockCopyDone core _ => coreNo core
  | .blockReclaim hub _ => hubNo hub
  | .poolReturnRetry hub => hubNo hub
  | .matrixCommandStart core _ => coreNo core
  | .matrixCommandComplete core _ => coreNo core
  | .doorbellWrite hub q idx => hubNo hub && decide (q < 1024) && decide (idx < 2 ^ 64)
  | .packetTake hub q => hubNo hub && decide (q < 1024)
  | .packetCompletion _ => true
  | .bindRecordWrite hub slot _ _ _ _ => hubNo hub && decide (slot < 64)
  | .dispatchPlace hub => hubNo hub
  | .workgroupRetire _ | .operatorBoundaryReached _ | .cooperativeHold _ => true
  | .workgroupResume _ core => coreNo core
  | .sluiceGrant hub arb reqs => hubNo hub && decide (arb < 1008) && reqs.all (fun v => decide (v < 33))
  | .sluiceGuaranteeWrite hub arb vdev _ => hubNo hub && decide (arb < 1008) && decide (vdev < 33)
  | .weirRotation hub => hubNo hub
  | .admissionLimitWrite core limit => coreNo core && decide (limit < 256)
  | .partitionChange part vdev cores => decide (part < 64) && decide (vdev < 33) && cores.all coreNo
  | .preemptSliceEnd hub _ target => hubNo hub && decide (target < 64)
  | .preemptUrgentHalt hub _ target => hubNo hub && decide (target < 64)
  | .preemptComplete hub => hubNo hub
  | .slotResume hub slot => hubNo hub && decide (slot < 64)
  | .contextKill vdev => decide (vdev < 33)
  | .killAck vdev unit => decide (vdev < 33) && decide (unit < 18)
  | .killDrainComplete vdev => decide (vdev < 33)
  | .bankControlWrite chip cluster bank _ => chipNo chip && decide (cluster < 8) && decide (bank < 256)
  | .tlbInvalidate hub scope asid va => hubNo hub && decide (scope < 4) && decide (asid < 65536) && decide (va < 2 ^ 57)
  | .powerWakeP0 hub port core => hubNo hub && portNo port && decide (core < 256)
  | .powerEnterC2 hub port core => hubNo hub && portNo port && decide (core < 256)
  | .powerLimitWrite hub _ => hubNo hub
  | .temperatureLimitWrite hub _ => hubNo hub
  | .c1Entry core => coreNo core || (decide (512 ≤ core) && decide (core < 592))
  | .c1Wake core => coreNo core || (decide (512 ≤ core) && decide (core < 592))
  | .deepSleep hub => hubNo hub
  | .s3Wake => true
  | .btDescriptorWrite hub t word _ => hubNo hub && decide (t < 65536) && decide (word < 4)
  | .poolDescriptorWrite hub n word _ => hubNo hub && decide (n < 4096) && decide (word < 2)
  | .poolPush hub n block => hubNo hub && decide (n < 4096) && decide (block < 2 ^ 36)
  | .poolPop hub n => hubNo hub && decide (n < 4096)
  | .managementRegisterWrite hub off size _ => hubNo hub && decide (off < 0x1000000) && decide (size = 4 ∨ size = 8)
  | .managementRegisterRead hub off size => hubNo hub && decide (off < 0x1000000) && decide (size = 4 ∨ size = 8)
  | .linkTrained hub port cap => hubNo hub && portNo port && decide (cap.length = 32)
  | .trainingFail hub port => hubNo hub && portNo port
  | .chipletAck hub port => hubNo hub && portNo port
  | .isolateCommand hub port => hubNo hub && portNo port
  | .linkDown hub port => hubNo hub && portNo port
  | .chipletFatalError hub port => hubNo hub && portNo port
  | .isolation hub port => hubNo hub && portNo port
  | .portResetCommand hub port => hubNo hub && portNo port
  | .flitReceive hub port _ _ _ _ => hubNo hub && portNo port
  | .flitReplay hub port _ => hubNo hub && portNo port
  | .equalisationPass hub port m => hubNo hub && portNo port && decide (m < 16)
  | .equalisationEnd hub port m _ => hubNo hub && portNo port && decide (m < 16)
  | .laneFallback hub port m => hubNo hub && portNo port && decide (m < 16)
  | .droopResponse loc _ => decide (loc < 18)
  | .frequencyStep loc => decide (loc < 18)
  | .patrolScrub hub _ _ => hubNo hub
  | .scrubPeriodAdjust hub _ _ => hubNo hub
  | .ringResponseTimeout _ _ => true
  | .remoteRequest m _ req => decide (m < 1024) && decide (req.pa < 2 ^ 52) && decide (req.scope < 11)
  | .remoteRouteTimeout _ _ => true
  | .kuduCachePoisonInterrupt hart _ => hartNo hart
  | .tenantPoisonHold hub vdev => hubNo hub && decide (vdev < 33)
  | .eventPost hub q kind _ => hubNo hub && decide (q < 1024) && decide (kind < 16)
  | .connectionOpen saiga conn desc => hubNo saiga && decide (conn < 32768) && decide (desc.length = 64)
  | .connectionClose saiga conn => hubNo saiga && decide (conn < 32768)
  | .sendLineNotify saiga conn _ => hubNo saiga && decide (conn < 32768)
  | .segmentReceive saiga conn _ _ => hubNo saiga && decide (conn < 32768)
  | .ackReceive saiga conn _ => hubNo saiga && decide (conn < 32768)
  | .retransmission saiga conn => hubNo saiga && decide (conn < 32768)
  | .idcert | .wcreate _ _ _ | .wdestroy _ | .extend _ _ _ | .lock | .readlog _ | .evidence _ _ | .wrelease _ _ => true
  | .podevidence _ | .podMemberAnswer _ _ | .podGatherTimeout | .moduleReset => true
  | .hartInterrupt hart n => hartNo hart && decide (n < 64)
  | .kuduHartAccess hart _ _ va size _ => hartNo hart && decide (va < 2 ^ 64) && decide (size = 1 ∨ size = 2 ∨ size = 4 ∨ size = 8)

/-- Well-formedness as a proposition. -/
abbrev Instr.WellFormed (i : Instr) : Prop := i.wellFormed = true

end Sys2Proof
end

