-- ==== Sys2Proof/Decode.lean ====
section
/-! DEFINITION. The decoder, total on any word and rejecting by name, and the encoder after it, both written from the encoding
tables of the spec (Tables 02.1 to 02.6, the minor maps of the chapters, Table 13.2). -/

namespace Sys2Proof

/-- Why a word is no instruction: an unassigned opcode (cause 0x01), a reserved field or illegal field value (cause 0x02 with
its subcode, Table 12.2), or, on a Kudu core, a word outside custom-0 (log entry 10, PRESUMED). -/
inductive DecodeError where
  | illegal
  | reserved (sub : Nat)
  | base
deriving DecidableEq, Repr

/-- A Vodon word cut into its fields. Bits [39:0] are five bytes: the fields of format R. The other formats read the
same bytes joined: imm16 and offset stand in `b`, `c` and `a`, `b`, `c`; imm32 in the low four (Tables 02.1 to 02.6). -/
structure Raw where
  gap : BitVec 10
  major : BitVec 6
  g : Bool
  s : Bool
  guard : BitVec 6
  dst : BitVec 8
  a : BitVec 8
  b : BitVec 8
  c : BitVec 8
  minor : BitVec 8
deriving DecidableEq, Repr

/-- Cut a word into its fields (R33, R34). -/
def Raw.ofWord (w : BitVec 64) : Raw :=
  ⟨w.extractLsb' 54 10, w.extractLsb' 48 6, w.getLsbD 47, w.getLsbD 46, w.extractLsb' 40 6, w.extractLsb' 32 8,
    w.extractLsb' 24 8, w.extractLsb' 16 8, w.extractLsb' 8 8, w.extractLsb' 0 8⟩

/-- Join fields into a word (R33, R34). -/
def Raw.toWord (r : Raw) : BitVec 64 :=
  r.gap ++ r.major ++ BitVec.ofBool r.g ++ BitVec.ofBool r.s ++ r.guard ++ r.dst ++ r.a ++ r.b ++ r.c ++ r.minor

/-- The common header. -/
def Raw.hdr (r : Raw) : Hdr := ⟨r.gap, r.g, r.s, r.guard⟩

/-- An assigned minor: the reserved fields are zero (subcode 1), the guard fields legal (subcode 2), pair and quad registers
even and multiples of 4 (subcode 3), in this order (log entry 12, DEDUCED). -/
def Raw.form (r : Raw) (zero : List Nat) (gr : GuardRule) (evens quads : List Reg) (i : Instr) : Except DecodeError Instr :=
  if zero.any (fun x => decide (x ≠ 0)) then .error (.reserved 1)
  else if !r.hdr.ok gr then .error (.reserved 2)
  else if !(evens.all even && quads.all quad) then .error (.reserved 3)
  else .ok i

/-- An assigned minor with a check of its own and that check's subcode. -/
def Raw.formIf (r : Raw) (good : Bool) (sub : Nat) (zero : List Nat) (gr : GuardRule) (i : Instr) :
    Except DecodeError Instr :=
  match r.form zero gr [] [] i with
  | .error e => .error e
  | .ok j => if good then .ok j else .error (.reserved sub)

/-- An atomic, reduction or join with its control field (Table 07.4): space 3, a reserved bit, or W64 where the op takes 32
bits only are reserved (R246, R270). -/
def Raw.control (r : Raw) (w64ok : Bool) (zero : List Nat) (gr : GuardRule) (wides : List Reg) (mk : Space → Bool → Instr) :
    Except DecodeError Instr :=
  let w := r.c.getLsbD 2
  let more := [r.c.toNat / 8, if w && !w64ok then 1 else 0]
  let ev := if w then wides else []
  match r.c.toNat % 4 with
  | 0 => r.form (zero ++ more) gr ev [] (mk .priv w)
  | 1 => r.form (zero ++ more) gr ev [] (mk .clus w)
  | 2 => r.form (zero ++ more) gr (r.a :: ev) [] (mk .glob w)
  | _ => .error (.reserved 1)

/-- Major 0x00, integer and logical (Table 03.4). -/
def decode00 (r : Raw) : Except DecodeError Instr :=
  match r.minor.toNat with
  | 0x01 => r.form [r.c.toNat] .any [] [] (.add r.hdr r.dst r.a r.b)
  | 0x02 => r.form [r.c.toNat] .any [] [] (.sub r.hdr r.dst r.a r.b)
  | 0x08 => r.form [r.c.toNat] .any [] [] (.andR r.hdr r.dst r.a r.b)
  | 0x09 => r.form [r.c.toNat] .any [] [] (.orR r.hdr r.dst r.a r.b)
  | 0x0A => r.form [r.c.toNat] .any [] [] (.xorR r.hdr r.dst r.a r.b)
  | 0x0B => r.form [r.c.toNat] .any [] [] (.andn r.hdr r.dst r.a r.b)
  | 0x10 => r.form [r.c.toNat] .any [] [] (.mul r.hdr r.dst r.a r.b)
  | 0x11 => r.form [] .any [] [] (.mad r.hdr r.dst r.a r.b r.c)
  | 0x12 => r.form [r.c.toNat] .any [] [] (.mulhi r.hdr .si32 r.dst r.a r.b)
  | 0x13 => r.form [r.c.toNat] .any [] [] (.mulhi r.hdr .ui32 r.dst r.a r.b)
  | 0x14 => r.form [r.c.toNat] .any [r.dst] [] (.mulw r.hdr .si32 r.dst r.a r.b)
  | 0x15 => r.form [r.c.toNat] .any [r.dst] [] (.mulw r.hdr .ui32 r.dst r.a r.b)
  | 0x18 => r.form [r.c.toNat] .any [] [] (.shl r.hdr r.dst r.a r.b)
  | 0x19 => r.form [r.c.toNat] .any [] [] (.shr r.hdr r.dst r.a r.b)
  | 0x1A => r.form [r.c.toNat] .any [] [] (.sra r.hdr r.dst r.a r.b)
  | 0x1B => r.form [r.c.toNat] .any [] [] (.rol r.hdr r.dst r.a r.b)
  | 0x20 => r.form [r.c.toNat] .any [r.dst, r.a, r.b] [] (.add64 r.hdr r.dst r.a r.b)
  | 0x21 => r.form [r.c.toNat] .any [r.dst, r.a, r.b] [] (.sub64 r.hdr r.dst r.a r.b)
  | 0x28 => r.form [r.c.toNat] .any [r.dst, r.a] [] (.addx r.hdr .si32 0 r.dst r.a r.b)
  | 0x29 => r.form [r.c.toNat] .any [r.dst, r.a] [] (.addx r.hdr .si32 1 r.dst r.a r.b)
  | 0x2A => r.form [r.c.toNat] .any [r.dst, r.a] [] (.addx r.hdr .si32 2 r.dst r.a r.b)
  | 0x2B => r.form [r.c.toNat] .any [r.dst, r.a] [] (.addx r.hdr .si32 3 r.dst r.a r.b)
  | 0x2C => r.form [r.c.toNat] .any [r.dst, r.a] [] (.addx r.hdr .si32 4 r.dst r.a r.b)
  | 0x30 => r.form [r.c.toNat] .any [r.dst, r.a] [] (.addx r.hdr .ui32 0 r.dst r.a r.b)
  | 0x31 => r.form [r.c.toNat] .any [r.dst, r.a] [] (.addx r.hdr .ui32 1 r.dst r.a r.b)
  | 0x32 => r.form [r.c.toNat] .any [r.dst, r.a] [] (.addx r.hdr .ui32 2 r.dst r.a r.b)
  | 0x33 => r.form [r.c.toNat] .any [r.dst, r.a] [] (.addx r.hdr .ui32 3 r.dst r.a r.b)
  | 0x34 => r.form [r.c.toNat] .any [r.dst, r.a] [] (.addx r.hdr .ui32 4 r.dst r.a r.b)
  | _ => .error .illegal

/-- Major 0x01, integer and logical, immediate (Table 03.4). -/
def decode01 (r : Raw) : Except DecodeError Instr :=
  match r.minor.toNat with
  | 0x01 => r.form [] .any [] [] (.addImm r.hdr r.dst r.a (r.b ++ r.c))
  | 0x08 => r.form [] .any [] [] (.andImm r.hdr r.dst r.a (r.b ++ r.c))
  | 0x09 => r.form [] .any [] [] (.orImm r.hdr r.dst r.a (r.b ++ r.c))
  | 0x0A => r.form [] .any [] [] (.xorImm r.hdr r.dst r.a (r.b ++ r.c))
  | 0x10 => r.form [] .any [] [] (.mulImm r.hdr r.dst r.a (r.b ++ r.c))
  | 0x18 => r.form [r.b.toNat, r.c.toNat / 32] .any [] [] (.shlImm r.hdr r.dst r.a (r.c.setWidth 5))
  | 0x19 => r.form [r.b.toNat, r.c.toNat / 32] .any [] [] (.shrImm r.hdr r.dst r.a (r.c.setWidth 5))
  | 0x1A => r.form [r.b.toNat, r.c.toNat / 32] .any [] [] (.sraImm r.hdr r.dst r.a (r.c.setWidth 5))
  | 0x1B => r.form [r.b.toNat, r.c.toNat / 32] .any [] [] (.rolImm r.hdr r.dst r.a (r.c.setWidth 5))
  | _ => .error .illegal

/-- Major 0x03, compare, select (Table 03.5). -/
def decode03 (r : Raw) : Except DecodeError Instr :=
  match r.minor.toNat with
  | 0x01 => r.form [r.c.toNat] .any [] [] (.set r.hdr .eq r.dst r.a r.b)
  | 0x02 => r.form [r.c.toNat] .any [] [] (.set r.hdr .ne r.dst r.a r.b)
  | 0x03 => r.form [r.c.toNat] .any [] [] (.set r.hdr .ltS r.dst r.a r.b)
  | 0x04 => r.form [r.c.toNat] .any [] [] (.set r.hdr .leS r.dst r.a r.b)
  | 0x05 => r.form [r.c.toNat] .any [] [] (.set r.hdr .ltU r.dst r.a r.b)
  | 0x06 => r.form [r.c.toNat] .any [] [] (.set r.hdr .leU r.dst r.a r.b)
  | 0x10 => r.form [] .any [] [] (.sel r.hdr r.dst r.a r.b r.c)
  | 0x18 => r.form [r.c.toNat] .any [] [] (.min r.hdr .si32 r.dst r.a r.b)
  | 0x19 => r.form [r.c.toNat] .any [] [] (.min r.hdr .ui32 r.dst r.a r.b)
  | 0x1A => r.form [r.c.toNat] .any [] [] (.max r.hdr .si32 r.dst r.a r.b)
  | 0x1B => r.form [r.c.toNat] .any [] [] (.max r.hdr .ui32 r.dst r.a r.b)
  | _ => .error .illegal

/-- Major 0x04, bit fields, counts, saturation (Table 03.6). -/
def decode04 (r : Raw) : Except DecodeError Instr :=
  match r.minor.toNat with
  | 0x01 => r.form [r.c.toNat] .any [] [] (.bfx r.hdr .ui32 r.dst r.a r.b)
  | 0x02 => r.form [r.c.toNat] .any [] [] (.bfx r.hdr .si32 r.dst r.a r.b)
  | 0x03 => r.form [] .any [] [] (.bfi r.hdr r.dst r.a r.b r.c)
  | 0x10 => r.form [r.b.toNat, r.c.toNat] .any [] [] (.popc r.hdr r.dst r.a)
  | 0x11 => r.form [r.b.toNat, r.c.toNat] .any [] [] (.clz r.hdr r.dst r.a)
  | 0x12 => r.form [r.b.toNat, r.c.toNat] .any [] [] (.ctz r.hdr r.dst r.a)
  | 0x13 => r.form [r.b.toNat, r.c.toNat] .any [] [] (.brev r.hdr r.dst r.a)
  | 0x20 => r.form [r.c.toNat] .any [] [] (.addSat r.hdr .si32 r.dst r.a r.b)
  | 0x21 => r.form [r.c.toNat] .any [] [] (.addSat r.hdr .ui32 r.dst r.a r.b)
  | 0x22 => r.form [r.c.toNat] .any [] [] (.subSat r.hdr .si32 r.dst r.a r.b)
  | 0x23 => r.form [r.c.toNat] .any [] [] (.subSat r.hdr .ui32 r.dst r.a r.b)
  | 0x24 => r.form [r.b.toNat, r.c.toNat] .any [] [] (.abs r.hdr r.dst r.a)
  | _ => .error .illegal

/-- Major 0x05, affine and tag (Table 03.7). -/
def decode05 (r : Raw) : Except DecodeError Instr :=
  match r.minor.toNat with
  | 0x01 => r.form [r.c.toNat] .any [] [] (.aff r.hdr r.dst r.a r.b)
  | 0x08 => r.form [r.b.toNat, r.c.toNat] .any [] [] (.form r.hdr r.dst r.a)
  | _ => .error .illegal

/-- Major 0x06, address arithmetic (Table 03.8). -/
def decode06 (r : Raw) : Except DecodeError Instr :=
  match r.minor.toNat with
  | 0x01 => r.form [] .any [r.dst, r.a] [] (.adda r.hdr 0 r.dst r.a (r.b ++ r.c))
  | 0x02 => r.form [] .any [r.dst, r.a] [] (.adda r.hdr 1 r.dst r.a (r.b ++ r.c))
  | 0x03 => r.form [] .any [r.dst, r.a] [] (.adda r.hdr 2 r.dst r.a (r.b ++ r.c))
  | 0x04 => r.form [] .any [r.dst, r.a] [] (.adda r.hdr 3 r.dst r.a (r.b ++ r.c))
  | 0x05 => r.form [] .any [r.dst, r.a] [] (.adda r.hdr 4 r.dst r.a (r.b ++ r.c))
  | _ => .error .illegal

/-- Major 0x10, F32 arithmetic (Table 04.4). An unlisted sub is an illegal field combination to which no subcode is given: the model
reports subcode 1 (R107; log entry 12, DEDUCED). -/
def decode10 (r : Raw) : Except DecodeError Instr :=
  match r.minor.toNat with
  | 0x08 => r.form [r.c.toNat] .any [] [] (.fadd r.hdr .rn r.dst r.a r.b)
  | 0x09 => r.form [r.c.toNat] .any [] [] (.fadd r.hdr .rz r.dst r.a r.b)
  | 0x0A => r.form [r.c.toNat] .any [] [] (.fadd r.hdr .rd r.dst r.a r.b)
  | 0x0B => r.form [r.c.toNat] .any [] [] (.fadd r.hdr .ru r.dst r.a r.b)
  | 0x10 => r.form [r.c.toNat] .any [] [] (.fsub r.hdr .rn r.dst r.a r.b)
  | 0x11 => r.form [r.c.toNat] .any [] [] (.fsub r.hdr .rz r.dst r.a r.b)
  | 0x12 => r.form [r.c.toNat] .any [] [] (.fsub r.hdr .rd r.dst r.a r.b)
  | 0x13 => r.form [r.c.toNat] .any [] [] (.fsub r.hdr .ru r.dst r.a r.b)
  | 0x18 => r.form [r.c.toNat] .any [] [] (.fmul r.hdr .rn r.dst r.a r.b)
  | 0x19 => r.form [r.c.toNat] .any [] [] (.fmul r.hdr .rz r.dst r.a r.b)
  | 0x1A => r.form [r.c.toNat] .any [] [] (.fmul r.hdr .rd r.dst r.a r.b)
  | 0x1B => r.form [r.c.toNat] .any [] [] (.fmul r.hdr .ru r.dst r.a r.b)
  | 0x20 => r.form [] .any [] [] (.ffma r.hdr .rn r.dst r.a r.b r.c)
  | 0x21 => r.form [] .any [] [] (.ffma r.hdr .rz r.dst r.a r.b r.c)
  | 0x22 => r.form [] .any [] [] (.ffma r.hdr .rd r.dst r.a r.b r.c)
  | 0x23 => r.form [] .any [] [] (.ffma r.hdr .ru r.dst r.a r.b r.c)
  | 0x40 => r.form [r.c.toNat] .any [] [] (.fmin r.hdr r.dst r.a r.b)
  | 0x48 => r.form [r.c.toNat] .any [] [] (.fmax r.hdr r.dst r.a r.b)
  | 0x50 => r.form [r.b.toNat, r.c.toNat] .any [] [] (.fabs r.hdr r.dst r.a)
  | 0x58 => r.form [r.b.toNat, r.c.toNat] .any [] [] (.fneg r.hdr r.dst r.a)
  | n => .error (if [1, 2, 3, 4, 8, 9, 10, 11].contains (n / 8) then .reserved 1 else .illegal)

/-- Major 0x11, packed arithmetic (Table 04.5). -/
def decode11 (r : Raw) : Except DecodeError Instr :=
  match r.minor.toNat with
  | 0x10 => r.form [r.c.toNat] .any [] [] (.padd r.hdr .f16 .rn r.dst r.a r.b)
  | 0x11 => r.form [r.c.toNat] .any [] [] (.padd r.hdr .f16 .rz r.dst r.a r.b)
  | 0x12 => r.form [r.c.toNat] .any [] [] (.padd r.hdr .f16 .rd r.dst r.a r.b)
  | 0x13 => r.form [r.c.toNat] .any [] [] (.padd r.hdr .f16 .ru r.dst r.a r.b)
  | 0x18 => r.form [r.c.toNat] .any [] [] (.padd r.hdr .bf16 .rn r.dst r.a r.b)
  | 0x19 => r.form [r.c.toNat] .any [] [] (.padd r.hdr .bf16 .rz r.dst r.a r.b)
  | 0x1A => r.form [r.c.toNat] .any [] [] (.padd r.hdr .bf16 .rd r.dst r.a r.b)
  | 0x1B => r.form [r.c.toNat] .any [] [] (.padd r.hdr .bf16 .ru r.dst r.a r.b)
  | 0x20 => r.form [r.c.toNat] .any [] [] (.pmul r.hdr .f16 .rn r.dst r.a r.b)
  | 0x21 => r.form [r.c.toNat] .any [] [] (.pmul r.hdr .f16 .rz r.dst r.a r.b)
  | 0x22 => r.form [r.c.toNat] .any [] [] (.pmul r.hdr .f16 .rd r.dst r.a r.b)
  | 0x23 => r.form [r.c.toNat] .any [] [] (.pmul r.hdr .f16 .ru r.dst r.a r.b)
  | 0x28 => r.form [r.c.toNat] .any [] [] (.pmul r.hdr .bf16 .rn r.dst r.a r.b)
  | 0x29 => r.form [r.c.toNat] .any [] [] (.pmul r.hdr .bf16 .rz r.dst r.a r.b)
  | 0x2A => r.form [r.c.toNat] .any [] [] (.pmul r.hdr .bf16 .rd r.dst r.a r.b)
  | 0x2B => r.form [r.c.toNat] .any [] [] (.pmul r.hdr .bf16 .ru r.dst r.a r.b)
  | 0x30 => r.form [] .any [] [] (.pfma r.hdr .f16 .rn r.dst r.a r.b r.c)
  | 0x31 => r.form [] .any [] [] (.pfma r.hdr .f16 .rz r.dst r.a r.b r.c)
  | 0x32 => r.form [] .any [] [] (.pfma r.hdr .f16 .rd r.dst r.a r.b r.c)
  | 0x33 => r.form [] .any [] [] (.pfma r.hdr .f16 .ru r.dst r.a r.b r.c)
  | 0x38 => r.form [] .any [] [] (.pfma r.hdr .bf16 .rn r.dst r.a r.b r.c)
  | 0x39 => r.form [] .any [] [] (.pfma r.hdr .bf16 .rz r.dst r.a r.b r.c)
  | 0x3A => r.form [] .any [] [] (.pfma r.hdr .bf16 .rd r.dst r.a r.b r.c)
  | 0x3B => r.form [] .any [] [] (.pfma r.hdr .bf16 .ru r.dst r.a r.b r.c)
  | 0x40 => r.form [r.c.toNat] .any [] [] (.pmin r.hdr .f16 r.dst r.a r.b)
  | 0x48 => r.form [r.c.toNat] .any [] [] (.pmin r.hdr .bf16 r.dst r.a r.b)
  | 0x50 => r.form [r.c.toNat] .any [] [] (.pmax r.hdr .f16 r.dst r.a r.b)
  | 0x58 => r.form [r.c.toNat] .any [] [] (.pmax r.hdr .bf16 r.dst r.a r.b)
  | 0x60 => r.form [] .any [] [] (.pdot r.hdr .f16 .rn r.dst r.a r.b r.c)
  | 0x61 => r.form [] .any [] [] (.pdot r.hdr .f16 .rz r.dst r.a r.b r.c)
  | 0x62 => r.form [] .any [] [] (.pdot r.hdr .f16 .rd r.dst r.a r.b r.c)
  | 0x63 => r.form [] .any [] [] (.pdot r.hdr .f16 .ru r.dst r.a r.b r.c)
  | 0x68 => r.form [] .any [] [] (.pdot r.hdr .bf16 .rn r.dst r.a r.b r.c)
  | 0x69 => r.form [] .any [] [] (.pdot r.hdr .bf16 .rz r.dst r.a r.b r.c)
  | 0x6A => r.form [] .any [] [] (.pdot r.hdr .bf16 .rd r.dst r.a r.b r.c)
  | 0x6B => r.form [] .any [] [] (.pdot r.hdr .bf16 .ru r.dst r.a r.b r.c)
  | n => .error (if [1, 2, 3, 4, 5, 6].contains (n / 16) then .reserved 1 else .illegal)

/-- Major 0x12, approximate functions (Table 04.6). -/
def decode12 (r : Raw) : Except DecodeError Instr :=
  match r.minor.toNat with
  | 0x01 => r.form [r.b.toNat, r.c.toNat] .any [] [] (.rcp r.hdr r.dst r.a)
  | 0x02 => r.form [r.b.toNat, r.c.toNat] .any [] [] (.rsq r.hdr r.dst r.a)
  | 0x03 => r.form [r.b.toNat, r.c.toNat] .any [] [] (.ex2 r.hdr r.dst r.a)
  | 0x04 => r.form [r.b.toNat, r.c.toNat] .any [] [] (.lg2 r.hdr r.dst r.a)
  | 0x05 => r.form [r.b.toNat, r.c.toNat] .any [] [] (.sin r.hdr r.dst r.a)
  | 0x06 => r.form [r.b.toNat, r.c.toNat] .any [] [] (.cos r.hdr r.dst r.a)
  | 0x07 => r.form [r.b.toNat, r.c.toNat] .any [] [] (.tanh r.hdr r.dst r.a)
  | _ => .error .illegal

/-- Major 0x13, conversion (Table 04.7). -/
def decode13 (r : Raw) : Except DecodeError Instr :=
  match r.minor.toNat with
  | 0x08 => r.form [r.b.toNat, r.c.toNat] .any [] [] (.cvtF32Si32 r.hdr .rn r.dst r.a)
  | 0x09 => r.form [r.b.toNat, r.c.toNat] .any [] [] (.cvtF32Si32 r.hdr .rz r.dst r.a)
  | 0x0A => r.form [r.b.toNat, r.c.toNat] .any [] [] (.cvtF32Si32 r.hdr .rd r.dst r.a)
  | 0x0B => r.form [r.b.toNat, r.c.toNat] .any [] [] (.cvtF32Si32 r.hdr .ru r.dst r.a)
  | 0x10 => r.form [r.b.toNat, r.c.toNat] .any [] [] (.cvtF32Ui32 r.hdr .rn r.dst r.a)
  | 0x11 => r.form [r.b.toNat, r.c.toNat] .any [] [] (.cvtF32Ui32 r.hdr .rz r.dst r.a)
  | 0x12 => r.form [r.b.toNat, r.c.toNat] .any [] [] (.cvtF32Ui32 r.hdr .rd r.dst r.a)
  | 0x13 => r.form [r.b.toNat, r.c.toNat] .any [] [] (.cvtF32Ui32 r.hdr .ru r.dst r.a)
  | 0x18 => r.form [r.b.toNat, r.c.toNat] .any [] [] (.cvtSi32F32 r.hdr .rn r.dst r.a)
  | 0x19 => r.form [r.b.toNat, r.c.toNat] .any [] [] (.cvtSi32F32 r.hdr .rz r.dst r.a)
  | 0x1A => r.form [r.b.toNat, r.c.toNat] .any [] [] (.cvtSi32F32 r.hdr .rd r.dst r.a)
  | 0x1B => r.form [r.b.toNat, r.c.toNat] .any [] [] (.cvtSi32F32 r.hdr .ru r.dst r.a)
  | 0x20 => r.form [r.b.toNat, r.c.toNat] .any [] [] (.cvtUi32F32 r.hdr .rn r.dst r.a)
  | 0x21 => r.form [r.b.toNat, r.c.toNat] .any [] [] (.cvtUi32F32 r.hdr .rz r.dst r.a)
  | 0x22 => r.form [r.b.toNat, r.c.toNat] .any [] [] (.cvtUi32F32 r.hdr .rd r.dst r.a)
  | 0x23 => r.form [r.b.toNat, r.c.toNat] .any [] [] (.cvtUi32F32 r.hdr .ru r.dst r.a)
  | 0x28 => r.form [r.b.toNat, r.c.toNat] .any [] [] (.frnd r.hdr .rn r.dst r.a)
  | 0x29 => r.form [r.b.toNat, r.c.toNat] .any [] [] (.frnd r.hdr .rz r.dst r.a)
  | 0x2A => r.form [r.b.toNat, r.c.toNat] .any [] [] (.frnd r.hdr .rd r.dst r.a)
  | 0x2B => r.form [r.b.toNat, r.c.toNat] .any [] [] (.frnd r.hdr .ru r.dst r.a)
  | 0x30 => r.form [r.c.toNat] .any [] [] (.cvtBf16F32 r.hdr .rn r.dst r.a r.b r.c)
  | 0x31 => r.form [r.c.toNat] .any [] [] (.cvtBf16F32 r.hdr .rz r.dst r.a r.b r.c)
  | 0x32 => r.form [r.c.toNat] .any [] [] (.cvtBf16F32 r.hdr .rd r.dst r.a r.b r.c)
  | 0x33 => r.form [r.c.toNat] .any [] [] (.cvtBf16F32 r.hdr .ru r.dst r.a r.b r.c)
  | 0x34 => r.form [] .any [] [] (.cvtBf16F32 r.hdr .sr r.dst r.a r.b r.c)
  | 0x38 => r.form [r.c.toNat] .any [] [] (.cvtF16F32 r.hdr .rn r.dst r.a r.b r.c)
  | 0x39 => r.form [r.c.toNat] .any [] [] (.cvtF16F32 r.hdr .rz r.dst r.a r.b r.c)
  | 0x3A => r.form [r.c.toNat] .any [] [] (.cvtF16F32 r.hdr .rd r.dst r.a r.b r.c)
  | 0x3B => r.form [r.c.toNat] .any [] [] (.cvtF16F32 r.hdr .ru r.dst r.a r.b r.c)
  | 0x3C => r.form [] .any [] [] (.cvtF16F32 r.hdr .sr r.dst r.a r.b r.c)
  | 0x40 => r.form [r.c.toNat] .any [] [] (.cvtE4m3F32 r.hdr false .rn r.dst r.a r.b r.c)
  | 0x41 => r.form [r.c.toNat] .any [] [] (.cvtE4m3F32 r.hdr false .rz r.dst r.a r.b r.c)
  | 0x42 => r.form [r.c.toNat] .any [] [] (.cvtE4m3F32 r.hdr false .rd r.dst r.a r.b r.c)
  | 0x43 => r.form [r.c.toNat] .any [] [] (.cvtE4m3F32 r.hdr false .ru r.dst r.a r.b r.c)
  | 0x44 => r.form [] .any [] [] (.cvtE4m3F32 r.hdr false .sr r.dst r.a r.b r.c)
  | 0x48 => r.form [r.c.toNat] .any [] [] (.cvtE4m3F32 r.hdr true .rn r.dst r.a r.b r.c)
  | 0x49 => r.form [r.c.toNat] .any [] [] (.cvtE4m3F32 r.hdr true .rz r.dst r.a r.b r.c)
  | 0x4A => r.form [r.c.toNat] .any [] [] (.cvtE4m3F32 r.hdr true .rd r.dst r.a r.b r.c)
  | 0x4B => r.form [r.c.toNat] .any [] [] (.cvtE4m3F32 r.hdr true .ru r.dst r.a r.b r.c)
  | 0x4C => r.form [] .any [] [] (.cvtE4m3F32 r.hdr true .sr r.dst r.a r.b r.c)
  | 0x50 => r.form [r.c.toNat] .any [] [] (.cvtE5m2F32 r.hdr false .rn r.dst r.a r.b r.c)
  | 0x51 => r.form [r.c.toNat] .any [] [] (.cvtE5m2F32 r.hdr false .rz r.dst r.a r.b r.c)
  | 0x52 => r.form [r.c.toNat] .any [] [] (.cvtE5m2F32 r.hdr false .rd r.dst r.a r.b r.c)
  | 0x53 => r.form [r.c.toNat] .any [] [] (.cvtE5m2F32 r.hdr false .ru r.dst r.a r.b r.c)
  | 0x54 => r.form [] .any [] [] (.cvtE5m2F32 r.hdr false .sr r.dst r.a r.b r.c)
  | 0x58 => r.form [r.c.toNat] .any [] [] (.cvtE5m2F32 r.hdr true .rn r.dst r.a r.b r.c)
  | 0x59 => r.form [r.c.toNat] .any [] [] (.cvtE5m2F32 r.hdr true .rz r.dst r.a r.b r.c)
  | 0x5A => r.form [r.c.toNat] .any [] [] (.cvtE5m2F32 r.hdr true .rd r.dst r.a r.b r.c)
  | 0x5B => r.form [r.c.toNat] .any [] [] (.cvtE5m2F32 r.hdr true .ru r.dst r.a r.b r.c)
  | 0x5C => r.form [] .any [] [] (.cvtE5m2F32 r.hdr true .sr r.dst r.a r.b r.c)
  | 0x60 => r.form [r.b.toNat, r.c.toNat] .any [] [] (.cvtF32Bf16 r.hdr false r.dst r.a)
  | 0x61 => r.form [r.b.toNat, r.c.toNat] .any [] [] (.cvtF32Bf16 r.hdr true r.dst r.a)
  | 0x68 => r.form [r.b.toNat, r.c.toNat] .any [] [] (.cvtF32F16 r.hdr false r.dst r.a)
  | 0x69 => r.form [r.b.toNat, r.c.toNat] .any [] [] (.cvtF32F16 r.hdr true r.dst r.a)
  | 0x70 => r.form [r.b.toNat, r.c.toNat] .any [] [] (.cvtF32E4m3 r.hdr 0 r.dst r.a)
  | 0x71 => r.form [r.b.toNat, r.c.toNat] .any [] [] (.cvtF32E4m3 r.hdr 1 r.dst r.a)
  | 0x72 => r.form [r.b.toNat, r.c.toNat] .any [] [] (.cvtF32E4m3 r.hdr 2 r.dst r.a)
  | 0x73 => r.form [r.b.toNat, r.c.toNat] .any [] [] (.cvtF32E4m3 r.hdr 3 r.dst r.a)
  | 0x78 => r.form [r.b.toNat, r.c.toNat] .any [] [] (.cvtF32E5m2 r.hdr 0 r.dst r.a)
  | 0x79 => r.form [r.b.toNat, r.c.toNat] .any [] [] (.cvtF32E5m2 r.hdr 1 r.dst r.a)
  | 0x7A => r.form [r.b.toNat, r.c.toNat] .any [] [] (.cvtF32E5m2 r.hdr 2 r.dst r.a)
  | 0x7B => r.form [r.b.toNat, r.c.toNat] .any [] [] (.cvtF32E5m2 r.hdr 3 r.dst r.a)
  | n => .error (if [1, 2, 3, 4, 5, 6, 7, 8, 9, 10, 11, 12, 13, 14, 15].contains (n / 8) then .reserved 1 else .illegal)

/-- Major 0x14, weight packing (Table 04.8). -/
def decode14 (r : Raw) : Except DecodeError Instr :=
  match r.minor.toNat with
  | 0x08 => r.form [r.c.toNat] .any [] [] (.qnt r.hdr .q4 .rn r.dst r.a r.b r.c)
  | 0x09 => r.form [r.c.toNat] .any [] [] (.qnt r.hdr .q4 .rz r.dst r.a r.b r.c)
  | 0x0A => r.form [r.c.toNat] .any [] [] (.qnt r.hdr .q4 .rd r.dst r.a r.b r.c)
  | 0x0B => r.form [r.c.toNat] .any [] [] (.qnt r.hdr .q4 .ru r.dst r.a r.b r.c)
  | 0x0C => r.form [] .any [] [] (.qnt r.hdr .q4 .sr r.dst r.a r.b r.c)
  | 0x10 => r.form [r.c.toNat] .any [] [] (.qnt r.hdr .q3 .rn r.dst r.a r.b r.c)
  | 0x11 => r.form [r.c.toNat] .any [] [] (.qnt r.hdr .q3 .rz r.dst r.a r.b r.c)
  | 0x12 => r.form [r.c.toNat] .any [] [] (.qnt r.hdr .q3 .rd r.dst r.a r.b r.c)
  | 0x13 => r.form [r.c.toNat] .any [] [] (.qnt r.hdr .q3 .ru r.dst r.a r.b r.c)
  | 0x14 => r.form [] .any [] [] (.qnt r.hdr .q3 .sr r.dst r.a r.b r.c)
  | 0x18 => r.form [r.b.toNat, r.c.toNat] .any [] [] (.qpk r.hdr .q4 r.dst r.a)
  | 0x20 => r.form [r.b.toNat, r.c.toNat] .any [] [] (.qpk r.hdr .q3 r.dst r.a)
  | 0x28 => r.form [r.b.toNat, r.c.toNat] .any [] [] (.qunpk r.hdr .q4 r.dst r.a)
  | 0x30 => r.form [r.b.toNat, r.c.toNat] .any [] [] (.qunpk r.hdr .q3 r.dst r.a)
  | 0x38 => r.form [r.b.toNat, r.c.toNat] .any [] [] (.spmk r.hdr r.dst r.a)
  | 0x40 => r.form [r.c.toNat] .any [] [] (.spcmp r.hdr r.dst r.a r.b)
  | n => .error (if [1, 2, 3, 4, 5, 6, 7, 8].contains (n / 8) then .reserved 1 else .illegal)

/-- Major 0x15, floating compare (Table 04.9). -/
def decode15 (r : Raw) : Except DecodeError Instr :=
  match r.minor.toNat with
  | 0x08 => r.form [r.c.toNat] .any [] [] (.fset r.hdr .eq r.dst r.a r.b)
  | 0x10 => r.form [r.c.toNat] .any [] [] (.fset r.hdr .ne r.dst r.a r.b)
  | 0x18 => r.form [r.c.toNat] .any [] [] (.fset r.hdr .lt r.dst r.a r.b)
  | 0x20 => r.form [r.c.toNat] .any [] [] (.fset r.hdr .le r.dst r.a r.b)
  | 0x28 => r.form [r.c.toNat] .any [] [] (.fset r.hdr .un r.dst r.a r.b)
  | 0x30 => r.form [r.b.toNat, r.c.toNat] .any [] [] (.fclass r.hdr r.dst r.a)
  | n => .error (if [1, 2, 3, 4, 5, 6].contains (n / 8) then .reserved 1 else .illegal)

/-- Major 0x20, direct branch and call (Table 05.3). -/
def decode20 (r : Raw) : Except DecodeError Instr :=
  match r.minor.toNat with
  | 0x01 => r.form [r.dst.toNat] .any [] [] (.bra r.hdr (r.a ++ r.b ++ r.c))
  | 0x02 => r.form [r.dst.toNat] .any [] [] (.braAll r.hdr (r.a ++ r.b ++ r.c))
  | 0x03 => r.form [r.dst.toNat] .any [] [] (.braNone r.hdr (r.a ++ r.b ++ r.c))
  | 0x08 => r.form [] .any [r.dst] [] (.call r.hdr r.dst (r.a ++ r.b ++ r.c))
  | _ => .error .illegal

/-- Major 0x21, indirect jump, return, `EXIT`, `NOP` (Table 05.4). -/
def decode21 (r : Raw) : Except DecodeError Instr :=
  match r.minor.toNat with
  | 0x01 => r.form [r.dst.toNat, r.b.toNat, r.c.toNat] .any [r.a] [] (.jmp r.hdr r.a)
  | 0x02 => r.form [r.b.toNat, r.c.toNat] .any [r.dst, r.a] [] (.jmpl r.hdr r.dst r.a)
  | 0x03 => r.form [r.dst.toNat, r.b.toNat, r.c.toNat] .any [r.a] [] (.ret r.hdr r.a)
  | 0x08 => r.form [r.dst.toNat, r.a.toNat, r.b.toNat, r.c.toNat] .none [] [] (.exit r.hdr)
  | 0x10 => r.form [r.dst.toNat, r.a.toNat, r.b.toNat, r.c.toNat] .any [] [] (.nop r.hdr)
  | _ => .error .illegal

/-- Major 0x22, execution mask (Table 05.5). -/
def decode22 (r : Raw) : Except DecodeError Instr :=
  match r.minor.toNat with
  | 0x01 => r.form [r.b.toNat, r.c.toNat] .none [] [] (.mand r.hdr r.dst r.a)
  | 0x02 => r.form [r.b.toNat, r.c.toNat] .none [] [] (.mandn r.hdr r.dst r.a)
  | 0x03 => r.form [r.dst.toNat, r.b.toNat, r.c.toNat] .none [] [] (.melse r.hdr r.a)
  | 0x04 => r.form [r.dst.toNat, r.b.toNat, r.c.toNat] .none [] [] (.mset r.hdr r.a)
  | 0x08 => r.form [r.b.toNat, r.c.toNat] .none [] [] (.mvote r.hdr r.dst r.a)
  | _ => .error .illegal

/-- Major 0x23, meld (Table 05.6). A MELD whose a is 64 to 255 is illegal with no subcode named: the model reports subcode 1 (R165; log
entry 12, DEDUCED). -/
def decode23 (r : Raw) : Except DecodeError Instr :=
  match r.minor.toNat with
  | 0x01 => r.form [r.dst.toNat, r.a.toNat / 64, r.b.toNat, r.c.toNat] .none [] [] (.meld r.hdr (r.a.setWidth 6))
  | 0x02 => r.form [r.dst.toNat, r.a.toNat, r.b.toNat, r.c.toNat] .none [] [] (.endmeld r.hdr)
  | 0x08 => r.form [r.dst.toNat / 16, r.c.toNat] .none [] [] (.rnm r.hdr (r.dst.setWidth 4) r.a r.b)
  | _ => .error .illegal

/-- Major 0x24, spawning branch (Table 05.7). -/
def decode24 (r : Raw) : Except DecodeError Instr :=
  match r.minor.toNat with
  | 0x01 => r.form [] .must [] [] (.brs r.hdr r.dst (r.a ++ r.b ++ r.c))
  | _ => .error .illegal

/-- Major 0x25, windows and loops (Table 05.8). -/
def decode25 (r : Raw) : Except DecodeError Instr :=
  match r.minor.toNat with
  | 0x01 => r.form [r.dst.toNat, r.b.toNat, r.c.toNat] .none [] [] (.align r.hdr r.a)
  | 0x02 => r.form [r.dst.toNat, r.a.toNat, r.b.toNat, r.c.toNat] .none [] [] (.unalign r.hdr)
  | 0x10 => r.form [r.dst.toNat, r.a.toNat] .none [] [] (.loop r.hdr 0 (r.b ++ r.c))
  | 0x11 => r.form [r.dst.toNat, r.a.toNat] .none [] [] (.loop r.hdr 1 (r.b ++ r.c))
  | 0x12 => r.form [r.dst.toNat, r.a.toNat] .none [] [] (.loop r.hdr 2 (r.b ++ r.c))
  | 0x13 => r.form [r.dst.toNat, r.a.toNat] .none [] [] (.loop r.hdr 3 (r.b ++ r.c))
  | 0x14 => r.form [r.dst.toNat, r.a.toNat] .none [] [] (.loop r.hdr 4 (r.b ++ r.c))
  | 0x15 => r.form [r.dst.toNat, r.a.toNat] .none [] [] (.loop r.hdr 5 (r.b ++ r.c))
  | _ => .error .illegal

/-- Major 0x28, loads (Table 06.8a). -/
def decode28 (r : Raw) : Except DecodeError Instr :=
  match r.minor.toNat with
  | 0x01 => r.form [] .any [] [] (.ld r.hdr .priv .ui8 r.dst r.a (r.b ++ r.c))
  | 0x02 => r.form [] .any [] [] (.ld r.hdr .priv .si8 r.dst r.a (r.b ++ r.c))
  | 0x03 => r.form [] .any [] [] (.ld r.hdr .priv .ui16 r.dst r.a (r.b ++ r.c))
  | 0x04 => r.form [] .any [] [] (.ld r.hdr .priv .si16 r.dst r.a (r.b ++ r.c))
  | 0x05 => r.form [] .any [] [] (.ld r.hdr .priv .w32 r.dst r.a (r.b ++ r.c))
  | 0x06 => r.form [] .any [r.dst] [] (.ld r.hdr .priv .w64 r.dst r.a (r.b ++ r.c))
  | 0x07 => r.form [] .any [] [r.dst] (.ld r.hdr .priv .w128 r.dst r.a (r.b ++ r.c))
  | 0x11 => r.form [] .any [] [] (.ld r.hdr .clus .ui8 r.dst r.a (r.b ++ r.c))
  | 0x12 => r.form [] .any [] [] (.ld r.hdr .clus .si8 r.dst r.a (r.b ++ r.c))
  | 0x13 => r.form [] .any [] [] (.ld r.hdr .clus .ui16 r.dst r.a (r.b ++ r.c))
  | 0x14 => r.form [] .any [] [] (.ld r.hdr .clus .si16 r.dst r.a (r.b ++ r.c))
  | 0x15 => r.form [] .any [] [] (.ld r.hdr .clus .w32 r.dst r.a (r.b ++ r.c))
  | 0x16 => r.form [] .any [r.dst] [] (.ld r.hdr .clus .w64 r.dst r.a (r.b ++ r.c))
  | 0x17 => r.form [] .any [] [r.dst] (.ld r.hdr .clus .w128 r.dst r.a (r.b ++ r.c))
  | 0x21 => r.form [] .any [r.a] [] (.ld r.hdr .glob .ui8 r.dst r.a (r.b ++ r.c))
  | 0x22 => r.form [] .any [r.a] [] (.ld r.hdr .glob .si8 r.dst r.a (r.b ++ r.c))
  | 0x23 => r.form [] .any [r.a] [] (.ld r.hdr .glob .ui16 r.dst r.a (r.b ++ r.c))
  | 0x24 => r.form [] .any [r.a] [] (.ld r.hdr .glob .si16 r.dst r.a (r.b ++ r.c))
  | 0x25 => r.form [] .any [r.a] [] (.ld r.hdr .glob .w32 r.dst r.a (r.b ++ r.c))
  | 0x26 => r.form [] .any [r.dst, r.a] [] (.ld r.hdr .glob .w64 r.dst r.a (r.b ++ r.c))
  | 0x27 => r.form [] .any [r.a] [r.dst] (.ld r.hdr .glob .w128 r.dst r.a (r.b ++ r.c))
  | _ => .error .illegal

/-- Major 0x29, stores and line maintenance (Table 06.8b). -/
def decode29 (r : Raw) : Except DecodeError Instr :=
  match r.minor.toNat with
  | 0x01 => r.form [] .any [] [] (.st r.hdr .priv .w8 r.dst r.a (r.b ++ r.c))
  | 0x03 => r.form [] .any [] [] (.st r.hdr .priv .w16 r.dst r.a (r.b ++ r.c))
  | 0x05 => r.form [] .any [] [] (.st r.hdr .priv .w32 r.dst r.a (r.b ++ r.c))
  | 0x06 => r.form [] .any [r.dst] [] (.st r.hdr .priv .w64 r.dst r.a (r.b ++ r.c))
  | 0x07 => r.form [] .any [] [r.dst] (.st r.hdr .priv .w128 r.dst r.a (r.b ++ r.c))
  | 0x11 => r.form [] .any [] [] (.st r.hdr .clus .w8 r.dst r.a (r.b ++ r.c))
  | 0x13 => r.form [] .any [] [] (.st r.hdr .clus .w16 r.dst r.a (r.b ++ r.c))
  | 0x15 => r.form [] .any [] [] (.st r.hdr .clus .w32 r.dst r.a (r.b ++ r.c))
  | 0x16 => r.form [] .any [r.dst] [] (.st r.hdr .clus .w64 r.dst r.a (r.b ++ r.c))
  | 0x17 => r.form [] .any [] [r.dst] (.st r.hdr .clus .w128 r.dst r.a (r.b ++ r.c))
  | 0x21 => r.form [] .any [r.a] [] (.st r.hdr .glob .w8 r.dst r.a (r.b ++ r.c))
  | 0x23 => r.form [] .any [r.a] [] (.st r.hdr .glob .w16 r.dst r.a (r.b ++ r.c))
  | 0x25 => r.form [] .any [r.a] [] (.st r.hdr .glob .w32 r.dst r.a (r.b ++ r.c))
  | 0x26 => r.form [] .any [r.dst, r.a] [] (.st r.hdr .glob .w64 r.dst r.a (r.b ++ r.c))
  | 0x27 => r.form [] .any [r.a] [r.dst] (.st r.hdr .glob .w128 r.dst r.a (r.b ++ r.c))
  | 0x28 => r.form [r.dst.toNat] .any [r.a] [] (.flushG r.hdr r.a (r.b ++ r.c))
  | 0x29 => r.form [r.dst.toNat] .any [r.a] [] (.invalG r.hdr r.a (r.b ++ r.c))
  | _ => .error .illegal

/-- Major 0x2A, stream open and close (Table 06.8c). -/
def decode2A (r : Raw) : Except DecodeError Instr :=
  match r.minor.toNat with
  | 0x01 => r.form [r.dst.toNat / 8, r.c.toNat] .any [] [] (.sopenLd r.hdr (r.dst.setWidth 3) r.a r.b)
  | 0x02 => r.form [r.dst.toNat / 8, r.c.toNat] .any [] [] (.sopenSt r.hdr (r.dst.setWidth 3) r.a r.b)
  | 0x08 => r.form [r.dst.toNat / 8, r.a.toNat, r.b.toNat, r.c.toNat] .any [] [] (.sclose r.hdr (r.dst.setWidth 3))
  | _ => .error .illegal

/-- Major 0x2B, stream data and asynchronous loads (Table 06.8d). -/
def decode2B (r : Raw) : Except DecodeError Instr :=
  match r.minor.toNat with
  | 0x01 => r.form [r.a.toNat / 8, r.b.toNat, r.c.toNat] .any [] [] (.sld r.hdr .w32 r.dst (r.a.setWidth 3))
  | 0x02 => r.form [r.a.toNat / 8, r.b.toNat, r.c.toNat] .any [r.dst] [] (.sld r.hdr .w64 r.dst (r.a.setWidth 3))
  | 0x03 => r.form [r.a.toNat / 8, r.b.toNat, r.c.toNat] .any [] [r.dst] (.sld r.hdr .w128 r.dst (r.a.setWidth 3))
  | 0x09 => r.form [r.dst.toNat / 8, r.b.toNat, r.c.toNat] .any [] [] (.sst r.hdr .w32 (r.dst.setWidth 3) r.a)
  | 0x0A => r.form [r.dst.toNat / 8, r.b.toNat, r.c.toNat] .any [r.a] [] (.sst r.hdr .w64 (r.dst.setWidth 3) r.a)
  | 0x0B => r.form [r.dst.toNat / 8, r.b.toNat, r.c.toNat] .any [] [r.a] (.sst r.hdr .w128 (r.dst.setWidth 3) r.a)
  | 0x10 => r.form [r.a.toNat / 8, r.b.toNat, r.c.toNat] .any [] [] (.sstat r.hdr r.dst (r.a.setWidth 3))
  | 0x11 => r.form [r.a.toNat / 8, r.b.toNat, r.c.toNat] .any [] [] (.sstatStall r.hdr r.dst (r.a.setWidth 3))
  | 0x12 => r.form [r.a.toNat / 8, r.b.toNat, r.c.toNat] .any [] [] (.sstatPoison r.hdr r.dst (r.a.setWidth 3))
  | 0x21 => r.form [r.c.toNat] .any [] [] (.lda r.hdr .priv .w32 r.dst r.a r.b)
  | 0x22 => r.form [r.c.toNat] .any [r.dst] [] (.lda r.hdr .priv .w64 r.dst r.a r.b)
  | 0x23 => r.form [r.c.toNat] .any [] [r.dst] (.lda r.hdr .priv .w128 r.dst r.a r.b)
  | 0x25 => r.form [r.c.toNat] .any [] [] (.lda r.hdr .clus .w32 r.dst r.a r.b)
  | 0x26 => r.form [r.c.toNat] .any [r.dst] [] (.lda r.hdr .clus .w64 r.dst r.a r.b)
  | 0x27 => r.form [r.c.toNat] .any [] [r.dst] (.lda r.hdr .clus .w128 r.dst r.a r.b)
  | 0x29 => r.form [r.c.toNat] .any [r.a] [] (.lda r.hdr .glob .w32 r.dst r.a r.b)
  | 0x2A => r.form [r.c.toNat] .any [r.dst, r.a] [] (.lda r.hdr .glob .w64 r.dst r.a r.b)
  | 0x2B => r.form [r.c.toNat] .any [r.a] [r.dst] (.lda r.hdr .glob .w128 r.dst r.a r.b)
  | _ => .error .illegal

/-- Major 0x2C, cluster-bank mode (Table 06.8e). -/
def decode2C (r : Raw) : Except DecodeError Instr :=
  match r.minor.toNat with
  | 0x01 => r.form [r.c.toNat] .any [] [] (.bankmode r.hdr r.dst r.a r.b)
  | 0x02 => r.form [r.c.toNat] .any [] [] (.bankq r.hdr r.dst r.a r.b)
  | _ => .error .illegal

/-- Major 0x30, atomics (Table 07.3): the scope stands in the low four bits of the minor. -/
def decode30 (r : Raw) : Except DecodeError Instr :=
  let sc := r.minor.setWidth 4
  match r.minor.toNat / 16 with
  | 0 => r.control true [r.b.toNat] .any [r.dst] (fun sp w => .ldaq r.hdr sc sp w r.dst r.a)
  | 1 => r.control true [r.dst.toNat] .any [r.b] (fun sp w => .strl r.hdr sc sp w r.a r.b)
  | 2 => r.control true [] .any [r.dst, r.b] (fun sp w => .atomAdd r.hdr sc sp w r.dst r.a r.b)
  | 3 => r.control false [] .any [] (fun sp _ => .atomAddF32 r.hdr sc sp r.dst r.a r.b)
  | 4 => r.control false [] .any [] (fun sp _ => .atomMin r.hdr .si32 sc sp r.dst r.a r.b)
  | 5 => r.control false [] .any [] (fun sp _ => .atomMin r.hdr .ui32 sc sp r.dst r.a r.b)
  | 6 => r.control false [] .any [] (fun sp _ => .atomMax r.hdr .si32 sc sp r.dst r.a r.b)
  | 7 => r.control false [] .any [] (fun sp _ => .atomMax r.hdr .ui32 sc sp r.dst r.a r.b)
  | 8 => r.control true [] .any [r.dst, r.b] (fun sp w => .atomAnd r.hdr sc sp w r.dst r.a r.b)
  | 9 => r.control true [] .any [r.dst, r.b] (fun sp w => .atomOr r.hdr sc sp w r.dst r.a r.b)
  | 10 => r.control true [] .any [r.dst, r.b] (fun sp w => .atomXor r.hdr sc sp w r.dst r.a r.b)
  | 11 => r.control true [] .any [r.dst, r.b] (fun sp w => .atomExch r.hdr sc sp w r.dst r.a r.b)
  | 12 => r.control true [] .any [r.dst, r.b] (fun sp w => .atomCas r.hdr sc sp w r.dst r.a r.b)
  | 13 => r.control false [] .any [] (fun sp _ => .atomInc r.hdr sc sp r.dst r.a r.b)
  | _ => .error .illegal

/-- Major 0x31, reductions (Table 07.3): the scope stands in the low four bits of the minor. -/
def decode31 (r : Raw) : Except DecodeError Instr :=
  let sc := r.minor.setWidth 4
  match r.minor.toNat / 16 with
  | 2 => r.control true [r.dst.toNat] .any [r.b] (fun sp w => .redAdd r.hdr sc sp w r.a r.b)
  | 3 => r.control false [r.dst.toNat] .any [] (fun sp _ => .redAddF32 r.hdr sc sp r.a r.b)
  | 4 => r.control false [r.dst.toNat] .any [] (fun sp _ => .redMin r.hdr .si32 sc sp r.a r.b)
  | 5 => r.control false [r.dst.toNat] .any [] (fun sp _ => .redMin r.hdr .ui32 sc sp r.a r.b)
  | 6 => r.control false [r.dst.toNat] .any [] (fun sp _ => .redMax r.hdr .si32 sc sp r.a r.b)
  | 7 => r.control false [r.dst.toNat] .any [] (fun sp _ => .redMax r.hdr .ui32 sc sp r.a r.b)
  | 8 => r.control true [r.dst.toNat] .any [r.b] (fun sp w => .redAnd r.hdr sc sp w r.a r.b)
  | 9 => r.control true [r.dst.toNat] .any [r.b] (fun sp w => .redOr r.hdr sc sp w r.a r.b)
  | 10 => r.control true [r.dst.toNat] .any [r.b] (fun sp w => .redXor r.hdr sc sp w r.a r.b)
  | _ => .error .illegal

/-- Major 0x32, fences (Table 07.3): the scope stands in the low four bits of the minor. -/
def decode32 (r : Raw) : Except DecodeError Instr :=
  let sc := r.minor.setWidth 4
  match r.minor.toNat / 16 with
  | 1 => r.form [r.dst.toNat, r.a.toNat, r.b.toNat, r.c.toNat] .any [] [] (.fenceRel r.hdr sc)
  | 2 => r.form [r.dst.toNat, r.a.toNat, r.b.toNat, r.c.toNat] .any [] [] (.fenceAcq r.hdr sc)
  | 3 => r.form [r.dst.toNat, r.a.toNat, r.b.toNat, r.c.toNat] .any [] [] (.fenceAr r.hdr sc)
  | _ => .error .illegal

/-- Major 0x36, named barriers (Table 08.3). -/
def decode36 (r : Raw) : Except DecodeError Instr :=
  match r.minor.toNat with
  | 0x01 => r.form [r.dst.toNat, r.b.toNat / 16, r.c.toNat] .none [] [] (.binit r.hdr (r.b.setWidth 4) r.a)
  | 0x02 => r.form [r.dst.toNat, r.a.toNat, r.b.toNat / 16, r.c.toNat] .none [] [] (.barv r.hdr (r.b.setWidth 4))
  | 0x03 => r.form [r.dst.toNat, r.b.toNat / 16, r.c.toNat] .none [] [] (.barvExp r.hdr (r.b.setWidth 4) r.a)
  | 0x04 => r.form [r.dst.toNat, r.b.toNat / 16, r.c.toNat] .none [] [] (.bexp r.hdr (r.b.setWidth 4) r.a)
  | 0x05 => r.form [r.dst.toNat, r.a.toNat, r.b.toNat / 16, r.c.toNat] .none [] [] (.bdrop r.hdr (r.b.setWidth 4))
  | 0x08 => r.form [r.b.toNat / 16, r.c.toNat] .none [r.dst] [] (.bwait r.hdr r.dst (r.b.setWidth 4) r.a)
  | 0x09 => r.form [r.a.toNat, r.b.toNat / 16, r.c.toNat] .none [r.dst] [] (.btest r.hdr r.dst (r.b.setWidth 4))
  | 0x0A => r.form [r.dst.toNat, r.a.toNat, r.b.toNat / 16, r.c.toNat] .none [] [] (.bsync r.hdr (r.b.setWidth 4))
  | _ => .error .illegal

/-- Major 0x37, queue ports (Table 08.4). -/
def decode37 (r : Raw) : Except DecodeError Instr :=
  match r.minor.toNat with
  | 0x01 => r.form [r.dst.toNat / 8, r.b.toNat, r.c.toNat] .none [] [] (.qmovPush r.hdr (r.dst.setWidth 3) r.a)
  | 0x02 => r.form [r.a.toNat / 8, r.b.toNat, r.c.toNat] .none [] [] (.qmovPop r.hdr r.dst (r.a.setWidth 3))
  | 0x03 => r.form [r.a.toNat / 8, r.b.toNat, r.c.toNat] .none [] [] (.qmovPeek r.hdr r.dst (r.a.setWidth 3))
  | 0x08 => r.form [r.a.toNat / 8, r.b.toNat, r.c.toNat] .none [] [] (.qmovStat r.hdr r.dst (r.a.setWidth 3))
  | _ => .error .illegal

/-- Major 0x38, join counters (Table 08.5): the scope stands in the low four bits of the minor. -/
def decode38 (r : Raw) : Except DecodeError Instr :=
  let sc := r.minor.setWidth 4
  match r.minor.toNat / 16 with
  | 1 => r.control false [r.dst.toNat] .none [] (fun sp _ => .jadd r.hdr sc sp r.a r.b)
  | 2 => r.control false [r.dst.toNat, r.b.toNat] .none [] (fun sp _ => .jarr r.hdr sc sp r.a)
  | 3 => r.control false [r.dst.toNat, r.b.toNat] .none [] (fun sp _ => .jwait r.hdr sc sp r.a)
  | 4 => r.control false [r.b.toNat] .none [] (fun sp _ => .jpoll r.hdr sc sp r.dst r.a)
  | _ => .error .illegal

/-- Major 0x3A, bulk copy and drain (Table 09.2). -/
def decode3A (r : Raw) : Except DecodeError Instr :=
  match r.minor.toNat with
  | 0x01 => r.form [r.dst.toNat / 16] .any [r.c] [] (.cpyG2p r.hdr (r.dst.setWidth 4) r.a r.b r.c)
  | 0x02 => r.form [r.dst.toNat / 16, r.c.toNat] .any [] [] (.cpyP2g r.hdr (r.dst.setWidth 4) r.a r.b r.c)
  | 0x03 => r.form [r.dst.toNat / 16] .any [r.c] [] (.cpyC2p r.hdr (r.dst.setWidth 4) r.a r.b r.c)
  | 0x04 => r.form [r.dst.toNat / 16, r.c.toNat] .any [] [] (.cpyP2c r.hdr (r.dst.setWidth 4) r.a r.b r.c)
  | 0x05 => r.form [r.dst.toNat / 16] .any [r.c] [] (.cpyG2c r.hdr (r.dst.setWidth 4) r.a r.b r.c)
  | 0x08 => r.form [r.dst.toNat / 16, r.c.toNat] .any [r.a, r.b] [] (.cpylG r.hdr (r.dst.setWidth 4) r.a r.b)
  | 0x10 => r.form [r.dst.toNat / 16, r.c.toNat] .any [] [] (.drnSt r.hdr (r.dst.setWidth 4) r.a r.b)
  | 0x11 => r.form [r.dst.toNat / 16, r.c.toNat] .any [] [] (.drnAdd r.hdr (r.dst.setWidth 4) r.a r.b)
  | 0x18 => r.form [r.a.toNat, r.b.toNat, r.c.toNat] .none [] [r.dst] (.cperr r.hdr r.dst)
  | _ => .error .illegal

/-- Major 0x3B, block table (Table 09.3). -/
def decode3B (r : Raw) : Except DecodeError Instr :=
  match r.minor.toNat with
  | 0x01 => r.form [] .none [] [] (.btalloc r.hdr r.dst r.a r.b r.c)
  | 0x02 => r.form [] .none [] [] (.btshare r.hdr r.dst r.a r.b r.c)
  | 0x03 => r.form [r.c.toNat] .none [] [] (.btcow r.hdr r.dst r.a r.b)
  | 0x04 => r.form [r.c.toNat] .none [] [] (.btfree r.hdr r.dst r.a r.b)
  | 0x08 => r.form [] .none [] [] (.btmove r.hdr r.dst r.a r.b r.c)
  | 0x10 => r.form [r.c.toNat] .none [] [r.dst] (.btrd r.hdr r.dst r.a r.b)
  | 0x11 => r.form [r.b.toNat, r.c.toNat] .none [] [r.dst] (.btstat r.hdr r.dst r.a)
  | _ => .error .illegal

/-- Major 0x3C, matrix issue and weight load (Table 10.6). -/
def decode3C (r : Raw) : Except DecodeError Instr :=
  match r.minor.toNat with
  | 0x40 => r.form [r.dst.toNat, r.c.toNat] .any [] [] (.mma r.hdr .bf16 .q4 r.a r.b)
  | 0x42 => r.form [r.dst.toNat, r.c.toNat] .any [] [] (.mma r.hdr .e4m3 .q4 r.a r.b)
  | 0x44 => r.form [r.dst.toNat, r.c.toNat] .any [] [] (.mma r.hdr .e5m2 .q4 r.a r.b)
  | 0x48 => r.form [r.dst.toNat, r.c.toNat] .any [] [] (.mma r.hdr .bf16 .q3 r.a r.b)
  | 0x4A => r.form [r.dst.toNat, r.c.toNat] .any [] [] (.mma r.hdr .e4m3 .q3 r.a r.b)
  | 0x4C => r.form [r.dst.toNat, r.c.toNat] .any [] [] (.mma r.hdr .e5m2 .q3 r.a r.b)
  | 0x50 => r.form [r.dst.toNat, r.c.toNat] .any [] [] (.mma r.hdr .bf16 .e4m3 r.a r.b)
  | 0x52 => r.form [r.dst.toNat, r.c.toNat] .any [] [] (.mma r.hdr .e4m3 .e4m3 r.a r.b)
  | 0x54 => r.form [r.dst.toNat, r.c.toNat] .any [] [] (.mma r.hdr .e5m2 .e4m3 r.a r.b)
  | 0x60 => r.form [r.dst.toNat, r.c.toNat] .any [] [] (.mmaSp r.hdr .bf16 .q4 r.a r.b)
  | 0x62 => r.form [r.dst.toNat, r.c.toNat] .any [] [] (.mmaSp r.hdr .e4m3 .q4 r.a r.b)
  | 0x64 => r.form [r.dst.toNat, r.c.toNat] .any [] [] (.mmaSp r.hdr .e5m2 .q4 r.a r.b)
  | 0x68 => r.form [r.dst.toNat, r.c.toNat] .any [] [] (.mmaSp r.hdr .bf16 .q3 r.a r.b)
  | 0x6A => r.form [r.dst.toNat, r.c.toNat] .any [] [] (.mmaSp r.hdr .e4m3 .q3 r.a r.b)
  | 0x6C => r.form [r.dst.toNat, r.c.toNat] .any [] [] (.mmaSp r.hdr .e5m2 .q3 r.a r.b)
  | 0x70 => r.form [r.dst.toNat, r.c.toNat] .any [] [] (.mmaSp r.hdr .bf16 .e4m3 r.a r.b)
  | 0x72 => r.form [r.dst.toNat, r.c.toNat] .any [] [] (.mmaSp r.hdr .e4m3 .e4m3 r.a r.b)
  | 0x74 => r.form [r.dst.toNat, r.c.toNat] .any [] [] (.mmaSp r.hdr .e5m2 .e4m3 r.a r.b)
  | 0x80 => r.form [r.dst.toNat, r.c.toNat] .any [] [] (.mlw r.hdr .q4 r.a r.b)
  | 0x88 => r.form [r.dst.toNat, r.c.toNat] .any [] [] (.mlw r.hdr .q3 r.a r.b)
  | 0x90 => r.form [r.dst.toNat, r.c.toNat] .any [] [] (.mlw r.hdr .e4m3 r.a r.b)
  | 0xA0 => r.form [r.dst.toNat, r.c.toNat] .any [] [] (.mlwSp r.hdr .q4 r.a r.b)
  | 0xA8 => r.form [r.dst.toNat, r.c.toNat] .any [] [] (.mlwSp r.hdr .q3 r.a r.b)
  | 0xB0 => r.form [r.dst.toNat, r.c.toNat] .any [] [] (.mlwSp r.hdr .e4m3 r.a r.b)
  | _ => .error .illegal

/-- Major 0x3D, scale-and-accumulate (Table 10.7). -/
def decode3D (r : Raw) : Except DecodeError Instr :=
  match r.minor.toNat with
  | 0x01 => r.form [r.dst.toNat, r.b.toNat, r.c.toNat] .none [] [] (.aclr r.hdr r.a)
  | 0x02 => r.form [r.c.toNat] .any [] [] (.ard r.hdr r.dst r.a r.b)
  | 0x03 => r.form [r.dst.toNat] .any [] [] (.awr r.hdr r.a r.b r.c)
  | 0x08 => r.form [r.a.toNat, r.b.toNat, r.c.toNat] .none [] [] (.mstat r.hdr r.dst)
  | 0x09 => r.form [r.a.toNat, r.b.toNat, r.c.toNat] .none [] [] (.mstatClr r.hdr r.dst)
  | 0x11 => r.form [r.dst.toNat, r.c.toNat] .none [] [] (.sacc r.hdr false .f32 .col r.a r.b r.c)
  | 0x12 => r.form [r.dst.toNat, r.b.toNat] .none [] [] (.sacc r.hdr false .f32 .row r.a r.b r.c)
  | 0x13 => r.form [r.dst.toNat] .none [] [] (.sacc r.hdr false .f32 .rc r.a r.b r.c)
  | 0x15 => r.form [r.dst.toNat, r.c.toNat] .none [] [] (.sacc r.hdr false .bf16 .col r.a r.b r.c)
  | 0x16 => r.form [r.dst.toNat, r.b.toNat] .none [] [] (.sacc r.hdr false .bf16 .row r.a r.b r.c)
  | 0x17 => r.form [r.dst.toNat] .none [] [] (.sacc r.hdr false .bf16 .rc r.a r.b r.c)
  | 0x19 => r.form [r.dst.toNat, r.c.toNat] .none [] [] (.sacc r.hdr true .f32 .col r.a r.b r.c)
  | 0x1A => r.form [r.dst.toNat, r.b.toNat] .none [] [] (.sacc r.hdr true .f32 .row r.a r.b r.c)
  | 0x1B => r.form [r.dst.toNat] .none [] [] (.sacc r.hdr true .f32 .rc r.a r.b r.c)
  | 0x1D => r.form [r.dst.toNat, r.c.toNat] .none [] [] (.sacc r.hdr true .bf16 .col r.a r.b r.c)
  | 0x1E => r.form [r.dst.toNat, r.b.toNat] .none [] [] (.sacc r.hdr true .bf16 .row r.a r.b r.c)
  | 0x1F => r.form [r.dst.toNat] .none [] [] (.sacc r.hdr true .bf16 .rc r.a r.b r.c)
  | _ => .error .illegal

/-- Major 0x3E, launch and role (Table 11.8). -/
def decode3E (r : Raw) : Except DecodeError Instr :=
  match r.minor.toNat with
  | 0x01 => r.form [r.dst.toNat, r.b.toNat, r.c.toNat] .none [] [] (.opb r.hdr r.a)
  | 0x08 => r.form [r.dst.toNat, r.a.toNat, r.b.toNat, r.c.toNat] .none [] [] (.taskend r.hdr)
  | 0x10 => r.form [r.dst.toNat, r.b.toNat, r.c.toNat] .none [] [] (.prio r.hdr r.a)
  | 0x18 => r.form [r.b.toNat, r.c.toNat] .none [] [] (.wgq r.hdr r.dst r.a)
  | 0x20 => r.form [r.dst.toNat, r.b.toNat, r.c.toNat] .none [] [] (.pktst r.hdr r.a)
  | _ => .error .illegal

/-- Major 0x3F, system, trap and special registers (Table 12.7). -/
def decode3F (r : Raw) : Except DecodeError Instr :=
  match r.minor.toNat with
  | 0x01 => r.formIf (srListed (r.b ++ r.c).toNat) 5 [r.a.toNat] .any (.srd r.hdr r.dst (r.b ++ r.c))
  | 0x02 => r.formIf (srWritable (r.b ++ r.c).toNat) 5 [r.dst.toNat] .any (.swr r.hdr r.a (r.b ++ r.c))
  | 0x08 => r.form [r.dst.toNat, r.a.toNat, r.b.toNat, r.c.toNat] .none [] [] (.tret r.hdr)
  | 0x09 => r.form [r.dst.toNat, r.a.toNat, r.b.toNat, r.c.toNat] .none [] [] (.tretNext r.hdr)
  | 0x10 => r.form [r.dst.toNat, r.a.toNat] .any [] [] (.brk r.hdr (r.b ++ r.c))
  | 0x11 => r.form [r.dst.toNat, r.a.toNat] .any [] [] (.trapi r.hdr (r.b ++ r.c))
  | 0x18 => r.formIf (decide ((r.b ++ r.c).toNat < 16)) 4 [r.a.toNat] .none (.xrd r.hdr r.dst (r.b ++ r.c))
  | 0x19 => r.formIf (decide ((r.b ++ r.c).toNat < 16)) 4 [r.dst.toNat] .none (.xwr r.hdr r.a (r.b ++ r.c))
  | 0x1A => r.formIf (itemListed (r.b ++ r.c).toNat) 5 [r.a.toNat] .none (.cxrd r.hdr r.dst (r.b ++ r.c))
  | 0x1B => r.formIf (itemWritable (r.b ++ r.c).toNat) 5 [r.dst.toNat] .none (.cxwr r.hdr r.a (r.b ++ r.c))
  | 0x20 => r.form [r.b.toNat, r.c.toNat] .none [r.dst] [] (.pmrd r.hdr r.dst r.a)
  | 0x21 => r.form [r.dst.toNat, r.a.toNat, r.b.toNat, r.c.toNat] .none [] [] (.pmrst r.hdr)
  | 0x28 => r.form [r.b.toNat, r.c.toNat] .none [] [] (.genwait r.hdr r.dst r.a)
  | 0x30 => r.form [r.dst.toNat, r.b.toNat, r.c.toNat] .none [] [] (.wgabort r.hdr r.a)
  | _ => .error .illegal

/-- The instruction of a word laid out in fields, or the cause its encoding raises (R43, R54, R55). -/
def decodeRaw (r : Raw) : Except DecodeError Instr :=
  match r.major.toNat with
  | 0x00 => decode00 r
  | 0x01 => decode01 r
  | 0x02 => r.form [] .any [] [] (.li r.hdr r.dst (r.a ++ r.b ++ r.c ++ r.minor))
  | 0x03 => decode03 r
  | 0x04 => decode04 r
  | 0x05 => decode05 r
  | 0x06 => decode06 r
  | 0x10 => decode10 r
  | 0x11 => decode11 r
  | 0x12 => decode12 r
  | 0x13 => decode13 r
  | 0x14 => decode14 r
  | 0x15 => decode15 r
  | 0x20 => decode20 r
  | 0x21 => decode21 r
  | 0x22 => decode22 r
  | 0x23 => decode23 r
  | 0x24 => decode24 r
  | 0x25 => decode25 r
  | 0x28 => decode28 r
  | 0x29 => decode29 r
  | 0x2A => decode2A r
  | 0x2B => decode2B r
  | 0x2C => decode2C r
  | 0x30 => decode30 r
  | 0x31 => decode31 r
  | 0x32 => decode32 r
  | 0x36 => decode36 r
  | 0x37 => decode37 r
  | 0x38 => decode38 r
  | 0x3A => decode3A r
  | 0x3B => decode3B r
  | 0x3C => decode3C r
  | 0x3D => decode3D r
  | 0x3E => decode3E r
  | 0x3F => decode3F r
  | _ => .error .illegal

/-- The instruction a Vodon word stands for. -/
def decodeVodon (w : BitVec 64) : Except DecodeError Instr := decodeRaw (Raw.ofWord w)

/-- The Ghendi instruction a Kudu word stands for (Table 13.2): opcode custom-0, funct3 0 to 5. A custom-0 word with a
reserved field not zero or another funct3 is an illegal instruction, and so is custom-1, custom-2 or custom-3; every other word belongs to the RISC-V base. -/
def decodeKudu (w : BitVec 32) : Except DecodeError Instr :=
  let rd := w.extractLsb' 7 5
  let rs1 := w.extractLsb' 15 5
  let rs2 := w.extractLsb' 20 5
  let rs3 := w.extractLsb' 27 5
  let op := w.extractLsb' 0 7
  if op = 0x2B#7 ∨ op = 0x5B#7 ∨ op = 0x7B#7 then .error .illegal
  else if op ≠ 0x0B#7 then .error .base
  else match (w.extractLsb' 12 3).toNat with
    | 0 => if w.extractLsb' 25 2 = 0 then .ok (.vspawn rd rs1 rs2 rs3) else .error .illegal
    | 1 => if w.extractLsb' 20 12 = 0 then .ok (.vjoin rd rs1) else .error .illegal
    | 2 => if w.extractLsb' 20 12 = 0 then .ok (.vpoll rd rs1) else .error .illegal
    | 3 => if w.extractLsb' 25 7 = 0 then .ok (.vjadd rd rs1 rs2) else .error .illegal
    | 4 => if w.extractLsb' 25 7 = 0 then .ok (.vqbind rd rs1 rs2) else .error .illegal
    | 5 => if w.extractLsb' 15 17 = 0 then .ok (.vqwait rd) else .error .illegal
    | _ => .error .illegal

/-- Eight bytes as a Vodon word, four as a Kudu word, little-endian (R1, R33); other lengths are no instruction. -/
def decodeBytes (bs : List Byte) : Except DecodeError Instr :=
  if bs.length = 8 then decodeVodon (BitVec.ofNat 64 (Machine.leNat bs))
  else if bs.length = 4 then decodeKudu (BitVec.ofNat 32 (Machine.leNat bs))
  else .error .illegal

/-- The instruction the decoder reads from a word numbered as the opcode table numbers it: both instruction sets have one
word an instruction, so the numbering is the word's own; 32 bits for Kudu, 64 for Vodon. -/
def decodeTableWord (nbits w : Nat) : Option Instr :=
  match (if nbits ≤ 32 then decodeKudu (BitVec.ofNat 32 w) else decodeVodon (BitVec.ofNat 64 w)) with
  | .ok i => some i
  | .error _ => none

/-! ## The encoder -/

/-- The fields of a Vodon instruction's word; none for a Kudu instruction or an event. -/
def encodeRaw : Instr → Option Raw
  | .abs h dst a => some ⟨h.gap, 0x4, h.g, h.sense, h.guard, dst, a, 0, 0, 0x24⟩
  | .add h dst a b => some ⟨h.gap, 0x0, h.g, h.sense, h.guard, dst, a, b, 0, 0x1⟩
  | .addImm h dst a imm => some ⟨h.gap, 0x1, h.g, h.sense, h.guard, dst, a, (imm.extractLsb' 8 8), (imm.extractLsb' 0 8), 0x1⟩
  | .sub h dst a b => some ⟨h.gap, 0x0, h.g, h.sense, h.guard, dst, a, b, 0, 0x2⟩
  | .addSat h ty dst a b => some ⟨h.gap, 0x4, h.g, h.sense, h.guard, dst, a, b, 0, (BitVec.ofNat 8 (0x20 + tyCode ty))⟩
  | .subSat h ty dst a b => some ⟨h.gap, 0x4, h.g, h.sense, h.guard, dst, a, b, 0, (BitVec.ofNat 8 (0x22 + tyCode ty))⟩
  | .add64 h dst a b => some ⟨h.gap, 0x0, h.g, h.sense, h.guard, dst, a, b, 0, 0x20⟩
  | .sub64 h dst a b => some ⟨h.gap, 0x0, h.g, h.sense, h.guard, dst, a, b, 0, 0x21⟩
  | .adda h sc dst a imm => some ⟨h.gap, 0x6, h.g, h.sense, h.guard, dst, a, (imm.extractLsb' 8 8), (imm.extractLsb' 0 8), (BitVec.ofNat 8 (1 + sc.val))⟩
  | .addx h ty sc dst a b => some ⟨h.gap, 0x0, h.g, h.sense, h.guard, dst, a, b, 0, (BitVec.ofNat 8 (0x28 + 8 * tyCode ty + sc.val))⟩
  | .aff h dst a b => some ⟨h.gap, 0x5, h.g, h.sense, h.guard, dst, a, b, 0, 0x1⟩
  | .andR h dst a b => some ⟨h.gap, 0x0, h.g, h.sense, h.guard, dst, a, b, 0, 0x8⟩
  | .andImm h dst a imm => some ⟨h.gap, 0x1, h.g, h.sense, h.guard, dst, a, (imm.extractLsb' 8 8), (imm.extractLsb' 0 8), 0x8⟩
  | .orR h dst a b => some ⟨h.gap, 0x0, h.g, h.sense, h.guard, dst, a, b, 0, 0x9⟩
  | .orImm h dst a imm => some ⟨h.gap, 0x1, h.g, h.sense, h.guard, dst, a, (imm.extractLsb' 8 8), (imm.extractLsb' 0 8), 0x9⟩
  | .xorR h dst a b => some ⟨h.gap, 0x0, h.g, h.sense, h.guard, dst, a, b, 0, 0xa⟩
  | .xorImm h dst a imm => some ⟨h.gap, 0x1, h.g, h.sense, h.guard, dst, a, (imm.extractLsb' 8 8), (imm.extractLsb' 0 8), 0xa⟩
  | .andn h dst a b => some ⟨h.gap, 0x0, h.g, h.sense, h.guard, dst, a, b, 0, 0xb⟩
  | .bfi h dst a b c => some ⟨h.gap, 0x4, h.g, h.sense, h.guard, dst, a, b, c, 0x3⟩
  | .bfx h ty dst a b => some ⟨h.gap, 0x4, h.g, h.sense, h.guard, dst, a, b, 0, (BitVec.ofNat 8 (2 - tyCode ty))⟩
  | .brev h dst a => some ⟨h.gap, 0x4, h.g, h.sense, h.guard, dst, a, 0, 0, 0x13⟩
  | .clz h dst a => some ⟨h.gap, 0x4, h.g, h.sense, h.guard, dst, a, 0, 0, 0x11⟩
  | .ctz h dst a => some ⟨h.gap, 0x4, h.g, h.sense, h.guard, dst, a, 0, 0, 0x12⟩
  | .popc h dst a => some ⟨h.gap, 0x4, h.g, h.sense, h.guard, dst, a, 0, 0, 0x10⟩
  | .form h dst a => some ⟨h.gap, 0x5, h.g, h.sense, h.guard, dst, a, 0, 0, 0x8⟩
  | .li h dst imm => some ⟨h.gap, 0x2, h.g, h.sense, h.guard, dst, (imm.extractLsb' 24 8), (imm.extractLsb' 16 8), (imm.extractLsb' 8 8), (imm.extractLsb' 0 8)⟩
  | .mul h dst a b => some ⟨h.gap, 0x0, h.g, h.sense, h.guard, dst, a, b, 0, 0x10⟩
  | .mulImm h dst a imm => some ⟨h.gap, 0x1, h.g, h.sense, h.guard, dst, a, (imm.extractLsb' 8 8), (imm.extractLsb' 0 8), 0x10⟩
  | .mad h dst a b c => some ⟨h.gap, 0x0, h.g, h.sense, h.guard, dst, a, b, c, 0x11⟩
  | .min h ty dst a b => some ⟨h.gap, 0x3, h.g, h.sense, h.guard, dst, a, b, 0, (BitVec.ofNat 8 (0x18 + tyCode ty))⟩
  | .max h ty dst a b => some ⟨h.gap, 0x3, h.g, h.sense, h.guard, dst, a, b, 0, (BitVec.ofNat 8 (0x1a + tyCode ty))⟩
  | .mulhi h ty dst a b => some ⟨h.gap, 0x0, h.g, h.sense, h.guard, dst, a, b, 0, (BitVec.ofNat 8 (0x12 + tyCode ty))⟩
  | .mulw h ty dst a b => some ⟨h.gap, 0x0, h.g, h.sense, h.guard, dst, a, b, 0, (BitVec.ofNat 8 (0x14 + tyCode ty))⟩
  | .shl h dst a b => some ⟨h.gap, 0x0, h.g, h.sense, h.guard, dst, a, b, 0, 0x18⟩
  | .shlImm h dst a n => some ⟨h.gap, 0x1, h.g, h.sense, h.guard, dst, a, 0, (n.setWidth 8), 0x18⟩
  | .shr h dst a b => some ⟨h.gap, 0x0, h.g, h.sense, h.guard, dst, a, b, 0, 0x19⟩
  | .shrImm h dst a n => some ⟨h.gap, 0x1, h.g, h.sense, h.guard, dst, a, 0, (n.setWidth 8), 0x19⟩
  | .sra h dst a b => some ⟨h.gap, 0x0, h.g, h.sense, h.guard, dst, a, b, 0, 0x1a⟩
  | .sraImm h dst a n => some ⟨h.gap, 0x1, h.g, h.sense, h.guard, dst, a, 0, (n.setWidth 8), 0x1a⟩
  | .rol h dst a b => some ⟨h.gap, 0x0, h.g, h.sense, h.guard, dst, a, b, 0, 0x1b⟩
  | .rolImm h dst a n => some ⟨h.gap, 0x1, h.g, h.sense, h.guard, dst, a, 0, (n.setWidth 8), 0x1b⟩
  | .sel h dst a b c => some ⟨h.gap, 0x3, h.g, h.sense, h.guard, dst, a, b, c, 0x10⟩
  | .set h cc dst a b => some ⟨h.gap, 0x3, h.g, h.sense, h.guard, dst, a, b, 0, (BitVec.ofNat 8 (setCode cc))⟩
  | .rcp h dst a => some ⟨h.gap, 0x12, h.g, h.sense, h.guard, dst, a, 0, 0, 0x1⟩
  | .rsq h dst a => some ⟨h.gap, 0x12, h.g, h.sense, h.guard, dst, a, 0, 0, 0x2⟩
  | .ex2 h dst a => some ⟨h.gap, 0x12, h.g, h.sense, h.guard, dst, a, 0, 0, 0x3⟩
  | .lg2 h dst a => some ⟨h.gap, 0x12, h.g, h.sense, h.guard, dst, a, 0, 0, 0x4⟩
  | .sin h dst a => some ⟨h.gap, 0x12, h.g, h.sense, h.guard, dst, a, 0, 0, 0x5⟩
  | .cos h dst a => some ⟨h.gap, 0x12, h.g, h.sense, h.guard, dst, a, 0, 0, 0x6⟩
  | .tanh h dst a => some ⟨h.gap, 0x12, h.g, h.sense, h.guard, dst, a, 0, 0, 0x7⟩
  | .cvtF32Si32 h m dst a => some ⟨h.gap, 0x13, h.g, h.sense, h.guard, dst, a, 0, 0, (BitVec.ofNat 8 (0x8 + rndCode m))⟩
  | .cvtF32Ui32 h m dst a => some ⟨h.gap, 0x13, h.g, h.sense, h.guard, dst, a, 0, 0, (BitVec.ofNat 8 (0x10 + rndCode m))⟩
  | .cvtSi32F32 h m dst a => some ⟨h.gap, 0x13, h.g, h.sense, h.guard, dst, a, 0, 0, (BitVec.ofNat 8 (0x18 + rndCode m))⟩
  | .cvtUi32F32 h m dst a => some ⟨h.gap, 0x13, h.g, h.sense, h.guard, dst, a, 0, 0, (BitVec.ofNat 8 (0x20 + rndCode m))⟩
  | .cvtBf16F32 h m dst a b c => some ⟨h.gap, 0x13, h.g, h.sense, h.guard, dst, a, b, c, (BitVec.ofNat 8 (0x30 + rndCode m))⟩
  | .cvtF16F32 h m dst a b c => some ⟨h.gap, 0x13, h.g, h.sense, h.guard, dst, a, b, c, (BitVec.ofNat 8 (0x38 + rndCode m))⟩
  | .cvtE4m3F32 h half m dst a b c => some ⟨h.gap, 0x13, h.g, h.sense, h.guard, dst, a, b, c, (BitVec.ofNat 8 (0x40 + 8 * half.toNat + rndCode m))⟩
  | .cvtE5m2F32 h half m dst a b c => some ⟨h.gap, 0x13, h.g, h.sense, h.guard, dst, a, b, c, (BitVec.ofNat 8 (0x50 + 8 * half.toNat + rndCode m))⟩
  | .cvtF32Bf16 h half dst a => some ⟨h.gap, 0x13, h.g, h.sense, h.guard, dst, a, 0, 0, (BitVec.ofNat 8 (0x60 + half.toNat))⟩
  | .cvtF32F16 h half dst a => some ⟨h.gap, 0x13, h.g, h.sense, h.guard, dst, a, 0, 0, (BitVec.ofNat 8 (0x68 + half.toNat))⟩
  | .cvtF32E4m3 h byte dst a => some ⟨h.gap, 0x13, h.g, h.sense, h.guard, dst, a, 0, 0, (BitVec.ofNat 8 (0x70 + byte.toNat))⟩
  | .cvtF32E5m2 h byte dst a => some ⟨h.gap, 0x13, h.g, h.sense, h.guard, dst, a, 0, 0, (BitVec.ofNat 8 (0x78 + byte.toNat))⟩
  | .fabs h dst a => some ⟨h.gap, 0x10, h.g, h.sense, h.guard, dst, a, 0, 0, 0x50⟩
  | .fneg h dst a => some ⟨h.gap, 0x10, h.g, h.sense, h.guard, dst, a, 0, 0, 0x58⟩
  | .fadd h m dst a b => some ⟨h.gap, 0x10, h.g, h.sense, h.guard, dst, a, b, 0, (BitVec.ofNat 8 (0x8 + rndCode m))⟩
  | .fsub h m dst a b => some ⟨h.gap, 0x10, h.g, h.sense, h.guard, dst, a, b, 0, (BitVec.ofNat 8 (0x10 + rndCode m))⟩
  | .fmul h m dst a b => some ⟨h.gap, 0x10, h.g, h.sense, h.guard, dst, a, b, 0, (BitVec.ofNat 8 (0x18 + rndCode m))⟩
  | .ffma h m dst a b c => some ⟨h.gap, 0x10, h.g, h.sense, h.guard, dst, a, b, c, (BitVec.ofNat 8 (0x20 + rndCode m))⟩
  | .fclass h dst a => some ⟨h.gap, 0x15, h.g, h.sense, h.guard, dst, a, 0, 0, 0x30⟩
  | .fmin h dst a b => some ⟨h.gap, 0x10, h.g, h.sense, h.guard, dst, a, b, 0, 0x40⟩
  | .fmax h dst a b => some ⟨h.gap, 0x10, h.g, h.sense, h.guard, dst, a, b, 0, 0x48⟩
  | .frnd h m dst a => some ⟨h.gap, 0x13, h.g, h.sense, h.guard, dst, a, 0, 0, (BitVec.ofNat 8 (0x28 + rndCode m))⟩
  | .fset h cc dst a b => some ⟨h.gap, 0x15, h.g, h.sense, h.guard, dst, a, b, 0, (BitVec.ofNat 8 (8 * fsetCode cc))⟩
  | .padd h f m dst a b => some ⟨h.gap, 0x11, h.g, h.sense, h.guard, dst, a, b, 0, (BitVec.ofNat 8 (0x10 + 8 * packCode f + rndCode m))⟩
  | .pmul h f m dst a b => some ⟨h.gap, 0x11, h.g, h.sense, h.guard, dst, a, b, 0, (BitVec.ofNat 8 (0x20 + 8 * packCode f + rndCode m))⟩
  | .pfma h f m dst a b c => some ⟨h.gap, 0x11, h.g, h.sense, h.guard, dst, a, b, c, (BitVec.ofNat 8 (0x30 + 8 * packCode f + rndCode m))⟩
  | .pmin h f dst a b => some ⟨h.gap, 0x11, h.g, h.sense, h.guard, dst, a, b, 0, (BitVec.ofNat 8 (0x40 + 8 * packCode f))⟩
  | .pmax h f dst a b => some ⟨h.gap, 0x11, h.g, h.sense, h.guard, dst, a, b, 0, (BitVec.ofNat 8 (0x50 + 8 * packCode f))⟩
  | .pdot h f m dst a b c => some ⟨h.gap, 0x11, h.g, h.sense, h.guard, dst, a, b, c, (BitVec.ofNat 8 (0x60 + 8 * packCode f + rndCode m))⟩
  | .qnt h q m dst a b c => some ⟨h.gap, 0x14, h.g, h.sense, h.guard, dst, a, b, c, (BitVec.ofNat 8 (0x8 + 8 * qCode q + rndCode m))⟩
  | .qpk h q dst a => some ⟨h.gap, 0x14, h.g, h.sense, h.guard, dst, a, 0, 0, (BitVec.ofNat 8 (0x18 + 8 * qCode q))⟩
  | .qunpk h q dst a => some ⟨h.gap, 0x14, h.g, h.sense, h.guard, dst, a, 0, 0, (BitVec.ofNat 8 (0x28 + 8 * qCode q))⟩
  | .spmk h dst a => some ⟨h.gap, 0x14, h.g, h.sense, h.guard, dst, a, 0, 0, 0x38⟩
  | .spcmp h dst a b => some ⟨h.gap, 0x14, h.g, h.sense, h.guard, dst, a, b, 0, 0x40⟩
  | .bra h off => some ⟨h.gap, 0x20, h.g, h.sense, h.guard, 0, (off.extractLsb' 16 8), (off.extractLsb' 8 8), (off.extractLsb' 0 8), 0x1⟩
  | .braAll h off => some ⟨h.gap, 0x20, h.g, h.sense, h.guard, 0, (off.extractLsb' 16 8), (off.extractLsb' 8 8), (off.extractLsb' 0 8), 0x2⟩
  | .braNone h off => some ⟨h.gap, 0x20, h.g, h.sense, h.guard, 0, (off.extractLsb' 16 8), (off.extractLsb' 8 8), (off.extractLsb' 0 8), 0x3⟩
  | .brs h live off => some ⟨h.gap, 0x24, h.g, h.sense, h.guard, live, (off.extractLsb' 16 8), (off.extractLsb' 8 8), (off.extractLsb' 0 8), 0x1⟩
  | .call h link off => some ⟨h.gap, 0x20, h.g, h.sense, h.guard, link, (off.extractLsb' 16 8), (off.extractLsb' 8 8), (off.extractLsb' 0 8), 0x8⟩
  | .endmeld h => some ⟨h.gap, 0x23, h.g, h.sense, h.guard, 0, 0, 0, 0, 0x2⟩
  | .exit h => some ⟨h.gap, 0x21, h.g, h.sense, h.guard, 0, 0, 0, 0, 0x8⟩
  | .jmp h a => some ⟨h.gap, 0x21, h.g, h.sense, h.guard, 0, a, 0, 0, 0x1⟩
  | .jmpl h dst a => some ⟨h.gap, 0x21, h.g, h.sense, h.guard, dst, a, 0, 0, 0x2⟩
  | .ret h a => some ⟨h.gap, 0x21, h.g, h.sense, h.guard, 0, a, 0, 0, 0x3⟩
  | .loop h n off => some ⟨h.gap, 0x25, h.g, h.sense, h.guard, 0, 0, (off.extractLsb' 8 8), (off.extractLsb' 0 8), (BitVec.ofNat 8 (0x10 + n.val))⟩
  | .mand h dst a => some ⟨h.gap, 0x22, h.g, h.sense, h.guard, dst, a, 0, 0, 0x1⟩
  | .mandn h dst a => some ⟨h.gap, 0x22, h.g, h.sense, h.guard, dst, a, 0, 0, 0x2⟩
  | .meld h vp => some ⟨h.gap, 0x23, h.g, h.sense, h.guard, 0, (vp.setWidth 8), 0, 0, 0x1⟩
  | .melse h a => some ⟨h.gap, 0x22, h.g, h.sense, h.guard, 0, a, 0, 0, 0x3⟩
  | .mset h a => some ⟨h.gap, 0x22, h.g, h.sense, h.guard, 0, a, 0, 0, 0x4⟩
  | .mvote h dst a => some ⟨h.gap, 0x22, h.g, h.sense, h.guard, dst, a, 0, 0, 0x8⟩
  | .nop h => some ⟨h.gap, 0x21, h.g, h.sense, h.guard, 0, 0, 0, 0, 0x10⟩
  | .rnm h i x y => some ⟨h.gap, 0x23, h.g, h.sense, h.guard, (i.setWidth 8), x, y, 0, 0x8⟩
  | .align h a => some ⟨h.gap, 0x25, h.g, h.sense, h.guard, 0, a, 0, 0, 0x1⟩
  | .unalign h => some ⟨h.gap, 0x25, h.g, h.sense, h.guard, 0, 0, 0, 0, 0x2⟩
  | .ld h sp k dst a imm => some ⟨h.gap, 0x28, h.g, h.sense, h.guard, dst, a, (imm.extractLsb' 8 8), (imm.extractLsb' 0 8), (BitVec.ofNat 8 (16 * spCode sp + ldCode k))⟩
  | .st h sp k d a imm => some ⟨h.gap, 0x29, h.g, h.sense, h.guard, d, a, (imm.extractLsb' 8 8), (imm.extractLsb' 0 8), (BitVec.ofNat 8 (16 * spCode sp + stCode k))⟩
  | .flushG h a imm => some ⟨h.gap, 0x29, h.g, h.sense, h.guard, 0, a, (imm.extractLsb' 8 8), (imm.extractLsb' 0 8), 0x28⟩
  | .invalG h a imm => some ⟨h.gap, 0x29, h.g, h.sense, h.guard, 0, a, (imm.extractLsb' 8 8), (imm.extractLsb' 0 8), 0x29⟩
  | .lda h sp w dst a tok => some ⟨h.gap, 0x2B, h.g, h.sense, h.guard, dst, a, tok, 0, (BitVec.ofNat 8 (0x21 + 4 * spCode sp + widthCode w))⟩
  | .sopenLd h slot rec coord => some ⟨h.gap, 0x2A, h.g, h.sense, h.guard, (slot.setWidth 8), rec, coord, 0, 0x1⟩
  | .sopenSt h slot rec coord => some ⟨h.gap, 0x2A, h.g, h.sense, h.guard, (slot.setWidth 8), rec, coord, 0, 0x2⟩
  | .sclose h slot => some ⟨h.gap, 0x2A, h.g, h.sense, h.guard, (slot.setWidth 8), 0, 0, 0, 0x8⟩
  | .sld h w dst slot => some ⟨h.gap, 0x2B, h.g, h.sense, h.guard, dst, (slot.setWidth 8), 0, 0, (BitVec.ofNat 8 (1 + widthCode w))⟩
  | .sst h w slot a => some ⟨h.gap, 0x2B, h.g, h.sense, h.guard, (slot.setWidth 8), a, 0, 0, (BitVec.ofNat 8 (9 + widthCode w))⟩
  | .sstat h dst slot => some ⟨h.gap, 0x2B, h.g, h.sense, h.guard, dst, (slot.setWidth 8), 0, 0, 0x10⟩
  | .sstatStall h dst slot => some ⟨h.gap, 0x2B, h.g, h.sense, h.guard, dst, (slot.setWidth 8), 0, 0, 0x11⟩
  | .sstatPoison h dst slot => some ⟨h.gap, 0x2B, h.g, h.sense, h.guard, dst, (slot.setWidth 8), 0, 0, 0x12⟩
  | .bankmode h dst a b => some ⟨h.gap, 0x2C, h.g, h.sense, h.guard, dst, a, b, 0, 0x1⟩
  | .bankq h dst a b => some ⟨h.gap, 0x2C, h.g, h.sense, h.guard, dst, a, b, 0, 0x2⟩
  | .ldaq h sc sp w64 dst a => some ⟨h.gap, 0x30, h.g, h.sense, h.guard, dst, a, 0, control sp w64, BitVec.ofNat 8 (0 + sc.toNat)⟩
  | .strl h sc sp w64 a b => some ⟨h.gap, 0x30, h.g, h.sense, h.guard, 0, a, b, control sp w64, BitVec.ofNat 8 (16 + sc.toNat)⟩
  | .atomAdd h sc sp w64 dst a b => some ⟨h.gap, 0x30, h.g, h.sense, h.guard, dst, a, b, control sp w64, BitVec.ofNat 8 (32 + sc.toNat)⟩
  | .atomAddF32 h sc sp dst a b => some ⟨h.gap, 0x30, h.g, h.sense, h.guard, dst, a, b, control sp false, BitVec.ofNat 8 (48 + sc.toNat)⟩
  | .atomMin h ty sc sp dst a b => some ⟨h.gap, 0x30, h.g, h.sense, h.guard, dst, a, b, control sp false, BitVec.ofNat 8 (64 + 16 * tyCode ty + sc.toNat)⟩
  | .atomMax h ty sc sp dst a b => some ⟨h.gap, 0x30, h.g, h.sense, h.guard, dst, a, b, control sp false, BitVec.ofNat 8 (96 + 16 * tyCode ty + sc.toNat)⟩
  | .atomAnd h sc sp w64 dst a b => some ⟨h.gap, 0x30, h.g, h.sense, h.guard, dst, a, b, control sp w64, BitVec.ofNat 8 (128 + sc.toNat)⟩
  | .atomOr h sc sp w64 dst a b => some ⟨h.gap, 0x30, h.g, h.sense, h.guard, dst, a, b, control sp w64, BitVec.ofNat 8 (144 + sc.toNat)⟩
  | .atomXor h sc sp w64 dst a b => some ⟨h.gap, 0x30, h.g, h.sense, h.guard, dst, a, b, control sp w64, BitVec.ofNat 8 (160 + sc.toNat)⟩
  | .atomExch h sc sp w64 dst a b => some ⟨h.gap, 0x30, h.g, h.sense, h.guard, dst, a, b, control sp w64, BitVec.ofNat 8 (176 + sc.toNat)⟩
  | .atomCas h sc sp w64 dst a b => some ⟨h.gap, 0x30, h.g, h.sense, h.guard, dst, a, b, control sp w64, BitVec.ofNat 8 (192 + sc.toNat)⟩
  | .atomInc h sc sp dst a b => some ⟨h.gap, 0x30, h.g, h.sense, h.guard, dst, a, b, control sp false, BitVec.ofNat 8 (208 + sc.toNat)⟩
  | .redAdd h sc sp w64 a b => some ⟨h.gap, 0x31, h.g, h.sense, h.guard, 0, a, b, control sp w64, BitVec.ofNat 8 (32 + sc.toNat)⟩
  | .redAddF32 h sc sp a b => some ⟨h.gap, 0x31, h.g, h.sense, h.guard, 0, a, b, control sp false, BitVec.ofNat 8 (48 + sc.toNat)⟩
  | .redMin h ty sc sp a b => some ⟨h.gap, 0x31, h.g, h.sense, h.guard, 0, a, b, control sp false, BitVec.ofNat 8 (64 + 16 * tyCode ty + sc.toNat)⟩
  | .redMax h ty sc sp a b => some ⟨h.gap, 0x31, h.g, h.sense, h.guard, 0, a, b, control sp false, BitVec.ofNat 8 (96 + 16 * tyCode ty + sc.toNat)⟩
  | .redAnd h sc sp w64 a b => some ⟨h.gap, 0x31, h.g, h.sense, h.guard, 0, a, b, control sp w64, BitVec.ofNat 8 (128 + sc.toNat)⟩
  | .redOr h sc sp w64 a b => some ⟨h.gap, 0x31, h.g, h.sense, h.guard, 0, a, b, control sp w64, BitVec.ofNat 8 (144 + sc.toNat)⟩
  | .redXor h sc sp w64 a b => some ⟨h.gap, 0x31, h.g, h.sense, h.guard, 0, a, b, control sp w64, BitVec.ofNat 8 (160 + sc.toNat)⟩
  | .fenceRel h sc => some ⟨h.gap, 0x32, h.g, h.sense, h.guard, 0, 0, 0, 0, BitVec.ofNat 8 (16 + sc.toNat)⟩
  | .fenceAcq h sc => some ⟨h.gap, 0x32, h.g, h.sense, h.guard, 0, 0, 0, 0, BitVec.ofNat 8 (32 + sc.toNat)⟩
  | .fenceAr h sc => some ⟨h.gap, 0x32, h.g, h.sense, h.guard, 0, 0, 0, 0, BitVec.ofNat 8 (48 + sc.toNat)⟩
  | .binit h bar a => some ⟨h.gap, 0x36, h.g, h.sense, h.guard, 0, a, (bar.setWidth 8), 0, 0x1⟩
  | .barv h bar => some ⟨h.gap, 0x36, h.g, h.sense, h.guard, 0, 0, (bar.setWidth 8), 0, 0x2⟩
  | .barvExp h bar a => some ⟨h.gap, 0x36, h.g, h.sense, h.guard, 0, a, (bar.setWidth 8), 0, 0x3⟩
  | .bexp h bar a => some ⟨h.gap, 0x36, h.g, h.sense, h.guard, 0, a, (bar.setWidth 8), 0, 0x4⟩
  | .bdrop h bar => some ⟨h.gap, 0x36, h.g, h.sense, h.guard, 0, 0, (bar.setWidth 8), 0, 0x5⟩
  | .bwait h dst bar a => some ⟨h.gap, 0x36, h.g, h.sense, h.guard, dst, a, (bar.setWidth 8), 0, 0x8⟩
  | .btest h dst bar => some ⟨h.gap, 0x36, h.g, h.sense, h.guard, dst, 0, (bar.setWidth 8), 0, 0x9⟩
  | .bsync h bar => some ⟨h.gap, 0x36, h.g, h.sense, h.guard, 0, 0, (bar.setWidth 8), 0, 0xa⟩
  | .qmovPush h q a => some ⟨h.gap, 0x37, h.g, h.sense, h.guard, (q.setWidth 8), a, 0, 0, 0x1⟩
  | .qmovPop h dst q => some ⟨h.gap, 0x37, h.g, h.sense, h.guard, dst, (q.setWidth 8), 0, 0, 0x2⟩
  | .qmovPeek h dst q => some ⟨h.gap, 0x37, h.g, h.sense, h.guard, dst, (q.setWidth 8), 0, 0, 0x3⟩
  | .qmovStat h dst q => some ⟨h.gap, 0x37, h.g, h.sense, h.guard, dst, (q.setWidth 8), 0, 0, 0x8⟩
  | .jadd h sc sp a b => some ⟨h.gap, 0x38, h.g, h.sense, h.guard, 0, a, b, control sp false, BitVec.ofNat 8 (16 + sc.toNat)⟩
  | .jarr h sc sp a => some ⟨h.gap, 0x38, h.g, h.sense, h.guard, 0, a, 0, control sp false, BitVec.ofNat 8 (32 + sc.toNat)⟩
  | .jwait h sc sp a => some ⟨h.gap, 0x38, h.g, h.sense, h.guard, 0, a, 0, control sp false, BitVec.ofNat 8 (48 + sc.toNat)⟩
  | .jpoll h sc sp dst a => some ⟨h.gap, 0x38, h.g, h.sense, h.guard, dst, a, 0, control sp false, BitVec.ofNat 8 (64 + sc.toNat)⟩
  | .cpyG2p h bar rec coord follow => some ⟨h.gap, 0x3A, h.g, h.sense, h.guard, (bar.setWidth 8), rec, coord, follow, 0x1⟩
  | .cpyP2g h bar rec coord follow => some ⟨h.gap, 0x3A, h.g, h.sense, h.guard, (bar.setWidth 8), rec, coord, follow, 0x2⟩
  | .cpyC2p h bar rec coord follow => some ⟨h.gap, 0x3A, h.g, h.sense, h.guard, (bar.setWidth 8), rec, coord, follow, 0x3⟩
  | .cpyP2c h bar rec coord follow => some ⟨h.gap, 0x3A, h.g, h.sense, h.guard, (bar.setWidth 8), rec, coord, follow, 0x4⟩
  | .cpyG2c h bar rec coord follow => some ⟨h.gap, 0x3A, h.g, h.sense, h.guard, (bar.setWidth 8), rec, coord, follow, 0x5⟩
  | .cpylG h bar va vd => some ⟨h.gap, 0x3A, h.g, h.sense, h.guard, (bar.setWidth 8), va, vd, 0, 0x8⟩
  | .drnSt h bar rec coord => some ⟨h.gap, 0x3A, h.g, h.sense, h.guard, (bar.setWidth 8), rec, coord, 0, 0x10⟩
  | .drnAdd h bar rec coord => some ⟨h.gap, 0x3A, h.g, h.sense, h.guard, (bar.setWidth 8), rec, coord, 0, 0x11⟩
  | .cperr h dst => some ⟨h.gap, 0x3A, h.g, h.sense, h.guard, dst, 0, 0, 0, 0x18⟩
  | .btalloc h dst a b c => some ⟨h.gap, 0x3B, h.g, h.sense, h.guard, dst, a, b, c, 0x1⟩
  | .btshare h dst a b c => some ⟨h.gap, 0x3B, h.g, h.sense, h.guard, dst, a, b, c, 0x2⟩
  | .btcow h dst a b => some ⟨h.gap, 0x3B, h.g, h.sense, h.guard, dst, a, b, 0, 0x3⟩
  | .btfree h dst a b => some ⟨h.gap, 0x3B, h.g, h.sense, h.guard, dst, a, b, 0, 0x4⟩
  | .btmove h dst a b c => some ⟨h.gap, 0x3B, h.g, h.sense, h.guard, dst, a, b, c, 0x8⟩
  | .btrd h dst a b => some ⟨h.gap, 0x3B, h.g, h.sense, h.guard, dst, a, b, 0, 0x10⟩
  | .btstat h dst a => some ⟨h.gap, 0x3B, h.g, h.sense, h.guard, dst, a, 0, 0, 0x11⟩
  | .mma h af wf rec coord => some ⟨h.gap, 0x3C, h.g, h.sense, h.guard, 0, rec, coord, 0, (BitVec.ofNat 8 (0x40 + 8 * wgtCode wf + 2 * actCode af))⟩
  | .mmaSp h af wf rec coord => some ⟨h.gap, 0x3C, h.g, h.sense, h.guard, 0, rec, coord, 0, (BitVec.ofNat 8 (0x60 + 8 * wgtCode wf + 2 * actCode af))⟩
  | .mlw h wf rec coord => some ⟨h.gap, 0x3C, h.g, h.sense, h.guard, 0, rec, coord, 0, (BitVec.ofNat 8 (0x80 + 8 * wgtCode wf))⟩
  | .mlwSp h wf rec coord => some ⟨h.gap, 0x3C, h.g, h.sense, h.guard, 0, rec, coord, 0, (BitVec.ofNat 8 (0xa0 + 8 * wgtCode wf))⟩
  | .aclr h a => some ⟨h.gap, 0x3D, h.g, h.sense, h.guard, 0, a, 0, 0, 0x1⟩
  | .ard h dst a b => some ⟨h.gap, 0x3D, h.g, h.sense, h.guard, dst, a, b, 0, 0x2⟩
  | .awr h a b c => some ⟨h.gap, 0x3D, h.g, h.sense, h.guard, 0, a, b, c, 0x3⟩
  | .mstat h dst => some ⟨h.gap, 0x3D, h.g, h.sense, h.guard, dst, 0, 0, 0, 0x8⟩
  | .mstatClr h dst => some ⟨h.gap, 0x3D, h.g, h.sense, h.guard, dst, 0, 0, 0, 0x9⟩
  | .sacc h init sf mode a b c => some ⟨h.gap, 0x3D, h.g, h.sense, h.guard, 0, a, b, c, (BitVec.ofNat 8 (0x10 + 8 * init.toNat + 4 * scaleCode sf + saccCode mode))⟩
  | .opb h a => some ⟨h.gap, 0x3E, h.g, h.sense, h.guard, 0, a, 0, 0, 0x1⟩
  | .taskend h => some ⟨h.gap, 0x3E, h.g, h.sense, h.guard, 0, 0, 0, 0, 0x8⟩
  | .prio h a => some ⟨h.gap, 0x3E, h.g, h.sense, h.guard, 0, a, 0, 0, 0x10⟩
  | .wgq h dst a => some ⟨h.gap, 0x3E, h.g, h.sense, h.guard, dst, a, 0, 0, 0x18⟩
  | .pktst h a => some ⟨h.gap, 0x3E, h.g, h.sense, h.guard, 0, a, 0, 0, 0x20⟩
  | .srd h dst sr => some ⟨h.gap, 0x3F, h.g, h.sense, h.guard, dst, 0, (sr.extractLsb' 8 8), (sr.extractLsb' 0 8), 0x1⟩
  | .swr h a sr => some ⟨h.gap, 0x3F, h.g, h.sense, h.guard, 0, a, (sr.extractLsb' 8 8), (sr.extractLsb' 0 8), 0x2⟩
  | .tret h => some ⟨h.gap, 0x3F, h.g, h.sense, h.guard, 0, 0, 0, 0, 0x8⟩
  | .tretNext h => some ⟨h.gap, 0x3F, h.g, h.sense, h.guard, 0, 0, 0, 0, 0x9⟩
  | .brk h imm => some ⟨h.gap, 0x3F, h.g, h.sense, h.guard, 0, 0, (imm.extractLsb' 8 8), (imm.extractLsb' 0 8), 0x10⟩
  | .trapi h imm => some ⟨h.gap, 0x3F, h.g, h.sense, h.guard, 0, 0, (imm.extractLsb' 8 8), (imm.extractLsb' 0 8), 0x11⟩
  | .xrd h dst n => some ⟨h.gap, 0x3F, h.g, h.sense, h.guard, dst, 0, (n.extractLsb' 8 8), (n.extractLsb' 0 8), 0x18⟩
  | .xwr h a n => some ⟨h.gap, 0x3F, h.g, h.sense, h.guard, 0, a, (n.extractLsb' 8 8), (n.extractLsb' 0 8), 0x19⟩
  | .cxrd h dst item => some ⟨h.gap, 0x3F, h.g, h.sense, h.guard, dst, 0, (item.extractLsb' 8 8), (item.extractLsb' 0 8), 0x1a⟩
  | .cxwr h a item => some ⟨h.gap, 0x3F, h.g, h.sense, h.guard, 0, a, (item.extractLsb' 8 8), (item.extractLsb' 0 8), 0x1b⟩
  | .pmrd h dst a => some ⟨h.gap, 0x3F, h.g, h.sense, h.guard, dst, a, 0, 0, 0x20⟩
  | .pmrst h => some ⟨h.gap, 0x3F, h.g, h.sense, h.guard, 0, 0, 0, 0, 0x21⟩
  | .genwait h dst a => some ⟨h.gap, 0x3F, h.g, h.sense, h.guard, dst, a, 0, 0, 0x28⟩
  | .wgabort h a => some ⟨h.gap, 0x3F, h.g, h.sense, h.guard, 0, a, 0, 0, 0x30⟩
  | .vspawn _ _ _ _
  | .vjoin _ _
  | .vpoll _ _
  | .vjadd _ _ _
  | .vqbind _ _ _
  | .vqwait _
  | .spawnCsrAccess _ _ _ _ _
  | .trapEntry _ _
  | .fouloReport _ _
  | .fouloResume _
  | .fouloDeliver _
  | .fouloSave _
  | .fouloTerminate _
  | .fouloKill _
  | .asyncEventDelivery _
  | .referenceTick _
  | .watchdogStall _
  | .watchdogOperator _
  | .resultLanding _ _
  | .ldaLanding _ _
  | .windowStart _
  | .windowResume _
  | .windowEnd _
  | .binTimeout _ _
  | .warpForm _
  | .streamElementForm _
  | .streamDataReturn _ _
  | .translationWalk _ _ _ _ _
  | .writeAtOwner _ _
  | .scopeCheckerAnswer _
  | .barrierUpdate _ _
  | .leatOperationStart _ _
  | .leatLanding _ _ _
  | .leatArrival _ _
  | .followOnDelivery _ _
  | .followOnEnterQueue _
  | .blockCopyDone _ _
  | .blockReclaim _ _
  | .poolReturnRetry _
  | .matrixCommandStart _ _
  | .matrixCommandComplete _ _
  | .doorbellWrite _ _ _
  | .packetTake _ _
  | .packetCompletion _
  | .bindRecordWrite _ _ _ _ _ _
  | .dispatchPlace _
  | .workgroupRetire _
  | .operatorBoundaryReached _
  | .cooperativeHold _
  | .workgroupResume _ _
  | .sluiceGrant _ _ _
  | .sluiceGuaranteeWrite _ _ _ _
  | .weirRotation _
  | .admissionLimitWrite _ _
  | .partitionChange _ _ _
  | .preemptSliceEnd _ _ _
  | .preemptUrgentHalt _ _ _
  | .preemptComplete _
  | .slotResume _ _
  | .contextKill _
  | .killAck _ _
  | .killDrainComplete _
  | .bankControlWrite _ _ _ _
  | .tlbInvalidate _ _ _ _
  | .powerWakeP0 _ _ _
  | .powerEnterC2 _ _ _
  | .powerLimitWrite _ _
  | .temperatureLimitWrite _ _
  | .c1Entry _
  | .c1Wake _
  | .deepSleep _
  | .s3Wake 
  | .btDescriptorWrite _ _ _ _
  | .poolDescriptorWrite _ _ _ _
  | .poolPush _ _ _
  | .poolPop _ _
  | .managementRegisterWrite _ _ _ _
  | .linkTrained _ _ _
  | .trainingFail _ _
  | .chipletAck _ _
  | .isolateCommand _ _
  | .linkDown _ _
  | .chipletFatalError _ _
  | .isolation _ _
  | .portResetCommand _ _
  | .flitReceive _ _ _ _ _ _
  | .flitReplay _ _ _
  | .equalisationPass _ _ _
  | .equalisationEnd _ _ _ _
  | .laneFallback _ _ _
  | .droopResponse _ _
  | .frequencyStep _
  | .patrolScrub _ _ _
  | .scrubPeriodAdjust _ _ _
  | .ringResponseTimeout _ _
  | .remoteRequest _ _ _
  | .remoteRouteTimeout _ _
  | .kuduCachePoisonInterrupt _ _
  | .tenantPoisonHold _ _
  | .eventPost _ _ _ _
  | .connectionOpen _ _ _
  | .sendLineNotify _ _ _
  | .segmentReceive _ _ _ _
  | .ackReceive _ _ _
  | .idcert 
  | .wcreate _ _ _
  | .wdestroy _
  | .extend _ _ _
  | .lock 
  | .readlog _
  | .evidence _ _
  | .wrelease _ _
  | .podevidence _
  | .podMemberAnswer _ _
  | .podGatherTimeout 
  | .moduleReset 
  | .managementRegisterRead _ _ _
  | .retransmission _ _
  | .connectionClose _ _
  | .hartInterrupt _ _
  | .kuduHartAccess _ _ _ _ _ _ => none

/-- The word of a Vodon instruction. -/
def encodeVodon (i : Instr) : Option (BitVec 64) := (encodeRaw i).map Raw.toWord

/-- A custom-0 word. -/
def kuduWord (top : BitVec 12) (rs1 : XReg) (f3 : BitVec 3) (rd : XReg) : BitVec 32 :=
  top ++ rs1 ++ f3 ++ rd ++ 0x0B#7

/-- The word of a Kudu instruction (Table 13.2). -/
def encodeKudu : Instr → Option (BitVec 32)
  | .vspawn rd rs1 rs2 rs3 => some (kuduWord (rs3 ++ 0#2 ++ rs2) rs1 0 rd)
  | .vjoin rd rs1 => some (kuduWord 0 rs1 1 rd)
  | .vpoll rd rs1 => some (kuduWord 0 rs1 2 rd)
  | .vjadd rd rs1 rs2 => some (kuduWord (0#7 ++ rs2) rs1 3 rd)
  | .vqbind rd rs1 rs2 => some (kuduWord (0#7 ++ rs2) rs1 4 rd)
  | .vqwait rd => some (kuduWord 0 0 5 rd)
  | .abs _ _ _
  | .add _ _ _ _
  | .addImm _ _ _ _
  | .sub _ _ _ _
  | .addSat _ _ _ _ _
  | .subSat _ _ _ _ _
  | .add64 _ _ _ _
  | .sub64 _ _ _ _
  | .adda _ _ _ _ _
  | .addx _ _ _ _ _ _
  | .aff _ _ _ _
  | .andR _ _ _ _
  | .andImm _ _ _ _
  | .orR _ _ _ _
  | .orImm _ _ _ _
  | .xorR _ _ _ _
  | .xorImm _ _ _ _
  | .andn _ _ _ _
  | .bfi _ _ _ _ _
  | .bfx _ _ _ _ _
  | .brev _ _ _
  | .clz _ _ _
  | .ctz _ _ _
  | .popc _ _ _
  | .form _ _ _
  | .li _ _ _
  | .mul _ _ _ _
  | .mulImm _ _ _ _
  | .mad _ _ _ _ _
  | .min _ _ _ _ _
  | .max _ _ _ _ _
  | .mulhi _ _ _ _ _
  | .mulw _ _ _ _ _
  | .shl _ _ _ _
  | .shlImm _ _ _ _
  | .shr _ _ _ _
  | .shrImm _ _ _ _
  | .sra _ _ _ _
  | .sraImm _ _ _ _
  | .rol _ _ _ _
  | .rolImm _ _ _ _
  | .sel _ _ _ _ _
  | .set _ _ _ _ _
  | .rcp _ _ _
  | .rsq _ _ _
  | .ex2 _ _ _
  | .lg2 _ _ _
  | .sin _ _ _
  | .cos _ _ _
  | .tanh _ _ _
  | .cvtF32Si32 _ _ _ _
  | .cvtF32Ui32 _ _ _ _
  | .cvtSi32F32 _ _ _ _
  | .cvtUi32F32 _ _ _ _
  | .cvtBf16F32 _ _ _ _ _ _
  | .cvtF16F32 _ _ _ _ _ _
  | .cvtE4m3F32 _ _ _ _ _ _ _
  | .cvtE5m2F32 _ _ _ _ _ _ _
  | .cvtF32Bf16 _ _ _ _
  | .cvtF32F16 _ _ _ _
  | .cvtF32E4m3 _ _ _ _
  | .cvtF32E5m2 _ _ _ _
  | .fabs _ _ _
  | .fneg _ _ _
  | .fadd _ _ _ _ _
  | .fsub _ _ _ _ _
  | .fmul _ _ _ _ _
  | .ffma _ _ _ _ _ _
  | .fclass _ _ _
  | .fmin _ _ _ _
  | .fmax _ _ _ _
  | .frnd _ _ _ _
  | .fset _ _ _ _ _
  | .padd _ _ _ _ _ _
  | .pmul _ _ _ _ _ _
  | .pfma _ _ _ _ _ _ _
  | .pmin _ _ _ _ _
  | .pmax _ _ _ _ _
  | .pdot _ _ _ _ _ _ _
  | .qnt _ _ _ _ _ _ _
  | .qpk _ _ _ _
  | .qunpk _ _ _ _
  | .spmk _ _ _
  | .spcmp _ _ _ _
  | .bra _ _
  | .braAll _ _
  | .braNone _ _
  | .brs _ _ _
  | .call _ _ _
  | .endmeld _
  | .exit _
  | .jmp _ _
  | .jmpl _ _ _
  | .ret _ _
  | .loop _ _ _
  | .mand _ _ _
  | .mandn _ _ _
  | .meld _ _
  | .melse _ _
  | .mset _ _
  | .mvote _ _ _
  | .nop _
  | .rnm _ _ _ _
  | .align _ _
  | .unalign _
  | .ld _ _ _ _ _ _
  | .st _ _ _ _ _ _
  | .flushG _ _ _
  | .invalG _ _ _
  | .lda _ _ _ _ _ _
  | .sopenLd _ _ _ _
  | .sopenSt _ _ _ _
  | .sclose _ _
  | .sld _ _ _ _
  | .sst _ _ _ _
  | .sstat _ _ _
  | .sstatStall _ _ _
  | .sstatPoison _ _ _
  | .bankmode _ _ _ _
  | .bankq _ _ _ _
  | .ldaq _ _ _ _ _ _
  | .strl _ _ _ _ _ _
  | .atomAdd _ _ _ _ _ _ _
  | .atomAddF32 _ _ _ _ _ _
  | .atomMin _ _ _ _ _ _ _
  | .atomMax _ _ _ _ _ _ _
  | .atomAnd _ _ _ _ _ _ _
  | .atomOr _ _ _ _ _ _ _
  | .atomXor _ _ _ _ _ _ _
  | .atomExch _ _ _ _ _ _ _
  | .atomCas _ _ _ _ _ _ _
  | .atomInc _ _ _ _ _ _
  | .redAdd _ _ _ _ _ _
  | .redAddF32 _ _ _ _ _
  | .redMin _ _ _ _ _ _
  | .redMax _ _ _ _ _ _
  | .redAnd _ _ _ _ _ _
  | .redOr _ _ _ _ _ _
  | .redXor _ _ _ _ _ _
  | .fenceRel _ _
  | .fenceAcq _ _
  | .fenceAr _ _
  | .binit _ _ _
  | .barv _ _
  | .barvExp _ _ _
  | .bexp _ _ _
  | .bdrop _ _
  | .bwait _ _ _ _
  | .btest _ _ _
  | .bsync _ _
  | .qmovPush _ _ _
  | .qmovPop _ _ _
  | .qmovPeek _ _ _
  | .qmovStat _ _ _
  | .jadd _ _ _ _ _
  | .jarr _ _ _ _
  | .jwait _ _ _ _
  | .jpoll _ _ _ _ _
  | .cpyG2p _ _ _ _ _
  | .cpyP2g _ _ _ _ _
  | .cpyC2p _ _ _ _ _
  | .cpyP2c _ _ _ _ _
  | .cpyG2c _ _ _ _ _
  | .cpylG _ _ _ _
  | .drnSt _ _ _ _
  | .drnAdd _ _ _ _
  | .cperr _ _
  | .btalloc _ _ _ _ _
  | .btshare _ _ _ _ _
  | .btcow _ _ _ _
  | .btfree _ _ _ _
  | .btmove _ _ _ _ _
  | .btrd _ _ _ _
  | .btstat _ _ _
  | .mma _ _ _ _ _
  | .mmaSp _ _ _ _ _
  | .mlw _ _ _ _
  | .mlwSp _ _ _ _
  | .aclr _ _
  | .ard _ _ _ _
  | .awr _ _ _ _
  | .mstat _ _
  | .mstatClr _ _
  | .sacc _ _ _ _ _ _ _
  | .opb _ _
  | .taskend _
  | .prio _ _
  | .wgq _ _ _
  | .pktst _ _
  | .srd _ _ _
  | .swr _ _ _
  | .tret _
  | .tretNext _
  | .brk _ _
  | .trapi _ _
  | .xrd _ _ _
  | .xwr _ _ _
  | .cxrd _ _ _
  | .cxwr _ _ _
  | .pmrd _ _ _
  | .pmrst _
  | .genwait _ _ _
  | .wgabort _ _
  | .spawnCsrAccess _ _ _ _ _
  | .trapEntry _ _
  | .fouloReport _ _
  | .fouloResume _
  | .fouloDeliver _
  | .fouloSave _
  | .fouloTerminate _
  | .fouloKill _
  | .asyncEventDelivery _
  | .referenceTick _
  | .watchdogStall _
  | .watchdogOperator _
  | .resultLanding _ _
  | .ldaLanding _ _
  | .windowStart _
  | .windowResume _
  | .windowEnd _
  | .binTimeout _ _
  | .warpForm _
  | .streamElementForm _
  | .streamDataReturn _ _
  | .translationWalk _ _ _ _ _
  | .writeAtOwner _ _
  | .scopeCheckerAnswer _
  | .barrierUpdate _ _
  | .leatOperationStart _ _
  | .leatLanding _ _ _
  | .leatArrival _ _
  | .followOnDelivery _ _
  | .followOnEnterQueue _
  | .blockCopyDone _ _
  | .blockReclaim _ _
  | .poolReturnRetry _
  | .matrixCommandStart _ _
  | .matrixCommandComplete _ _
  | .doorbellWrite _ _ _
  | .packetTake _ _
  | .packetCompletion _
  | .bindRecordWrite _ _ _ _ _ _
  | .dispatchPlace _
  | .workgroupRetire _
  | .operatorBoundaryReached _
  | .cooperativeHold _
  | .workgroupResume _ _
  | .sluiceGrant _ _ _
  | .sluiceGuaranteeWrite _ _ _ _
  | .weirRotation _
  | .admissionLimitWrite _ _
  | .partitionChange _ _ _
  | .preemptSliceEnd _ _ _
  | .preemptUrgentHalt _ _ _
  | .preemptComplete _
  | .slotResume _ _
  | .contextKill _
  | .killAck _ _
  | .killDrainComplete _
  | .bankControlWrite _ _ _ _
  | .tlbInvalidate _ _ _ _
  | .powerWakeP0 _ _ _
  | .powerEnterC2 _ _ _
  | .powerLimitWrite _ _
  | .temperatureLimitWrite _ _
  | .c1Entry _
  | .c1Wake _
  | .deepSleep _
  | .s3Wake 
  | .btDescriptorWrite _ _ _ _
  | .poolDescriptorWrite _ _ _ _
  | .poolPush _ _ _
  | .poolPop _ _
  | .managementRegisterWrite _ _ _ _
  | .linkTrained _ _ _
  | .trainingFail _ _
  | .chipletAck _ _
  | .isolateCommand _ _
  | .linkDown _ _
  | .chipletFatalError _ _
  | .isolation _ _
  | .portResetCommand _ _
  | .flitReceive _ _ _ _ _ _
  | .flitReplay _ _ _
  | .equalisationPass _ _ _
  | .equalisationEnd _ _ _ _
  | .laneFallback _ _ _
  | .droopResponse _ _
  | .frequencyStep _
  | .patrolScrub _ _ _
  | .scrubPeriodAdjust _ _ _
  | .ringResponseTimeout _ _
  | .remoteRequest _ _ _
  | .remoteRouteTimeout _ _
  | .kuduCachePoisonInterrupt _ _
  | .tenantPoisonHold _ _
  | .eventPost _ _ _ _
  | .connectionOpen _ _ _
  | .sendLineNotify _ _ _
  | .segmentReceive _ _ _ _
  | .ackReceive _ _ _
  | .idcert 
  | .wcreate _ _ _
  | .wdestroy _
  | .extend _ _ _
  | .lock 
  | .readlog _
  | .evidence _ _
  | .wrelease _ _
  | .podevidence _
  | .podMemberAnswer _ _
  | .podGatherTimeout 
  | .moduleReset 
  | .managementRegisterRead _ _ _
  | .retransmission _ _
  | .connectionClose _ _
  | .hartInterrupt _ _
  | .kuduHartAccess _ _ _ _ _ _ => none

/-- The words of an instruction, each with its width in bits. -/
def encode (i : Instr) : List (Nat × Nat) :=
  match encodeVodon i, encodeKudu i with
  | some w, _ => [(64, w.toNat)]
  | none, some w => [(32, w.toNat)]
  | none, none => []

end Sys2Proof
end

