-- ==== Sys2Proof/Machine/Matrix.lean ====
section
/-! DEFINITION. Matrix instructions, the command queue, accumulator memory and mill buffers (R318 to R346). -/

namespace Sys2Proof.Machine

/-! ## Formats and layouts (Tables 10.1, 10.3, 10.4) -/

/-- The bytes of an activation element. -/
def actBytes : ActFmt → Nat | .bf16 => 2 | .e4m3 => 1 | .e5m2 => 1

/-- The format of an activation element. -/
def actFmt : ActFmt → Fmt | .bf16 => .bf16 | .e4m3 => .e4m3 | .e5m2 => .e5m2

/-- The bytes of a packed group column: a dense group of 32 elements, or a sparse group of 16. -/
def groupBytes (wf : WgtFmt) (sparse : Bool) : Nat :=
  let d := match wf with | .q4 => 16 | .q3 => 12 | .e4m3 => 32
  if sparse then d / 2 else d

/-- The groups of a matrix instruction. -/
def groupsOf (sparse : Bool) : Nat := if sparse then 2 else 1

/-- The columns of a tile (Table 10.3). -/
def tileCols (eland : Bool) : Nat := if eland then 1024 else 64

/-- Whether a row count is legal (Table 10.3). -/
def rowsOk (eland : Bool) (m : Nat) : Bool :=
  if eland then decide (1 ≤ m) && decide (m ≤ 64) else decide (1 ≤ m) && decide (m ≤ 64) && decide (m % 16 = 0)

/-- The commands a core's matrix queue holds (Table 10.3). -/
def matQueueSize (eland : Bool) : Nat := if eland then 32 else 16

/-- The key of an accumulator element. -/
def accKey (tile row col : Nat) : Nat := (tile * 64 + row) * 1024 + col

/-! ## Block products (R319 to R321) -/

/-- The zero weight. -/
def zeroNum : Num := .fin false 0 0

/-- Some weights of a packed group (R101, R319). -/
def weights (wf : WgtFmt) (bs : List Byte) (n : Nat) : List Num :=
  match wf with
  | .q4 => (List.range n).map (fun i => intNum (sextN (leNat bs / 2 ^ (4 * i)) 4))
  | .q3 => (List.range n).map (fun i => intNum (sextN (leNat bs / 2 ^ (3 * i)) 3))
  | .e4m3 => (List.range n).map (fun i => Fmt.e4m3.value (bs.getD i 0).toNat)

/-- The held weights of a sparse group at the positions of its mask's set bits, lowest first (R321). -/
def spread (mask : Nat) : List Nat → List Num → List Num
  | [], _ => []
  | k :: ks, ws => if mask.testBit k then ws.headD zeroNum :: spread mask ks ws.tail else zeroNum :: spread mask ks ws

/-- The 32 weights of a group of a column: none where a sparse mask does not hold 16 positions (R321). -/
def groupWeights (wf : WgtFmt) (sparse : Bool) (bs : List Byte) (mask : Nat) : Option (List Num) :=
  if sparse then
    if ((List.range 32).filter mask.testBit).length = 16 then some (spread mask (List.range 32) (weights wf bs 16)) else none
  else some (weights wf bs 32)

/-- The exact sum of the products of a group (R320, Table 10.2). -/
def exactSum (a w : List Num) : Num := ((a.zip w).map (fun e => Num.mul e.1 e.2)).foldl (Num.add .rn) zeroNum

/-- Whether a rounded result is an overflow: an infinity out of finite terms. -/
def overflowed (x : Num) (r : Word) : Bool :=
  match x with
  | .fin _ _ _ => decide (r.toNat % 2 ^ 31 = 0x7F800000)
  | _ => false

/-! ## What a command reads and writes (R327, R328, R330) -/

/-- The private bytes a command reads: offset and length. -/
def MatOp.operands (eland : Bool) : MatOp → List (Nat × Nat)
  | .mma sp af wf a b md rows _ _ _ =>
    (a, 32 * actBytes af * groupsOf sp * rows) ::
      (if eland then [] else (b, 64 * groupsOf sp * groupBytes wf sp) :: (if sp then [(md, 512)] else []))
  | .mlw sp wf b md _ _ n => (b, n * groupsOf sp * groupBytes wf sp) :: (if sp then [(md, 8 * n)] else [])
  | .sacc _ bf16 col row rows _ _ =>
    let e := if bf16 then 2 else 4
    (match col with | some o => [(o, e * tileCols eland)] | none => [])
      ++ (match row with | some o => [(o, e * rows)] | none => [])
  | .aclr _ => []
  | .awr _ _ => []

/-- A weight buffer as a resource beside the tiles. -/
def bufKey (mill buf : Nat) : Nat := 64 + mill * 2 + buf

/-- The tiles and buffers a command reads. -/
def MatOp.reads : MatOp → List Nat
  | .mma _ _ _ _ _ _ _ _ mill buf => [bufKey mill buf]
  | .mlw _ _ _ _ _ _ _ => []
  | .sacc init _ _ _ _ p q => if init then [p] else [p, q]
  | .aclr _ => []
  | .awr _ _ => []

/-- The tiles and buffers a command writes. -/
def MatOp.writes : MatOp → List Nat
  | .mma sp _ _ _ _ _ _ p _ _ => if sp then [p, p + 1] else [p]
  | .mlw _ _ _ _ mill buf _ => [bufKey mill buf]
  | .sacc _ _ _ _ _ _ q => [q]
  | .aclr t => [t]
  | .awr t _ => [t]

/-- Whether a later command must wait for an earlier one (R328). -/
def MatOp.waitsFor (later earlier : MatOp) : Bool :=
  earlier.writes.any (fun x => later.reads.contains x || later.writes.contains x) || earlier.reads.any later.writes.contains

/-! ## Executing a command -/

/-- What a command has written so far: elements, marks, sticky status bits, and the source of its first marked element (the
private offset, or none for accumulator memory and mill buffers; R332, R484). -/
structure MatRun where
  acc : Table Word
  marks : Table Bool
  bits : Nat
  source : Option (Option Nat)

/-- Write one element: a marked one takes a free value (R332). -/
def MatRun.put (r : MatRun) (n key : Nat) (v : Word) (ovf marked : Bool) (source : Option Nat) : MatRun :=
  { acc := Table.put 0 key (if marked then Config.freeWord n key else v) r.acc
    marks := Table.put false key marked r.marks
    bits := r.bits ||| (if (if marked then Config.freeBit n else ovf) then 8 else 0) ||| (if marked then 4 else 0)
    source := if marked && r.source.isNone then some source else r.source }

/-- A column of weights for one group: its weights, none for NaN; the status bits it sets; whether it is marked, and by which
private offset. -/
structure MatCol where
  weights : Option (List Num)
  bits : Nat
  marked : Bool
  source : Option Nat

/-- The reading function of a command: the byte at a private offset and its poison. -/
abbrev MatRead := Nat → Byte × Bool

/-- Some bytes. -/
def MatRead.bytes (rd : MatRead) (off n : Nat) : List Byte := (List.range n).map (fun i => (rd (off + i)).1)

/-- The first poisoned one of some bytes. -/
def MatRead.bad (rd : MatRead) (off n : Nat) : Option Nat := (span off n).find? (fun i => (rd i).2)

/-- Column j, group g, of weights in private scratchpad (Table 10.4). -/
def privCol (rd : MatRead) (sp : Bool) (wf : WgtFmt) (b md j g : Nat) : MatCol :=
  let n := groupBytes wf sp
  let off := b + n * (groupsOf sp * j + g)
  let w := groupWeights wf sp (rd.bytes off n) (if sp then leNat (rd.bytes (md + 8 * j + 4 * g) 4) else 0)
  let bad := match rd.bad off n with
    | some i => some i
    | none => if sp then rd.bad (md + 8 * j + 4 * g) 4 else none
  ⟨w, if w.isNone then 1 else 0, bad.isSome, bad⟩

/-- Column j, group g, of a weight buffer (R323, R324). -/
def millCol (buf : Option MillBuf) (sp : Bool) (wf : WgtFmt) (j g : Nat) : MatCol :=
  match buf with
  | none => ⟨some (List.replicate 32 zeroNum), 0, false, none⟩
  | some m =>
    if m.wfmt ≠ wf ∨ m.sparse ≠ sp then ⟨none, 2, (match m.cols[j]? with | some c => c.marked | none => false), none⟩
    else match m.cols[j]? with
      | none => ⟨some (List.replicate 32 zeroNum), 0, false, none⟩
      | some c =>
        let w := groupWeights wf sp (c.groups.getD g []) (c.masks.getD g 0)
        ⟨w, if w.isNone then 1 else 0, c.marked, none⟩

/-- The 32 activations of row i, group g, and the first poisoned byte among them (Table 10.4). -/
def actRow (rd : MatRead) (sp : Bool) (af : ActFmt) (a i g : Nat) : List Num × Option Nat :=
  let e := actBytes af
  let off := a + 32 * e * (groupsOf sp * i + g)
  ((List.range 32).map (fun k => (actFmt af).value (leNat (rd.bytes (off + e * k) e))), rd.bad off (32 * e))

/-- A block product into partial tiles (R344). -/
def runMma (g : Wg) (n : Nat) (rd : MatRead) (eland sp : Bool) (af : ActFmt) (wf : WgtFmt) (a b md rows p mill buf : Nat)
    (r : MatRun) : MatRun :=
  let col := fun j gr => if eland then millCol (Table.find (mill * 2 + buf) g.mills) sp wf j gr else privCol rd sp wf b md j gr
  (List.range (groupsOf sp)).foldl (fun r gr =>
    let cs := (List.range (tileCols eland)).map (fun j => (j, col j gr))
    let r := { r with bits := cs.foldl (fun x c => x ||| c.2.bits) r.bits }
    (List.range rows).foldl (fun r i =>
      let row := actRow rd sp af a i gr
      cs.foldl (fun r c =>
        let x := match c.2.weights with | some w => exactSum row.1 w | none => Num.nan
        let v := f32Word .rn x
        r.put n (accKey (p + gr) i c.1) v (overflowed x v) (row.2.isSome || c.2.marked)
          (match row.2 with | some o => some o | none => c.2.source)) r) r) r

/-- The weights an `MLW` loads (R343). -/
def loadMill (rd : MatRead) (sp : Bool) (wf : WgtFmt) (b md n : Nat) : MillBuf :=
  { wfmt := wf, sparse := sp,
    cols := (List.range n).map (fun j =>
      let k := groupBytes wf sp
      let gs := List.range (groupsOf sp)
      { groups := gs.map (fun g => rd.bytes (b + k * (groupsOf sp * j + g)) k),
        masks := if sp then gs.map (fun g => leNat (rd.bytes (md + 8 * j + 4 * g) 4)) else [],
        marked := (rd.bad (b + k * groupsOf sp * j) (k * groupsOf sp)).isSome || (sp && (rd.bad (md + 8 * j) 8).isSome) }) }

/-- Scale and accumulate (R346). -/
def runSacc (n : Nat) (rd : MatRead) (eland init bf16 : Bool) (col row : Option Nat) (rows p q : Nat) (r : MatRun) : MatRun :=
  let e := if bf16 then 2 else 4
  let scale := fun (o : Option Nat) (k : Nat) => match o with
    | none => (Num.fin false 1 0, none)
    | some off => ((if bf16 then Fmt.bf16 else Fmt.f32).value (leNat (rd.bytes (off + e * k) e)), rd.bad (off + e * k) e)
  let cs := (List.range (tileCols eland)).map (fun j => (j, scale col j))
  (List.range rows).foldl (fun r i =>
    let rs := scale row i
    cs.foldl (fun r c =>
      let kp := accKey p i c.1
      let kq := accKey q i c.1
      let s := match row, col with
        | some _, some _ => Num.mul rs.1 c.2.1
        | some _, none => rs.1
        | _, _ => c.2.1
      let ps := Num.mul (fv (Table.get 0 kp r.acc)) s
      let x := if init then ps else Num.add .rn (fv (Table.get 0 kq r.acc)) ps
      let v := f32Word .rn x
      let pm := Table.get false kp r.marks
      let sc := match rs.2 with | some o => some o | none => c.2.2
      r.put n kq v (overflowed x v) (pm || sc.isSome || (!init && Table.get false kq r.marks)) (if pm then none else sc)) r) r

/-- What a command does to its workgroup; `n` is its free turn. -/
def MatOp.run (g : Wg) (n : Nat) (rd : MatRead) (eland : Bool) (op : MatOp) : Wg × Option (Option Nat) :=
  let r0 : MatRun := ⟨g.acc, g.accMarks, 0, none⟩
  let out := fun (r : MatRun) =>
    ({ g with acc := r.acc, accMarks := r.marks, mstat := g.mstat ||| BitVec.ofNat 32 r.bits }, r.source)
  match op with
  | .mma sp af wf a b md rows p mill buf => out (runMma g n rd eland sp af wf a b md rows p mill buf r0)
  | .mlw sp wf b md mill buf cols =>
    ({ g with mills := Table.ins (mill * 2 + buf) (loadMill rd sp wf b md cols) g.mills }, none)
  | .sacc init bf16 col row rows p q => out (runSacc n rd eland init bf16 col row rows p q r0)
  | .aclr t =>
    let keep := fun (k : Nat) => decide (k / 65536 ≠ t)
    ({ g with acc := g.acc.filter (fun e => keep e.1), accMarks := g.accMarks.filter (fun e => keep e.1) }, none)
  | .awr t es =>
    ({ g with acc := es.foldl (fun m e => Table.put 0 (t * 65536 + e.1) e.2 m) g.acc
              accMarks := es.foldl (fun m e => Table.del (t * 65536 + e.1) m) g.accMarks }, none)

/-! ## The command queue (R328 to R330) -/

/-- Whether an accumulator drain entered before a command and has still to read a tile (R295). -/
def Core.drainHolds (c : Core) (wg seq tile : Nat) : Bool :=
  c.drainQ.any (fun o => decide (o.wg = wg) && decide (o.id < seq) && decide (o.tile = tile) && !o.stopped
    && decide (o.next < o.count))

/-- Whether a command may start: no earlier command of its workgroup that it must wait for, no drain that has still to read
a tile it writes (R328, R295). -/
def Core.mayStart (c : Core) (i : Nat) (m : MatCmd) : Bool :=
  m.seen.isNone && !(c.matQ.take i).any (fun e => decide (e.wg = m.wg) && m.op.waitsFor e.op)
    && !m.op.writes.any (c.drainHolds m.wg m.seq)

/-- MATRIX_COMMAND_START: command i of a core's queue starts; its operand bytes are seen as they stand (R329, R330). -/
def execMatrixCommandStart (core i : Nat) (s : State) : Out :=
  let c := s.core core
  match c.matQ[i]? with
  | none => .next s
  | some m =>
    if !c.mayStart i m then .next s
    else
      let offs := (m.op.operands (coreEland core)).flatMap (fun r => span r.1 r.2)
      let seen := offs.foldl (fun t o => Table.ins o (s.byteAt 0 (locPriv m.wg o), s.poisonAt (locPriv m.wg o) 1) t) []
      .next (s.setCore core { c with matQ := listSet i { m with seen := some seen } c.matQ })

/-- How a command reads a byte when it completes: what it saw when it started, or what stands there now, as a free choice
says (R330). -/
def State.matRead (s : State) (n wg : Nat) (seen : Table (Byte × Bool)) : MatRead := fun o =>
  let old := Table.get (0, false) o seen
  let new := (s.byteAt 0 (locPriv wg o), s.poisonAt (locPriv wg o) 1)
  if old = new then old else if (Config.freeWord n o).getLsbD 0 then new else old

/-- MATRIX_COMMAND_COMPLETE: a started command writes its results and leaves the queue (R328, R332, R333). -/
def execMatrixCommandComplete (core i : Nat) (s : State) : Out :=
  let c := s.core core
  match c.matQ[i]? with
  | none => .next s
  | some m => match m.seen, Table.find m.wg s.wgs with
    | some seen, some g =>
      let f := s.takeFree
      let r := m.op.run g f.1 (s.matRead f.1 m.wg seen) (coreEland core)
      let s := ((f.2.setCore core { c with matQ := listDel i c.matQ }).setWg m.wg r.1).count m.wg 15 1
      .next (match r.2 with
        | none => s
        | some src =>
          let o := src.getD 0
          s.logPoison 2 g (locPriv m.wg (o / 64 * 64)) (o / 64 * 64) 0)
    | some _, none => .next (s.setCore core { c with matQ := listDel i c.matQ })
    | none, _ => .next s

/-- Whether a copy's last byte has landed and its follow-on is to be delivered in this cycle: no command issued later enters before it
(R293, R328). -/
def Core.deliveryDue (c : Core) : Bool :=
  (c.copyQ ++ c.drainQ).any (fun o => o.follow.isSome && o.started && decide (o.count * o.size ≤ o.landed))

/-- Whether a core's queue has room for a command of a warp: a follow-on being delivered and follow-ons that wait go first (R293,
R294, R329). -/
def Core.matRoom (c : Core) (eland : Bool) : Bool :=
  !c.deliveryDue && decide (c.matQ.length + c.followWait.length < matQueueSize eland)

/-- Put a command in a core's queue. -/
def State.enterMat (s : State) (core wg : Nat) (op : MatOp) : State :=
  State.modCore { s with opSeq := s.opSeq + 1 } core (fun c => { c with matQ := c.matQ ++ [{ seq := s.opSeq, wg := wg, op := op }] })

/-- A warp's command enters the queue, or waits for room. -/
def State.submit (s : State) (c : Ctx) (op : MatOp) : Res :=
  if (s.core c.g.core).matRoom c.eland then .done none (s.enterMat c.g.core c.w.wg op) else .wait .matrix s

/-- Whether a command in the queue, or one that is to be delivered in this cycle, has still to write a tile of a workgroup (R293, R341). -/
def Core.tilePending (c : Core) (wg tile : Nat) : Bool :=
  c.matQ.any (fun m => decide (m.wg = wg) && m.op.writes.contains tile)
    || c.copyQ.any (fun o => decide (o.wg = wg) && o.started && decide (o.count * o.size ≤ o.landed)
      && (match o.follow with | some m => m.writes.contains tile | none => false))

/-! ## Checks (R325, R327, R335, R338) -/

/-- The first cause of some operand ranges (offset, length, alignment) in private scratchpad: alignment, then bounds. -/
def rangesCause (g : Wg) (lane : Nat) (rs : List (Nat × Nat × Nat)) : Option CauseInfo :=
  let at1 := fun (code a : Nat) => some (memCause code 0 0 [(lane, a)] [(lane, .bad code 0 0)])
  match rs.find? (fun r => decide (r.1 % r.2.2 ≠ 0)) with
  | some r => at1 0x03 r.1
  | none => match rs.find? (fun r => decide (g.scratch < r.1 + r.2.1)) with
    | some r => at1 0x11 r.1
    | none => none

/-- The operand checks of an `MMA`, and the command it captures (R344). -/
def mmaOp (eland : Bool) (g : Wg) (lane : Nat) (sp : Bool) (af : ActFmt) (wf : WgtFmt) (a b md ctl : Nat) :
    Except CauseInfo MatOp :=
  let m := bits ctl 6 0
  let p := bits ctl 11 8
  let mill := bits ctl 13 12
  let buf := bits ctl 14 14
  let op : MatOp := .mma sp af wf a (if eland then 0 else b) (if eland ∨ sp = false then 0 else md) m p mill buf
  if bits ctl 31 15 ≠ 0 ∨ ctl.testBit 7 ∨ (sp = true ∧ p % 2 = 1) then .error (cause0 0x02 6)
  else if !rowsOk eland m ∨ g.tileGrant < p + groupsOf sp
      ∨ (if eland then g.millGrant ≤ mill else mill ≠ 0 ∨ buf ≠ 0) then .error (cause0 0x04 0)
  else match rangesCause g lane ((a, 32 * actBytes af * groupsOf sp * m, 16) ::
      (if eland then [] else (b, 64 * groupsOf sp * groupBytes wf sp, 16) :: (if sp then [(md, 512, 8)] else []))) with
    | some x => .error x
    | none => .ok op

/-- The operand checks of an `MLW`, and the command it captures (R343). -/
def mlwOp (g : Wg) (lane : Nat) (sp : Bool) (wf : WgtFmt) (b md ctl : Nat) : Except CauseInfo MatOp :=
  let n := bits ctl 9 0 + 1
  let mill := bits ctl 17 16
  if bits ctl 31 19 ≠ 0 ∨ bits ctl 15 10 ≠ 0 then .error (cause0 0x02 6)
  else if g.millGrant ≤ mill then .error (cause0 0x04 0)
  else match rangesCause g lane ((b, n * groupsOf sp * groupBytes wf sp, 16) :: (if sp then [(md, 8 * n, 8)] else [])) with
    | some x => .error x
    | none => .ok (.mlw sp wf b (if sp then md else 0) mill (bits ctl 18 18) n)

/-! ## Major 0x3C -/

/-- Whether the executing warp stands on an Eland core. -/
def State.meEland (s : State) : Bool :=
  match Table.find s.me s.warps with
  | some w => match Table.find w.wg s.wgs with | some g => coreEland g.core | none => false
  | none => false

/-- A register named and not read. -/
def srcNamed (n : Nat) (count : Nat := 1) : Src := ⟨n, count, .none⟩

/-- A register read in the leader lane where a condition holds, else only named. -/
def srcIf (b : Bool) (n : Nat) : Src := ⟨n, 1, if b then .leader else .none⟩

/-- Whether some sources are read without meeting a mark. -/
def Ctx.unmarked (c : Ctx) (srcs : List Src) : Bool := (({ srcs := srcs } : Use).poisonCause c.w c.act).isNone

/-- The reserved-bit or shape cause of a command's control word, which comes before the poison of its operands but for that of the word
itself (Table 02.7, R335; log entry 12, DEDUCED). -/
def Ctx.shape {α : Type} (c : Ctx) (ctl : Src) (op : Except CauseInfo α) : Option CauseInfo :=
  match op with
  | .error x => if (x.code = 0x04 ∨ x.code = 0x02) ∧ c.unmarked [ctl] = true then some x else none
  | .ok _ => none

/-- Issue a matrix command: shape, operand causes, then the queue. -/
def issueMat (h : Hdr) (u : Use) (ctl : Src) (op : Ctx → Except CauseInfo MatOp) (s : State) : Out :=
  issueShaped h u (fun c => c.shape ctl (op c)) s fun c s =>
    match op c with
    | .error x => .trap x s
    | .ok m => s.submit c m

/-- A command of the leader lane: with no active lane it does nothing. -/
def issueLed (h : Hdr) (u : Use) (ctl : Src) (op : Ctx → Nat → Except CauseInfo MatOp) (s : State) : Out :=
  issueShaped h u (fun c => match c.leader with | some l => c.shape ctl (op c l) | none => none) s fun c s =>
    match c.leader with
    | none => .done none s
    | some l => match op c l with
      | .error x => .trap x s
      | .ok m => s.submit c m

/-- A matrix block product (R335, R344). -/
def mma (h : Hdr) (sp : Bool) (af : ActFmt) (wf : WgtFmt) (rec coord : Reg) (s : State) : Out :=
  let k := coord.toNat
  issueLed h { srcs := [srcL rec, srcIf (!s.meEland) k, srcIf (sp && !s.meEland) (k + 1), srcIf true (k + 2)], meld := false }
    (srcIf true (k + 2)) (fun c l =>
      let v := fun n => (c.w.rd n l).toNat
      mmaOp c.eland c.g l sp af wf (v rec.toNat) (v k) (v (k + 1)) (v (k + 2))) s

/-- MMA (R344). -/
def execMma (h : Hdr) (af : ActFmt) (wf : WgtFmt) (rec coord : Reg) (s : State) : Out := mma h false af wf rec coord s

/-- MMA.SP (R344). -/
def execMmaSp (h : Hdr) (af : ActFmt) (wf : WgtFmt) (rec coord : Reg) (s : State) : Out := mma h true af wf rec coord s

/-- A mill weight load (R335, R343); cause 0x04 on Impala (R44). -/
def mlw (h : Hdr) (sp : Bool) (wf : WgtFmt) (rec coord : Reg) (s : State) : Out :=
  let k := coord.toNat
  issueLed h { srcs := [srcL rec, srcIf sp k, srcIf true (k + 1)], meld := false, absent := !s.meEland } (srcIf true (k + 1))
    (fun c l =>
      let v := fun n => (c.w.rd n l).toNat
      mlwOp c.g l sp wf (v rec.toNat) (v k) (v (k + 1))) s

/-- MLW (R343). -/
def execMlw (h : Hdr) (wf : WgtFmt) (rec coord : Reg) (s : State) : Out := mlw h false wf rec coord s

/-- MLW.SP (R343). -/
def execMlwSp (h : Hdr) (wf : WgtFmt) (rec coord : Reg) (s : State) : Out := mlw h true wf rec coord s

/-! ## Major 0x3D -/

/-- The tile an operand word names: reserved bits zero, below the grant (R326, R340). -/
def tileOf (g : Wg) (x : Word) : Except CauseInfo Nat :=
  if bits x.toNat 31 4 ≠ 0 then .error (cause0 0x02 6)
  else if g.tileGrant ≤ x.toNat then .error (cause0 0x04 0)
  else .ok x.toNat

/-- ACLR (R340). -/
def execAclr (h : Hdr) (a : Reg) (s : State) : Out :=
  issueMat h { srcs := [src0 a], meld := false } (src0 a) (fun c => (tileOf c.g (c.lane0 a)).map .aclr) s

/-- The place in a tile that an element address names (R341). -/
def elemOf (eland : Bool) (x : Word) : Nat := bits x.toNat 21 16 * 1024 + (if eland then bits x.toNat 9 0 else bits x.toNat 5 0)

/-- Write a result with poison marks, at once or through the landing buffer (R75, R191). -/
def Warp.putMarked (w : Warp) (c : Ctx) (n : Nat) (m : Mask) (vals : Lanes) (poison : Mask) (lat : Nat) : Warp :=
  let es := fun due => (w.slotsOf n m).map (fun sl => (⟨sl, w.slotMask n m sl, vals, .general, poison, due⟩ : Landing))
  if w.inWindow then { w with landing := w.landing ++ es (c.wc + lat) } else (es 0).foldl Warp.land w

/-- ARD: read accumulator elements (R341). -/
def execArd (h : Hdr) (dst a b : Reg) (s : State) : Out :=
  issueShaped h { srcs := [src0 a, srcA b], dsts := [(dst.toNat, 1)], meld := false }
      (fun c => c.shape (src0 a) (tileOf c.g (c.lane0 a))) s fun c s =>
    match tileOf c.g (c.lane0 a) with
    | .error x => .trap x s
    | .ok t =>
      if (s.core c.g.core).tilePending c.w.wg t then .wait .matrix s
      else
        let key := fun l => t * 65536 + elemOf c.eland (c.w.rd b.toNat l)
        let vals := laneBuild (fun l => if bitOf c.act l then Table.get 0 (key l) c.g.acc else 0)
        let bad := maskOf (fun l => bitOf c.act l && Table.get false (key l) c.g.accMarks)
        .done none (s.modWarp c.id (fun w => w.putMarked c dst.toNat c.act vals bad (c.lat 6 8)))

/-- AWR: write accumulator elements (R342). -/
def execAwr (h : Hdr) (a b c : Reg) (s : State) : Out :=
  issueMat h { srcs := [srcA a, srcA b, src0 c], meld := false } (src0 c) (fun x => (tileOf x.g (x.lane0 c)).map (fun t =>
    .awr t ((lanes.filter (bitOf x.act)).map (fun l => (elemOf x.eland (x.w.rd b.toNat l), x.w.rd a.toNat l))))) s

/-- The matrix status word (Table 10.5). -/
def State.matStatus (s : State) (gid : Nat) (g : Wg) : Word :=
  BitVec.ofNat 32 (((s.core g.core).matQ.filter (fun m => decide (m.wg = gid))).length * 65536 + g.mstat.toNat % 16)

/-- MSTAT (R345). -/
def execMstat (h : Hdr) (dst : Reg) (s : State) : Out :=
  issue h { dsts := [(dst.toNat, 1)], meld := false } s fun c s =>
    .done none (s.putAll c dst.toNat (s.matStatus c.w.wg c.g) (c.lat 4 5))

/-- MSTAT.CLR (R345). -/
def execMstatClr (h : Hdr) (dst : Reg) (s : State) : Out :=
  issue h { dsts := [(dst.toNat, 1)], meld := false } s fun c s =>
    .done none ((s.putAll c dst.toNat (s.matStatus c.w.wg c.g) (c.lat 4 5)).modWg c.w.wg (fun g => { g with mstat := 0 }))

/-- The operand checks of a `SACC`, and the command it captures (R346). -/
def saccOp (eland : Bool) (g : Wg) (init bf16 : Bool) (col row : Option Nat) (ctl : Nat) : Except CauseInfo MatOp :=
  let m := bits ctl 22 16
  let p := bits ctl 11 8
  let q := bits ctl 3 0
  let e := if bf16 then 2 else 4
  if bits ctl 31 23 ≠ 0 ∨ bits ctl 15 12 ≠ 0 ∨ bits ctl 7 4 ≠ 0 then .error (cause0 0x02 6)
  else if !rowsOk eland m ∨ g.tileGrant ≤ p ∨ g.tileGrant ≤ q then .error (cause0 0x04 0)
  else match rangesCause g 0 ((match col with | some o => [(o, e * tileCols eland, e)] | none => [])
      ++ (match row with | some o => [(o, e * m, e)] | none => [])) with
    | some x => .error x
    | none => .ok (.sacc init bf16 col row m p q)

/-- SACC: scale and accumulate (R346). -/
def execSacc (h : Hdr) (init : Bool) (sf : ScaleFmt) (mode : SaccMode) (a b c : Reg) (s : State) : Out :=
  let col := decide (mode ≠ .row)
  let row := decide (mode ≠ .col)
  issueMat h { srcs := [src0 a] ++ (if col then [src0 b] else []) ++ (if row then [src0 c] else []), meld := false } (src0 a) (fun x =>
    saccOp x.eland x.g init (decide (sf = .bf16)) (if col then some (x.lane0 b).toNat else none)
      (if row then some (x.lane0 c).toNat else none) (x.lane0 a).toNat) s

end Sys2Proof.Machine
end

