-- ==== Sys2Proof/Machine/Copy.lean ====
section
/-! DEFINITION. The bulk copy engine: tensor copies, linear copies, accumulator drains and their follow-on commands (R240 to
R243, R256 to R258, R283 to R296, R314 to R317, R474, R480). -/

namespace Sys2Proof.Machine

/-! ## Operations in their queues -/

/-- The total byte count of an operation (R285). -/
def LeatOp.total (o : LeatOp) : Nat := o.count * o.size

/-- Whether an operation stands in the drain queue. -/
def LeatOp.drain (o : LeatOp) : Bool := o.form == .drnSt || o.form == .drnAdd

/-- Whether an operation moves bytes to its tile (R289). -/
def LeatOp.load (o : LeatOp) : Bool := o.form == .g2p || o.form == .c2p || o.form == .g2c

/-- The operations of a core. -/
def Core.ops (c : Core) : List LeatOp := c.copyQ ++ c.drainQ

/-- An operation of a core, by its number. -/
def Core.op (c : Core) (id : Nat) : Option LeatOp := c.ops.find? (fun o => decide (o.id = id))

/-- Change an operation of a core. -/
def State.setOp (s : State) (core : Nat) (o : LeatOp) : State :=
  let f := fun (l : List LeatOp) => l.map (fun x => if x.id = o.id then o else x)
  s.modCore core (fun c => { c with copyQ := f c.copyQ, drainQ := f c.drainQ })

/-- Who resolves the elements of an operation. -/
def State.opResolver (core : Nat) (g : Wg) (o : LeatOp) : Resolver :=
  ⟨o.wg, { g with core := core }, ⟨core, [], o.world, o.vdev⟩, false, o.form == .c2p || o.form == .p2c⟩

/-- Element k on the tile side. -/
def LeatOp.tileAt (o : LeatOp) (core k : Nat) : ElemAt :=
  let a := o.tile + k * o.size
  .ok (if o.form = .g2c then locBank (coreCluster core) a else locPriv o.wg a) 0 a none

/-- Where element k is read and where it is written (R289, R316, R317). -/
def State.opSides (s : State) (core : Nat) (g : Wg) (o : LeatOp) (k : Nat) : ElemAt × ElemAt × State :=
  let q := State.opResolver core g o
  match o.form with
  | .g2p | .c2p | .g2c => let r := s.resolveElem q o.record o.coords k .load; (r.1, o.tileAt core k, r.2)
  | .p2g | .p2c => let r := s.resolveElem q o.record o.coords k .store; (o.tileAt core k, r.1, r.2)
  | .cpyl =>
    let a := s.resolveVa q ((o.src + 16 * k) % 2 ^ 57) 16 .load
    let b := a.2.resolveVa q ((o.dst + 16 * k) % 2 ^ 57) 16 .store
    (a.1, b.1, b.2)
  | .drnSt => let r := s.resolveElem q o.record o.coords k .store; (.clip, r.1, r.2)
  | .drnAdd => let r := s.resolveElem q o.record o.coords k .rmw; (.clip, r.1, r.2)
  | .block => (.clip, .clip, s)

/-- The bytes one side touches. -/
def ElemAt.range (e : ElemAt) (n : Nat) : List (Nat × Nat) :=
  match e with
  | .ok loc _ _ _ => [(loc, n)]
  | .lost loc _ => [(loc, 1)]
  | _ => []

/-- The bytes an operation reads, an index-table entry's among them, and those it writes for element k. -/
def State.opTouch (s : State) (core : Nat) (o : LeatOp) (k : Nat) : List (Nat × Nat) × List (Nat × Nat) :=
  match o.bt with
  | some b => (if b.kind = .alloc then [] else [(b.oldBlock * 65536, 65536)], [(b.newBlock * 65536, 65536)])
  | none => match Table.find o.wg s.wgs with
    | none => ([], [])
    | some g =>
      let r := s.opSides core g o k
      (r.1.range o.size ++ s.indexRange (State.opResolver core g o) o.record o.coords k, r.2.1.range o.size)

/-- Whether two lists of byte ranges meet. -/
def rangesMeet (a b : List (Nat × Nat)) : Bool := a.any (fun x => b.any (fun y => overlaps x.1 x.2 y.1 y.2))

/-- Whether element k of an operation overlaps an earlier operation of its queue that has not landed all its bytes (R286). -/
def State.opBehind (s : State) (core : Nat) (queue : List LeatOp) (o : LeatOp) (k : Nat) : Bool :=
  let mine := s.opTouch core o k
  (queue.takeWhile (fun e => decide (e.id ≠ o.id))).any (fun e => decide (e.landed < e.total) &&
    (List.range e.count).any (fun j =>
      let t := s.opTouch core e j
      rangesMeet mine.2 t.2 || rangesMeet mine.1 t.2 || rangesMeet mine.2 t.1))

/-- Whether a thread access of the core to some bytes has still to complete (R242): a write, one that has read a unit of them and writes it
whole (R182), an element that an `SST` has supplied, a synchronisation access, or, where the engine writes, a load or an element of a load
stream. -/
def State.threadBusy (s : State) (core : Nat) (r : List (Nat × Nat)) (writes : Bool) : Bool :=
  let hit := fun (loc n : Nat) => r.any (fun x => overlaps x.1 x.2 loc n)
  (s.core core).writes.any (fun p => p.pieces.any (fun x => hit x.1 x.2.length) || p.snap.any (fun u => hit (16 * u.1) 16))
    || s.wgs.any (fun e => decide (e.2.core = core) && e.2.streams.any (fun t => t.2.supplied.any (fun x => hit x.loc x.bytes.length)))
    || s.warps.any (fun e =>
      (match Table.find e.2.wg s.wgs with | some g => decide (g.core = core) | none => false) &&
      ((writes && (e.2.pend.any (fun p => p.loads.any (fun l => l.value.isNone && hit l.loc l.bytes))))
        || (match e.2.sync with
          | some q => decide (q.kind ≠ .jwait) && q.lanes.any (fun l => hit l.loc q.bytes)
          | none => false)))
    || (writes && s.wgs.any (fun e => decide (e.2.core = core) && e.2.streams.any (fun t =>
      t.2.queue.any (fun x => !x.ready && hit (x.loc.getD 0) t.2.record.size))))

/-! ## Failures and poison (R287, R288, Table 09.5) -/

/-- Record a failure of an operation in its workgroup's error record. -/
def State.copyError (s : State) (o : LeatOp) (k code : Nat) (lo hi : Word) : State :=
  s.modWg o.wg (fun g =>
    let w0 := g.errRec.getD 0 0
    if w0.getLsbD 7 then { g with errRec := listSet 0 (w0 ||| 64) g.errRec }
    else { g with errRec := [BitVec.ofNat 32 (code * 2 ^ 24 + o.bar % 16 * 2 ^ 20 + o.minor % 256 * 256 + 128),
      BitVec.ofNat 32 (Nat.min k (2 ^ 32 - 1)), lo,
      if code = 0x18 ∨ code = 0x19 then hi &&& 0xFFFF#32 else hi &&& 0x1FFFFFF#32] })

/-- Log the poison an operation meets, once for each sector (R484). -/
def State.opPoison (s : State) (core : Nat) (g : Wg) (o : LeatOp) (cls loc addr code : Nat) : State × LeatOp :=
  if o.logged.contains (loc / 64) then (s, o)
  else (s.logPoison cls { g with core := core } loc (o.record.met loc addr) code, { o with logged := loc / 64 :: o.logged })

/-- The mark bits of n bytes at a location within its sector. -/
def sectorMask (loc n : Nat) : Nat := (2 ^ n - 1) * 2 ^ (loc % 64)

/-- Whether an operation's writes are of an older generation, which memory discards (R394). -/
def State.opOld (s : State) (o : LeatOp) : Bool := olderTag o.gen (s.gen o.vdev)

/-- The bytes an operation has now written clean in a sector; the sector is written whole once all 64 are covered (R474). -/
def State.cover (s : State) (o : LeatOp) (loc n : Nat) : State × LeatOp :=
  let m := Table.get 0 (loc / 64) o.covered ||| sectorMask loc n
  (if decide (m = 2 ^ 64 - 1) && !s.opOld o then s.setPoison (loc / 64) false else s,
    { o with covered := Table.ins (loc / 64) m o.covered })

/-- Write the bytes of an element at its place (R243, R286): at once in the core's own storage, at the home slice for global
memory, with a version that counts as the workgroup's. A write of an older generation is discarded (R394). -/
def State.engineWrite (s : State) (core : Nat) (o : LeatOp) (loc : Nat) (bs : List Byte) : State :=
  if s.opOld o then s
  else if isPriv loc then s.putAt 0 loc bs
  else if isBank loc then s.putAt (s.keyOf o.world) loc bs
  else
    let r := s.ownerWrite core (s.keyOf o.world) o.world o.vdev 1 o.carried [(loc, bs)] false true
    (r.2.modWg o.wg (fun g => { g with ver := Nat.max g.ver r.1 })).modCore core (fun c => { c with ver := Nat.max c.ver r.1 })

/-- Write the bytes of an element as poisoned bytes (R287, R296). -/
def State.enginePoison (s : State) (core : Nat) (o : LeatOp) (loc : Nat) (bs : List Byte) : State :=
  if s.opOld o then s else (s.engineWrite core o loc bs).setPoison (loc / 64) true

/-- Read the bytes of an element (R286): global ones from the storage shared at package scope; received bytes beyond a receive tail read as any
value (R421). -/
def State.engineRead (s : State) (core : Nat) (o : LeatOp) (loc attr : Nat) : (List Byte × Bool) × State :=
  if isPriv loc then ((s.bytesAt 0 loc o.size, s.poisonAt loc o.size), s)
  else if isBank loc then ((s.bytesAt (s.keyOf o.world) loc o.size, s.poisonAt loc o.size), s)
  else
    let r := s.clusterRead ⟨core, [], o.world, o.vdev⟩ loc attr true true
    let r := s.hostSide loc o.size (r.1.cut loc o.size, r.2)
    ((r.1.bytes, r.1.poison), r.2)

/-- Write an element that has been read: clean, or by the record's p2z bit zero or poison (R287). -/
def State.placeElem (s : State) (core : Nat) (g : Wg) (o : LeatOp) (dst : Nat) (bs : List Byte) (bad : Option (Nat × Nat)) :
    State × LeatOp :=
  match bad with
  | none => (s.engineWrite core o dst bs).cover o dst bs.length
  | some (loc, addr) =>
    if o.record.p2z then
      let r := s.opPoison core g o 5 loc addr 0
      (r.1.engineWrite core r.2 dst (List.replicate o.size 0)).cover r.2 dst o.size
    else
      let r := s.opPoison core g o 2 loc addr 0
      (r.1.enginePoison core r.2 dst bs, { r.2 with failed := true })

/-! ## Drains (R295, R296) -/

/-- The format of a code that `DRN.ST` converts to (R295, Table 06.7a). -/
def drainFmt (code : Nat) : Option Fmt :=
  if code = 1 then some .f32 else if code = 2 then some .f16 else if code = 3 then some .bf16 else if code = 4 then some .e4m3
  else if code = 5 then some .e5m2 else none

/-- The accumulator element of element k of a drain: column i0, row i1 of the tile. -/
def LeatOp.accOf (o : LeatOp) (k : Nat) : Nat :=
  let b := o.record.box.getD 0 1
  accKey o.tile (k / b) (k % b)

/-- One element of a drain at its place (R296). The record of a poisoned target of `DRN.ADD` names the element's address; in block-table mode,
where none is translated, the byte offset in the table (log entry 47, DESIGN CHOICE). -/
def State.drainElem (s : State) (core : Nat) (g : Wg) (o : LeatOp) (k loc addr : Nat) : State × LeatOp :=
  let v := Table.get 0 (o.accOf k) g.acc
  let marked := Table.get false (o.accOf k) g.accMarks
  if o.form = .drnSt then
    let bs := leBytes o.size (((drainFmt o.record.format).getD .f32).round .rn (fv v))
    s.placeElem core g o loc bs (if marked then some (loc, addr) else none)
  else if marked then
    if o.record.p2z then s.opPoison core g o 5 loc addr 0
    else
      let r := s.opPoison core g o 2 loc addr 0
      (r.1.enginePoison core r.2 loc (r.1.bytesAt (r.1.keyOf o.world) loc 4), { r.2 with failed := true })
  else if s.poisonAt loc 4 then
    let r := s.opPoison core g o 2 loc addr 0x28
    (r.1.copyError o k 0x28 (BitVec.ofNat 32 addr) (BitVec.ofNat 32 (addr / 2 ^ 32)), { r.2 with failed := true })
  else
    let old : Word := BitVec.ofNat 32 (leNat (s.bytesAt (s.keyOf o.world) loc 4))
    (s.engineWrite core o loc (leBytes 4 (f32Word .rn (Num.add .rn (fv old) (fv v))).toNat), o)

/-! ## Landings (R285 to R288) -/

/-- Whether an overlapping linear copy must read everything first (R316). -/
def LeatOp.overlapping (o : LeatOp) : Bool := (o.form == .cpyl) && overlaps o.src o.total o.dst o.total

/-- What a linear copy reads up to the first element it cannot read: bytes and poison. -/
def State.readAhead (s : State) (core : Nat) (g : Wg) (o : LeatOp) (k : Nat) : Nat → List (List Byte × Bool) × State
  | 0 => ([], s)
  | n + 1 =>
    let r := s.opSides core g o k
    match r.1 with
    | .ok loc attr _ _ =>
      let x := r.2.2.engineRead core o loc attr
      let t := x.2.readAhead core g o (k + 1) n
      (x.1 :: t.1, t.2)
    | _ => ([], s)

/-- What one element comes to: it must wait, it fails, or it has been dealt with, counting some bytes as landed. -/
inductive Landed where
  | stay
  | fail (code : Nat) (lo hi : Word) (s : State)
  | did (o : LeatOp) (bytes : Nat) (s : State)

/-- Keep the block-table entry an element was resolved through (R301). -/
def LeatOp.hold (o : LeatOp) (a b : ElemAt) : LeatOp := { o with holds := dedup (o.holds ++ a.via.toList ++ b.via.toList) }

/-- Element k of an operation that lost a message (R440, R452; log entry 30, DESIGN CHOICE): a source is read as poison; a write is not
made, or where its payload alone was lost is made as poison; the operation has failed. -/
def State.loseElem (s : State) (core : Nat) (g : Wg) (o : LeatOp) (payload : Bool) (src : Option (Nat × Nat)) (dst : Nat) :
    State × LeatOp :=
  let o := { o with failed := true }
  match src with
  | some (loc, addr) => s.placeElem core g o dst (List.replicate o.size 0) (some (loc, addr))
  | none => (if payload then s.enginePoison core o dst (s.bytesAt (s.keyOf o.world) dst o.size) else s, o)

/-- Whether a message of element k of an operation has been lost, and how. -/
def LeatOp.lostAt (o : LeatOp) (k : Nat) : Option Bool := (o.lost.find? (fun e => decide (e.1 = k))).map Prod.snd

/-- Move element k (R287, R289). A poisoned index-table entry is a poisoned source of a load-direction copy, and in the store direction a
recorded failure 0x28 that logs nothing, for no address of the destination is known (log entry 47, DESIGN CHOICE). -/
def State.moveElem (s : State) (core : Nat) (g : Wg) (queue : List LeatOp) (o : LeatOp) (k : Nat) : Landed :=
  let r := s.opSides core g o k
  let s' := r.2.2
  let touch := r.1.range o.size ++ r.2.1.range o.size ++ s.indexRange (State.opResolver core g o) o.record o.coords k
  if s.opBehind core queue o k || s.threadBusy core touch true then .stay
  else match r.1, r.2.1 with
    | .hold, _ => .stay
    | _, .hold => .stay
    | .bad code _ lo hi, _ => .fail code lo hi s'
    | _, .bad code _ lo hi => .fail code lo hi s'
    | _, .lost _ addr => .fail 0x28 (BitVec.ofNat 32 addr) (BitVec.ofNat 32 (addr / 2 ^ 32)) s'
    | .lost loc addr, .ok dst _ _ _ =>
      let x := s'.placeElem core g o dst (List.replicate o.size 0) (some (loc, addr))
      .did x.2 o.size x.1
    | .clip, .clip => .did o 0 s'
    | .clip, .ok dst _ addr _ =>
      if let some payload := o.lostAt k then let x := s'.loseElem core g o payload none dst; .did x.2 o.size x.1
      else if o.drain then let x := s'.drainElem core g (o.hold r.1 r.2.1) k dst addr; .did x.2 o.size x.1
      else let x := s'.placeElem core g o dst (List.replicate o.size 0) none; .did x.2 o.size x.1
    | .ok _ _ _ _, .clip => .did o 0 s'
    | .lost _ _, .clip => .did o 0 s'
    | .ok src attr addr _, .ok dst _ _ _ =>
      if let some payload := o.lostAt k then
        let x := s'.loseElem core g o payload (if isPhys src then some (src, addr) else none) dst; .did x.2 o.size x.1
      else
      let got := match o.data[k]? with
        | some d => (d, s')
        | none => s'.engineRead core o src attr
      let x := got.2.placeElem core g (o.hold r.1 r.2.1) dst got.1.1 (if got.1.2 then some (src, addr) else none)
      .did x.2 o.size x.1

/-- Land up to n elements of an operation; answers the bytes they count for. A recorded failure frees the operation's locks (R240). -/
def State.landElems (s : State) (core : Nat) (queue : List LeatOp) (o : LeatOp) (bytes : Nat) : Nat → State × LeatOp × Nat
  | 0 => (s, o, bytes)
  | n + 1 =>
    if o.stopped || decide (o.count ≤ o.next) then (s, o, bytes)
    else match Table.find o.wg s.wgs with
      | none => (s, o, bytes)
      | some g => match s.moveElem core g queue o o.next with
        | .stay => (s, o, bytes)
        | .fail code lo hi s =>
          ((s.copyError o o.next code lo hi).modCore core (fun c => { c with locks := c.locks.filter (fun k => decide (k.op ≠ o.id)) }),
            { o with stopped := true, failed := true }, bytes)
        | .did o b s => s.landElems core queue { o with next := o.next + 1 } (bytes + b) n

/-- LEAT_OPERATION_START: the first operation of a queue that has not begun begins (R283); a drain begins when every command
that entered before it and writes its tile has completed (R295, R328). -/
def execLeatOperationStart (core : Nat) (drain : Bool) (s : State) : Out :=
  let c := s.core core
  match (if drain then c.drainQ else c.copyQ).find? (fun o => !o.started) with
  | none => .next s
  | some o =>
    if o.drain && c.matQ.any (fun m => decide (m.wg = o.wg) && decide (m.seq < o.id) && m.op.writes.contains o.tile) then .next s
    else .next (s.setOp core { o with started := true })

/-- Whether every element of an operation could be read and written now. -/
def State.allFree (s : State) (core : Nat) (queue : List LeatOp) (o : LeatOp) : Bool :=
  (List.range o.count).all (fun k =>
    let t := s.opTouch core o k
    !s.opBehind core queue o k && !s.threadBusy core (t.1 ++ t.2) true)

/-- Whether an operation's barrier generation has moved on (R258). -/
def State.opStale (s : State) (o : LeatOp) : Bool :=
  match Table.find o.wg s.wgs with
  | none => true
  | some g => decide ((barOf (s.barWord o.wg g o.bar)).gen ≠ o.barGen)

/-- Whether an operation's updates of its barrier wait for a `BINIT` that its warp issued before it (R480). -/
def State.opAhead (s : State) (o : LeatOp) : Bool := s.barAhead o.wg o.warp o.bar o.barGen

/-- An operation that has landed all its bytes delivers its follow-on command (R293): nothing after a failure or
a generation that moved on; to the saved context of a workgroup that has been saved (R334); into the queue, or behind the
follow-ons that wait for an entry (R294). -/
def State.deliverFollow (s : State) (core i : Nat) : State :=
  let c := s.core core
  match c.op i with
  | none => s
  | some o => match o.follow with
    | none => s
    | some m =>
      if o.landed < o.total ∨ o.started = false ∨ s.opAhead o = true then s
      else
        let s' := s.setOp core { o with follow := none }
        if o.stopped || s.opStale o then s'
        else match Table.find o.wg s.wgs with
          | none => s'
          | some g =>
            if g.status = .saved ∨ g.status = .halting then s'.modWg o.wg (fun g => { g with followSaved := g.followSaved ++ [m] })
            else if c.followWait.isEmpty && decide (c.matQ.length < matQueueSize (coreEland core)) then
              s'.enterMat core o.wg m
            else s'.modCore core (fun c => { c with followWait := c.followWait ++ [(o.id, o.wg, m)] })

/-- LEAT_LANDING: the next n elements of operation i land on its barrier; when no element is left, the bytes not yet counted
are (R285, R287). With the last byte the follow-on is delivered, in the same cycle (R293). Nothing lands before a `BINIT` that the warp
issued before the operation has been performed (R480). -/
def execLeatLanding (core i n : Nat) (s : State) : Out :=
  let c := s.core core
  match c.op i with
  | none => .next s
  | some o => match Table.find o.wg s.wgs with
    | none => .next s
    | some g =>
      if !o.started || o.bt.isSome || c.deliveryDue || s.opAhead o then .next s
      else
        let queue := if o.drain then c.drainQ else c.copyQ
        if o.stopped || decide (o.count ≤ o.next) then
          .next (if o.landed < o.total then
            ((s.setOp core { o with landed := o.total }).engineBar o.wg o.bar o.barGen (o.total - o.landed) false false).deliverFollow core i
            else s)
        else if o.overlapping && decide (o.next = 0) && !s.allFree core queue o then .next s
        else
          let a := if o.overlapping && decide (o.next = 0) then s.readAhead core g o 0 o.count else (o.data, s)
          let r := a.2.landElems core queue { o with data := a.1 } 0 n
          let s := r.1.setOp core { r.2.1 with landed := o.landed + r.2.2 }
          .next (if r.2.2 = 0 then s else (s.engineBar o.wg o.bar o.barGen r.2.2 false false).deliverFollow core i)

/-! ## Follow-ons and arrivals (R292 to R294, R240, R256) -/

/-- FOLLOW_ON_DELIVERY: a copy that has landed all its bytes, and whose follow-on has not been delivered with the last of them, delivers it
now (R293). -/
def execFollowOnDelivery (core i : Nat) (s : State) : Out := .next (s.deliverFollow core i)

/-- FOLLOW_ON_ENTER_QUEUE: the first follow-on that waits takes a free entry; one whose workgroup an urgent halt has stopped stays with the
saved context (R294). -/
def execFollowOnEnterQueue (core : Nat) (s : State) : Out :=
  let c := s.core core
  match c.followWait with
  | [] => .next s
  | (_, wg, m) :: rest =>
    let s' := s.modCore core (fun c => { c with followWait := rest })
    if (match Table.find wg s.wgs with | some g => decide (g.status = .saved ∨ g.status = .halting) | none => false) = true then
      .next (s'.modWg wg (fun g => { g with followSaved := g.followSaved ++ [m] }))
    else if c.matQ.length < matQueueSize (coreEland core) then .next (s'.enterMat core wg m)
    else .next s

/-- Whether an engine operation, a matrix command, a write, an element that an `SST` supplied or a barrier update still belongs to a workgroup. -/
def State.wgOps (s : State) (gid : Nat) : Bool :=
  s.cores.any (fun e => e.2.ops.any (fun o => decide (o.wg = gid)) || e.2.matQ.any (fun m => decide (m.wg = gid))
    || e.2.followWait.any (fun f => decide (f.2.1 = gid)) || e.2.writes.any (fun p => decide (p.wg = gid)))
  || (match Table.find gid s.wgs with | some g => g.streams.any (fun e => !e.2.supplied.isEmpty) || !g.barPend.isEmpty | none => false)

/-- The record of a retired workgroup goes with the last operation that names it (R358). -/
def State.reapWg (s : State) (gid : Nat) : State :=
  match Table.find gid s.wgs with
  | some g => if g.status = .retired && !s.wgOps gid then s.releaseWg gid else s
  | none => s

/-- Take an operation out of its queue and free its range locks (R240). -/
def State.dropOp (s : State) (core id : Nat) : State :=
  s.modCore core (fun c => { c with
    copyQ := c.copyQ.filter (fun o => decide (o.id ≠ id))
    drainQ := c.drainQ.filter (fun o => decide (o.id ≠ id))
    locks := c.locks.filter (fun k => decide (k.op ≠ id)) })

/-- LEAT_ARRIVAL: an operation whose bytes have landed and whose follow-on has entered the queue arrives on its barrier, and
frees its locks and its place (R240, R256, R293, R294). -/
def execLeatArrival (core i : Nat) (s : State) : Out :=
  let c := s.core core
  match c.op i with
  | none => .next s
  | some o =>
    if !o.started || o.bt.isSome || decide (o.landed < o.total) || o.follow.isSome || s.opAhead o
        || c.followWait.any (fun f => decide (f.1 = i)) then .next s
    else .next (((s.engineBar o.wg o.bar o.barGen 0 true o.failed).dropOp core i).reapWg o.wg)

/-! ## Issue (R240, R283, R284, R290, R292) -/

/-- The tile address check of a copy (R290): a multiple of 16, wholly in the allocation, or in one scratchpad bank. -/
def State.tileCause (s : State) (g : Wg) (lane tile n : Nat) (cluster : Bool) : Option CauseInfo :=
  let bad := fun (code sub : Nat) => some (memCause code sub cluster.toNat [(lane, tile)] [(lane, .bad code sub 0)])
  if tile % 16 ≠ 0 then bad 0x03 0
  else if cluster then
    let b := s.bank (coreCluster g.core * 256 + tile / 2 ^ 17 % 256)
    if tile % 2 ^ 17 + n > 2 ^ 17 ∨ b.mode ≠ 1 then bad 0x11 0
    else match checkCluster s g tile 1 false with
      | .bad code sub _ => bad code sub
      | .ok _ _ => none
  else if g.scratch < tile + n then bad 0x11 0
  else none

/-- The cause a record fails with at issue: its words, its block table (R194, R299). -/
def State.recordCause (s : State) (g : Wg) (ws : List Nat) (cluster : Bool) : Option CauseInfo :=
  let r := recOf ws
  match recFails ws g.world cluster with
  | some f => some (recCause f)
  | none =>
    if r.block && (s.btFor g (bits r.index 15 0)).isNone then
      some (causeLanes 0x19 0 (fun _ => 0) (fun _ => BitVec.ofNat 32 (2 ^ 31 + bits r.index 15 0)))
    else none

/-- The formats a follow-on matches (R331). -/
def followFmts : Instr → List Nat
  | .mma _ af wf _ _ => [match af with | .bf16 => 3 | .e4m3 => 4 | .e5m2 => 5, match wf with | .q4 => 8 | .q3 => 9 | .e4m3 => 4]
  | .mmaSp _ af wf _ _ => [match af with | .bf16 => 3 | .e4m3 => 4 | .e5m2 => 5, match wf with | .q4 => 8 | .q3 => 9 | .e4m3 => 4]
  | .mlw _ wf _ _ => [match wf with | .q4 => 8 | .q3 => 9 | .e4m3 => 4]
  | .mlwSp _ wf _ _ => [match wf with | .q4 => 8 | .q3 => 9 | .e4m3 => 4]
  | _ => []

/-- The command that a follow-on instruction captures in a lane, or its cause (R292, R331); what the executing kind lacks raises cause 0x04
before any operand is looked at (R44). -/
def Ctx.follow (c : Ctx) (lane : Nat) (i : Instr) : Except CauseInfo MatOp :=
  let v := fun n => (c.w.rd n lane).toNat
  let named := fun (rec : Reg) (coord : Reg) (n : Nat) (read : List Nat) (absent : Bool) (op : Except CauseInfo MatOp) =>
    let u : Use := { srcs := srcL rec :: read.map (fun k => ⟨coord.toNat + k, 1, .leader⟩) ++ [srcNamed coord.toNat n] }
    match u.badReg c.w with
    | some r => Except.error (causeVal 0x02 4 (BitVec.ofNat 32 r))
    | none =>
      if absent then .error (cause0 0x04 0) else
      match c.shape (srcIf true (coord.toNat + n - 1)) op with
      | some x => .error x
      | none => match u.poisonCause c.w c.act with
        | some x => .error x
        | none => op
  match i with
  | .mma _ af wf rec coord =>
    named rec coord 3 (if c.eland then [2] else [0, 2]) false (mmaOp c.eland c.g lane false af wf (v rec.toNat) (v coord.toNat) 0
      (v (coord.toNat + 2)))
  | .mmaSp _ af wf rec coord =>
    named rec coord 3 (if c.eland then [2] else [0, 1, 2]) false (mmaOp c.eland c.g lane true af wf (v rec.toNat) (v coord.toNat)
      (v (coord.toNat + 1)) (v (coord.toNat + 2)))
  | .mlw _ wf rec coord =>
    named rec coord 2 [1] (!c.eland) (mlwOp c.g lane false wf (v rec.toNat) 0 (v (coord.toNat + 1)))
  | .mlwSp _ wf rec coord =>
    named rec coord 2 [0, 1] (!c.eland) (mlwOp c.g lane true wf (v rec.toNat) (v coord.toNat) (v (coord.toNat + 1)))
  | _ => .error (cause0 0x02 6)

/-- The check of a follow-on word: gap and guard fields zero, an eligible form, its own checks, then the record's format (R292,
R331): the spec does not place the last among the others (log entry 47, DESIGN CHOICE). -/
def Ctx.followWord (c : Ctx) (lane : Nat) (w : DWord) (format : Nat) : Except CauseInfo MatOp :=
  let r := Raw.ofWord w
  if r.gap ≠ 0 ∨ r.g ∨ r.s ∨ r.guard ≠ 0 ∨ r.major ≠ 0x3C then .error (cause0 0x02 6)
  else match decodeVodon w with
    | .error _ => .error (cause0 0x02 6)
    | .ok i => match c.follow lane i with
      | .error x => .error x
      | .ok op => if format ≠ 0 ∧ !(followFmts i).contains format then .error (cause0 0x02 6) else .ok op

/-- An operation enters its queue, registers its range locks and records its barrier's generation; it waits where the queue or
the range-lock table is full (R240, R258, R283). -/
def State.enqueue (s : State) (c : Ctx) (o : LeatOp) (locks : List RangeLock) : Res :=
  let k := s.core c.g.core
  if (if o.drain then 8 ≤ k.drainQ.length else 16 ≤ k.copyQ.length) then .wait .queue s
  else if 32 < k.locks.length + locks.length then .wait .rangeTable s
  else
    let o := { o with id := s.opSeq, barGen := s.barGen c.w.wg c.id c.g o.bar }
    .done none (State.modCore { s with opSeq := s.opSeq + 1 } c.g.core (fun k => { k with
      copyQ := if o.drain then k.copyQ else k.copyQ ++ [o]
      drainQ := if o.drain then k.drainQ ++ [o] else k.drainQ
      locks := k.locks ++ locks.map (fun x => { x with op := o.id }) }))

/-- An operation of the issuing warp, before it has its number. -/
def Ctx.leatOp (c : Ctx) (form : LeatForm) (minor : Nat) (bar : BitVec 4) (r : PatRec) (coords : List Int) (tile : Nat) : LeatOp :=
  { id := 0, form := form, wg := c.w.wg, warp := c.id, vdev := c.g.vdev, gen := c.g.gen, world := c.g.world, asid := c.g.asid,
    minor := minor, bar := bar.toNat, barGen := 0, record := r, coords := coords, tile := tile, src := 0, dst := 0,
    count := r.count, size := r.size, carried := maxNat c.w.versions }

/-- The range lock of a tensor side, none in block-table or indexed mode (R240, R290). -/
def Ctx.tensorLock (c : Ctx) (r : PatRec) (coords : List Int) (cluster dest : Bool) : List RangeLock :=
  if r.block || r.ind then []
  else
    let b := r.bounds coords
    let space := if cluster then 1 else 2
    [⟨dest, space, lockOwner c.g c.w.wg space, b.1, b.1 + b.2, 0⟩]

/-- Whether a copy that issues names a bank that is switching: its tile's, one that its cluster side may reach (R205, R290). -/
def State.copyHeld (s : State) (g : Wg) (form : LeatForm) (r : PatRec) (coords : List Int) (tile : Nat) : Bool :=
  s.banks.any (fun e => decide (e.1 / 256 = coreCluster g.core) && !e.2.switching.isEmpty && form.names r coords tile (e.1 % 256))

/-- The shape cause of a copy's follow-on, where its record and tile pass: it comes before the mark of an operand on which it does not depend
(Table 02.7, R290, R292). -/
def Ctx.copyShape (c : Ctx) (s : State) (form : LeatForm) (rec coord follow : Reg) : Option CauseInfo :=
  match c.leader with
  | none => none
  | some l =>
    if follow = 0 ∨ c.unmarked [srcL rec, ⟨coord.toNat + 4, 1, .leader⟩, srcL follow 2] = false then none
    else
      let b := s.readRecord c.w.wg c.g (c.w.rd rec.toNat l)
      match b.1 with
      | .error _ => none
      | .ok bs =>
        let ws := recWords bs
        let r := recOf ws
        let tile := (c.w.rd (coord.toNat + 4) l).toNat
        if (b.2.recordCause c.g ws (form == .c2p || form == .p2c)).isSome
          || b.2.copyHeld c.g form r ((span coord.toNat 4).map (fun n => (c.w.rd n l).toInt)) tile
          || (b.2.tileCause c.g l tile (r.count * r.size) (form == .g2c)).isSome then none
        else match c.followWord l (c.w.rd64 follow.toNat l) r.format with
          | .error x => if x.code = 0x04 then some x else none
          | .ok _ => none

/-- A tensor copy (R284, R289 to R292, R315). -/
def cpy (h : Hdr) (form : LeatForm) (minor : Nat) (bar : BitVec 4) (rec coord follow : Reg) (s : State) : Out :=
  let k := coord.toNat
  issueShaped h { srcs := [srcL rec, srcL coord 5] ++ (if follow = 0 then [] else [srcL follow 2]), meld := false }
      (fun c => c.copyShape s form rec coord follow) s fun c s =>
    match c.leader with
    | none => .done none s
    | some l =>
      let cluster := form == .c2p || form == .p2c
      let b := s.readRecord c.w.wg c.g (c.w.rd rec.toNat l)
      match b.1 with
      | .error x => .trap x b.2
      | .ok bs =>
        let ws := recWords bs
        let r := recOf ws
        let coords := (span k 4).map (fun n => (c.w.rd n l).toInt)
        let tile := (c.w.rd (k + 4) l).toNat
        match b.2.recordCause c.g ws cluster with
        | some x => .trap x b.2
        | none =>
          if b.2.copyHeld c.g form r coords tile then .wait .bank s else
          match b.2.tileCause c.g l tile (r.count * r.size) (form == .g2c) with
          | some x => .trap x b.2
          | none =>
            let o := c.leatOp form minor bar r coords tile
            let load := o.load
            let space := if form = .g2c then 1 else 0
            let locks := c.tensorLock r coords cluster (!load)
              ++ [⟨load, space, lockOwner c.g c.w.wg space, tile, tile + o.total, 0⟩]
            if follow = 0 then b.2.enqueue c o locks
            else match c.followWord l (c.w.rd64 follow.toNat l) r.format with
              | .error x => .trap x b.2
              | .ok m => b.2.enqueue c { o with follow := some m } locks

/-- CPY.G2P (R315). -/
def execCpyG2p (h : Hdr) (bar : BitVec 4) (rec coord follow : Reg) (s : State) : Out := cpy h .g2p 0x01 bar rec coord follow s

/-- CPY.P2G (R315). -/
def execCpyP2g (h : Hdr) (bar : BitVec 4) (rec coord follow : Reg) (s : State) : Out := cpy h .p2g 0x02 bar rec coord follow s

/-- CPY.C2P (R315). -/
def execCpyC2p (h : Hdr) (bar : BitVec 4) (rec coord follow : Reg) (s : State) : Out := cpy h .c2p 0x03 bar rec coord follow s

/-- CPY.P2C (R315). -/
def execCpyP2c (h : Hdr) (bar : BitVec 4) (rec coord follow : Reg) (s : State) : Out := cpy h .p2c 0x04 bar rec coord follow s

/-- CPY.G2C (R315). -/
def execCpyG2c (h : Hdr) (bar : BitVec 4) (rec coord follow : Reg) (s : State) : Out := cpy h .g2c 0x05 bar rec coord follow s

/-- The record of an operation that has none. -/
def noRecord : PatRec :=
  { clip := false, p2z := false, block := false, ind := false, base := 0, ispace := false, iw := false, idim := 0, world := 0,
    tier := 0, lsize := 0, format := 0, extent := [1, 1, 1, 1], stride := [0, 0, 0, 0], index := 0, box := [1, 1, 1, 1] }

/-- CPYL.G: linear copy (R316). -/
def execCpylG (h : Hdr) (bar : BitVec 4) (va vd : Reg) (s : State) : Out :=
  issue h { srcs := [srcL va 2, srcL vd 3], meld := false } s fun c s =>
    match c.leader with
    | none => .done none s
    | some l =>
      let src := (c.w.rd64 va.toNat l).toNat % 2 ^ 57
      let dst := (c.w.rd64 vd.toNat l).toNat % 2 ^ 57
      let n := (c.w.rd (vd.toNat + 2) l).toNat
      let bad := fun (a : Nat) => Res.trap (memCause 0x03 0 2 [(l, a)] [(l, .bad 0x03 0 0)]) s
      if n < 16 ∨ 2 ^ 24 < n ∨ n % 16 ≠ 0 then .trap (cause0 0x02 6) s
      else if src % 16 ≠ 0 then bad src
      else if dst % 16 ≠ 0 then bad dst
      else
        s.enqueue c { (c.leatOp .cpyl 0x08 bar noRecord [] 0) with src := src, dst := dst, count := n / 16, size := 16 }
          [⟨false, 2, c.g.asid, src, src + n, 0⟩, ⟨true, 2, c.g.asid, dst, dst + n, 0⟩]

/-- Whether a record is one a drain takes (R295). -/
def drainRecord (r : PatRec) (add : Bool) : Bool :=
  decide (r.box.getD 2 1 = 1) && decide (r.box.getD 3 1 = 1) && (!r.ind || r.block)
    && (if add then decide (r.format = 1) && decide (r.lsize = 2)
      else match drainFmt r.format with | some f => decide (f.width = 8 * r.size) | none => false)

/-- The cause of a drain whose tile is not granted or smaller than its box (R295, R326). -/
def Ctx.drainShape (c : Ctx) (tile : Nat) (r : PatRec) : Option CauseInfo :=
  if c.g.tileGrant ≤ tile ∨ tileCols c.eland < r.box.getD 0 1 ∨ 64 < r.box.getD 1 1 then some (cause0 0x04 0) else none

/-- That cause, where the record passes: it comes before the mark of an operand on which it does not depend (Table 02.7). -/
def Ctx.drainFirst (c : Ctx) (s : State) (add : Bool) (rec coord : Reg) : Option CauseInfo :=
  match c.leader with
  | none => none
  | some l =>
    if c.unmarked [srcL rec, ⟨coord.toNat + 4, 1, .leader⟩] = false then none
    else
      let b := s.readRecord c.w.wg c.g (c.w.rd rec.toNat l)
      match b.1 with
      | .error _ => none
      | .ok bs =>
        let ws := recWords bs
        if (b.2.recordCause c.g ws false).isSome || !drainRecord (recOf ws) add then none
        else c.drainShape ((c.w.rd (coord.toNat + 4) l).toNat % 16) (recOf ws)

/-- An accumulator drain (R295, R317). -/
def drn (h : Hdr) (form : LeatForm) (minor : Nat) (bar : BitVec 4) (rec coord : Reg) (s : State) : Out :=
  let k := coord.toNat
  issueShaped h { srcs := [srcL rec, srcL coord 5], meld := false } (fun c => c.drainFirst s (form == .drnAdd) rec coord) s fun c s =>
    match c.leader with
    | none => .done none s
    | some l =>
      let b := s.readRecord c.w.wg c.g (c.w.rd rec.toNat l)
      match b.1 with
      | .error x => .trap x b.2
      | .ok bs =>
        let ws := recWords bs
        let r := recOf ws
        let coords := (span k 4).map (fun n => (c.w.rd n l).toInt)
        match b.2.recordCause c.g ws false with
        | some x => .trap x b.2
        | none =>
          if !drainRecord r (form == .drnAdd) then .trap (cause0 0x02 6) b.2
          else
            let tile := (c.w.rd (k + 4) l).toNat % 16
            match c.drainShape tile r with
            | some x => .trap x b.2
            | none => b.2.enqueue c (c.leatOp form minor bar r coords tile) (c.tensorLock r coords false true)

/-- DRN.ST (R317). -/
def execDrnSt (h : Hdr) (bar : BitVec 4) (rec coord : Reg) (s : State) : Out := drn h .drnSt 0x10 bar rec coord s

/-- DRN.ADD (R317). -/
def execDrnAdd (h : Hdr) (bar : BitVec 4) (rec coord : Reg) (s : State) : Out := drn h .drnAdd 0x11 bar rec coord s

/-- CPERR: read the copy error record and clear it (R314). -/
def execCperr (h : Hdr) (dst : Reg) (s : State) : Out :=
  issue h { dsts := [(dst.toNat, 4)], window := false, meld := false } s fun c s =>
    .done none (((List.range 4).foldl (fun s i => s.putAll c (dst.toNat + i) (c.g.errRec.getD i 0) (c.lat 4 5)) s).modWg c.w.wg
      (fun g => { g with errRec := [0, 0, 0, 0] }))

end Sys2Proof.Machine
end

