-- ==== Sys2Proof/Machine/BlockTable.lean ====
section
/-! DEFINITION. KV block tables: the operations of major 0x3B, their block copies, and the reclamation of blocks (R297 to R313,
R430). -/

namespace Sys2Proof.Machine

/-! ## Pools (R430) -/

/-- The pool a table's descriptor names for a tier. -/
def BtDesc.pool (d : BtDesc) (tier : Nat) : Nat := if tier = 1 then d.lpool else d.hpool

/-- The descriptor of a pool that a table may use for a tier: valid and of that tier. -/
def State.poolFor (s : State) (hub : Nat) (d : BtDesc) (tier : Nat) : Option PoolDesc :=
  match Table.find (d.pool tier) (s.hub hub).pools with
  | some p => if p.valid && decide (p.tier = tier) then some p else none
  | none => none

/-- The free blocks a table's pool of a tier holds. -/
def State.poolCount (s : State) (hub : Nat) (d : BtDesc) (tier : Nat) : Nat :=
  match s.poolFor hub d tier with | some p => p.count | none => 0

/-- Change a pool's descriptor. -/
def State.setPool (s : State) (hub n : Nat) (p : PoolDesc) : State := s.modHub hub (fun h => { h with pools := Table.ins n p h.pools })

/-- The word of a pool's stack at an index. -/
def poolWord (p : PoolDesc) (i : Nat) : Nat := p.stack + 8 * i

/-- Take the block on top of a pool; none when it is empty. -/
def State.poolTake (s : State) (hub n : Nat) (p : PoolDesc) : Option (Nat × State) :=
  if p.count = 0 then none
  else some (bits (leNat (s.bytesAt 0 (poolWord p (p.count - 1)) 8)) 51 16, s.setPool hub n { p with count := p.count - 1 })

/-- Put a block on a pool; none when it is full. -/
def State.poolGive (s : State) (hub n : Nat) (p : PoolDesc) (block : Nat) : Option State :=
  if p.capacity ≤ p.count then none
  else some ((s.putAt 0 (poolWord p p.count) (leBytes 8 (block * 65536))).setPool hub n { p with count := p.count + 1 })

/-! ## Rings (R298) -/

/-- The members of a ring from an entry on, at most n. -/
def State.ringFrom (s : State) (d : BtDesc) (start : Nat) : Nat → Nat → List Nat
  | 0, _ => []
  | n + 1, i => i :: (let x := (s.btEntry d i).next; if x = start then [] else s.ringFrom d start n x)

/-- The ring of an entry: as many members as its reference count says, or fewer. -/
def State.ring (s : State) (d : BtDesc) (i : Nat) : List Nat := s.ringFrom d i (s.btEntry d i).refcount i

/-- Change the entries of a list. -/
def State.btEach (s : State) (d : BtDesc) (l : List Nat) (f : BtEntry → BtEntry) : State :=
  l.foldl (fun s i => s.btPut d i (f (s.btEntry d i))) s

/-- Take an entry out of its ring: the others lose a reference, and the one before it links past it. Answers whether the
entry was the last member. -/
def State.unlink (s : State) (d : BtDesc) (i : Nat) : Bool × State :=
  let others := (s.ring d i).drop 1
  let next := (s.btEntry d i).next
  let s := s.btEach d others (fun e => { e with refcount := e.refcount - 1, c := decide (1 < e.refcount - 1) })
  match others.getLast? with
  | none => (true, s)
  | some x => (false, s.btPut d x { (s.btEntry d x) with next := next })

/-! ## Blocks out of use (R239, R301, R430) -/

/-- A block leaves use: the scope checker's records of its lines are lost (R239). -/
def State.looseBlock (s : State) (hub table block tier : Nat) : State :=
  (s.dropRecs (fun e => decide (e.1 / 256 = block))).modHub hub (fun h => { h with loose := h.loose ++ [⟨block, table, tier, false⟩] })

/-- Whether an accessor still holds a block (R301). -/
def State.blockHeld (s : State) (block : Nat) : Bool :=
  let has := fun (l : List (Nat × Nat × Nat)) => l.any (fun h => decide (h.2.2 = block))
  s.wgs.any (fun e => e.2.streams.any (fun x => has x.2.holds)) || s.cores.any (fun e => e.2.ops.any (fun o => has o.holds))
    || s.cores.any (fun e => e.2.writes.any (fun p => p.pieces.any (fun x => decide (x.1 / 65536 = block))))

/-- Every cached copy of a block's lines goes (R301): core storage, cluster caches, the directory's holders. -/
def State.scrubBlock (s : State) (block : Nat) : State :=
  let s := (List.range 256).foldl (fun s i => s.recall (block * 256 + i)) s
  let mine := fun (line : Nat) => decide (line / 256 = block)
  { s with
    cores := s.cores.map (fun e => (e.1, { e.2 with copies := e.2.copies.filter (fun x => decide (x.1 / 256 / 1024 ≠ block)) }))
    ccopies := s.ccopies.filter (fun x => decide (x.1 / 256 % 2 ^ 50 / 1024 ≠ block))
    cways := s.clines.foldl (fun t e => if mine e.2.line then
        let k := e.1 / 512 * 64 + e.2.vdev
        let r := Table.get WayRegs.reset k t
        Table.put WayRegs.reset k { r with occ := r.occ - 1 } t
      else t) s.cways
    clines := s.clines.filter (fun e => !mine e.2.line) }

/-- Return block i of a hub's blocks out of use to its pool; a pool that cannot take it leaves it stranded, logged once. -/
def State.returnBlock (s : State) (hub i : Nat) : State :=
  match (s.hub hub).loose[i]? with
  | none => s
  | some b =>
    let d := (s.btTable b.table).map Prod.snd
    let gone := fun (s : State) => s.modHub hub (fun h => { h with loose := listDel i h.loose })
    let back := match d with
      | none => none
      | some d => match s.poolFor hub d b.tier with
        | none => none
        | some p => s.poolGive hub (d.pool b.tier) p b.block
    match back with
    | some s => gone s
    | none =>
      if b.stranded then s
      else
        let s := s.modHub hub (fun h => { h with loose := listSet i { b with stranded := true } h.loose })
        s.logEvent hub { LogEntry.mk0 7 0 with kind := 0, unit := 128 * hub, pa := b.block * 65536,
                                               detail := 2 ^ 31 + (match d with | some d => d.pool b.tier | none => 0) }

/-- BLOCK_RECLAIM: block i of a hub's blocks out of use is reclaimed when no hold remains on it (R301, R430). -/
def execBlockReclaim (hub i : Nat) (s : State) : Out :=
  match (s.hub hub).loose[i]? with
  | none => .next s
  | some b => if b.stranded || s.blockHeld b.block then .next s else .next ((s.scrubBlock b.block).returnBlock hub i)

/-- Try again to return every stranded block of a hub, from the last on. -/
def State.retryReturns (s : State) (hub : Nat) : State :=
  (List.range (s.hub hub).loose.length).reverse.foldl (fun s i =>
    match (s.hub hub).loose[i]? with
    | some b => if b.stranded then s.returnBlock hub i else s
    | none => s) s

/-- POOL_RETURN_RETRY: the block-table unit tries again to return blocks whose pool refused them (R430). -/
def execPoolReturnRetry (hub : Nat) (s : State) : Out := .next (s.retryReturns hub)

/-! ## Block copies (R302) -/

/-- Copy a block, or write it with zeros: one write of 64 bytes for each sector, poison carried; answers whether there was
any (R302, R305). -/
def State.copyBlock (s : State) (core : Nat) (o : LeatOp) (src : Option Nat) (dst : Nat) : Bool × State :=
  let key := s.keyOf o.world
  (List.range 1024).foldl (fun (a : Bool × State) i =>
    let s := a.2
    let at1 := fun (b : Nat) => b * 65536 + 64 * i
    let s := match src with
      | some b => if i % 4 = 0 then (s.homeTouch (at1 b / 256) o.vdev).snoop (at1 b / 256) else s
      | none => s
    let bs := match src with | some b => s.bytesAt key (at1 b) 64 | none => List.replicate 64 0
    let bad := match src with | some b => s.poisonAt (at1 b) 64 | none => false
    let r := s.ownerWrite core key o.world o.vdev 1 o.carried [(at1 dst, bs)] false true
    (a.1 || bad, r.2.setPoison (at1 dst / 64) bad)) (false, s)

/-- The atomic step of a table operation whose block copy has landed (R307, R308, R310). -/
def State.btFinish (s : State) (d : BtDesc) (b : BtStep) : State :=
  let fresh := fun (e : BtEntry) => { e with pa := b.newBlock, tier := b.tier, v := true, d := false,
                                             version := (e.version + 1) % 2 ^ 24 }
  match b.kind with
  | .alloc => s.btPut d b.entry { fresh (s.btEntry d b.entry) with c := false, next := b.entry, refcount := 1 }
  | .cow =>
    let r := s.unlink d b.entry
    let s := r.2.btPut d b.entry { fresh (r.2.btEntry d b.entry) with c := false, next := b.entry, refcount := 1 }
    if r.1 then s.looseBlock b.hub b.table b.oldBlock b.tier else s
  | .move =>
    let old := (s.btEntry d b.entry).tier
    (s.btEach d (s.ring d b.entry) fresh).looseBlock b.hub b.table b.oldBlock old

/-- Whether a write that was resolved to a block before its D was set has still to be performed. -/
def State.writesTo (s : State) (block : Nat) : Bool :=
  s.cores.any (fun e => e.2.writes.any (fun p => p.pieces.any (fun x => decide (x.1 / 65536 = block))))

/-- BLOCK_COPY_DONE: block operation i of a core, of no older generation (R394, R395), has copied its block; the table takes its atomic step, and the warp its status
(R302, R305, R307, R308, R310). -/
def execBlockCopyDone (core i : Nat) (s : State) : Out :=
  let c := s.core core
  match c.op i with
  | none => .next s
  | some o => match o.bt with
    | none => .next s
    | some b =>
      if !o.started || s.opOld o || s.opBehind core c.copyQ o 0 || (decide (b.kind ≠ .alloc) && s.writesTo b.oldBlock) then .next s
      else
        let r := s.copyBlock core o (if b.kind = .alloc then none else some b.oldBlock) b.newBlock
        let s := match s.btTable b.table with
          | some (_, d) => r.2.btFinish d b
          | none => r.2
        let status : Word := if r.1 then 0x100 else 0
        .next (((s.dropOp core i).modWarp o.warp (fun w => { w with btOp := some (some status) })).reapWg o.wg)

/-! ## Instructions -/

/-- Cause 0x19 of a table and an entry index. -/
def blkCause (t i : Nat) : CauseInfo :=
  causeLanes 0x19 0 (fun _ => BitVec.ofNat 32 i) (fun _ => BitVec.ofNat 32 (2 ^ 31 + t % 65536))

/-- A step of a table operation: an answer with its status, or the wait before it. -/
inductive BtAns where
  | status (x : Nat) (s : State)
  | copy (b : BtStep) (s : State)
  | wait

/-- A table operation (R298, R299, R302, R304): operand checks, the waits of a release at package scope, the step, and the
acquire after it. `entries` are the indices it names. -/
def btOp (h : Hdr) (dst a : Reg) (others : List Reg) (check : Ctx → Bool) (entries : Ctx → List Nat)
    (step : State → Nat → Nat → BtDesc → Ctx → BtAns) (s : State) : Out :=
  issue h { srcs := (a :: others).map (fun r => src0 r), dsts := [(dst.toNat, 1)], window := false, meld := false } s fun c s =>
    let fin := fun (s : State) (x : Word) =>
      Res.done none (((s.acquire c.id c.g 7).modWarp c.id (fun w => { w with btOp := none })).putAll c dst.toNat x (c.lat 230 240))
    match c.w.btOp with
    | some (some x) => if c.w.loaded then fin s x else .wait .fence s
    | some none => .wait .resource s
    | none =>
      let t := (c.lane0 a).toNat % 65536
      if bits (c.lane0 a).toNat 31 16 ≠ 0 ∨ check c = false then .trap (cause0 0x02 6) s
      else match s.btFor c.g t with
        | none => .trap (blkCause t ((entries c).headD 0)) s
        | some (hub, d) => match (entries c).find? (fun i => decide (d.entries ≤ i)) with
          | some i => .trap (blkCause t i) s
          | none =>
            if !s.released c.id c.g c.w 7 then .wait .fence s
            else match step s hub t d c with
              | .wait => .wait .resource s
              | .status x s => fin s (BitVec.ofNat 32 x)
              | .copy b s =>
                let o := { (c.leatOp .block 0 0 noRecord [] 0) with id := s.opSeq, count := 1, size := 65536, bt := some b }
                .wait .resource ((State.modCore { s with opSeq := s.opSeq + 1 } c.g.core (fun k =>
                  { k with copyQ := k.copyQ ++ [o] })).modWarp c.id (fun w => { w with btOp := some none }))

/-- Start a block copy: take a block from the pool of a tier and set D in some entries; status 1 when the pool is empty. The
copy queue must have room (R302). -/
def btCopy (s : State) (hub t : Nat) (d : BtDesc) (c : Ctx) (kind : BtKind) (i tier : Nat) (marked : List Nat) : BtAns :=
  match s.poolFor hub d tier with
  | none => .status 1 s
  | some p => match s.poolTake hub (d.pool tier) p with
    | none => .status 1 s
    | some (blk, s') =>
      if 16 ≤ (s.core c.g.core).copyQ.length then .wait
      else .copy ⟨kind, hub, t, i, (s.btEntry d i).pa, blk, tier⟩ (s'.btEach d marked (fun e => { e with d := true }))

/-- BTALLOC (R307). -/
def execBtalloc (h : Hdr) (dst a b c : Reg) (s : State) : Out :=
  btOp h dst a [b, c] (fun x => decide ((x.lane0 c).toNat ≤ 1)) (fun x => [(x.lane0 b).toNat]) (fun s hub t d x =>
    let i := (x.lane0 b).toNat
    let e := s.btEntry d i
    if e.d then .wait else if e.v then .status 2 s else btCopy s hub t d x .alloc i (x.lane0 c).toNat [i]) s

/-- BTCOW (R308). -/
def execBtcow (h : Hdr) (dst a b : Reg) (s : State) : Out :=
  btOp h dst a [b] (fun _ => true) (fun x => [(x.lane0 b).toNat]) (fun s hub t d x =>
    let i := (x.lane0 b).toNat
    let e := s.btEntry d i
    if e.d then .wait else if !e.v then .status 2 s else if e.refcount = 1 then .status 0 s
    else btCopy s hub t d x .cow i e.tier [i]) s

/-- BTFREE (R309). -/
def execBtfree (h : Hdr) (dst a b : Reg) (s : State) : Out :=
  btOp h dst a [b] (fun _ => true) (fun x => [(x.lane0 b).toNat]) (fun s hub t d x =>
    let i := (x.lane0 b).toNat
    let e := s.btEntry d i
    if e.d then .wait else if !e.v then .status 2 s
    else
      let r := s.unlink d i
      let e := r.2.btEntry d i
      let s := r.2.btPut d i { e with v := false, c := false, refcount := 0, version := (e.version + 1) % 2 ^ 24 }
      .status 0 (if r.1 then s.looseBlock hub t e.pa e.tier else s)) s

/-- BTMOVE (R310). -/
def execBtmove (h : Hdr) (dst a b c : Reg) (s : State) : Out :=
  btOp h dst a [b, c] (fun x => decide ((x.lane0 c).toNat ≤ 1)) (fun x => [(x.lane0 b).toNat]) (fun s hub t d x =>
    let i := (x.lane0 b).toNat
    let e := s.btEntry d i
    let ring := s.ring d i
    if e.d then .wait else if !e.v then .status 2 s else if ring.any (fun j => (s.btEntry d j).d) then .wait
    else if e.tier = (x.lane0 c).toNat then .status 3 s
    else btCopy s hub t d x .move i (x.lane0 c).toNat ring) s

/-- BTSHARE (R312). -/
def execBtshare (h : Hdr) (dst a b c : Reg) (s : State) : Out :=
  btOp h dst a [b, c] (fun _ => true) (fun x => [(x.lane0 b).toNat, (x.lane0 c).toNat]) (fun s _ _ d x =>
    let i := (x.lane0 b).toNat
    let j := (x.lane0 c).toNat
    let e := s.btEntry d i
    let k := s.btEntry d j
    let ring := s.ring d i
    if e.d || k.d then .wait
    else if !e.v || k.v || decide (i = j) then .status 2 s
    else if ring.any (fun m => (s.btEntry d m).d) then .wait
    else if e.refcount = 65535 then .status 4 s
    else
      let s := s.btEach d ring (fun m => { m with refcount := m.refcount + 1, c := true })
      let e := s.btEntry d i
      let s := s.btPut d j { k with pa := e.pa, tier := e.tier, v := true, c := true, next := e.next, refcount := e.refcount,
                                    version := (k.version + 1) % 2 ^ 24 }
      .status 0 (s.btPut d i { e with next := j })) s

/-- A read of a table into four registers, after the waits of a release (R302, R311, R313). -/
def btRead (h : Hdr) (dst a : Reg) (others : List Reg) (entries : Ctx → List Nat)
    (words : State → Nat → Nat → BtDesc → Ctx → List Word) (s : State) : Out :=
  issue h { srcs := (a :: others).map (fun r => src0 r), dsts := [(dst.toNat, 4)], window := false, meld := false } s fun c s =>
    let t := (c.lane0 a).toNat % 65536
    if bits (c.lane0 a).toNat 31 16 ≠ 0 then .trap (cause0 0x02 6) s
    else match s.btFor c.g t with
      | none => .trap (blkCause t ((entries c).headD 0)) s
      | some (hub, d) => match (entries c).find? (fun i => decide (d.entries ≤ i)) with
        | some i => .trap (blkCause t i) s
        | none =>
          if !s.released c.id c.g c.w 7 then .wait .fence s
          else .done none ((List.range 4).foldl (fun s' n =>
            s'.putAll c (dst.toNat + n) ((words s hub t d c).getD n 0) (c.lat 230 240)) (s.acquire c.id c.g 7))

/-- BTRD (R311). -/
def execBtrd (h : Hdr) (dst a b : Reg) (s : State) : Out :=
  btRead h dst a [b] (fun c => [(c.lane0 b).toNat]) (fun s _ _ d c =>
    let bs := s.bytesAt 0 (d.array + 16 * (c.lane0 b).toNat) 16
    (List.range 4).map (fun n => BitVec.ofNat 32 (leNat ((bs.drop (4 * n)).take 4)))) s

/-- BTSTAT (R313). -/
def execBtstat (h : Hdr) (dst a : Reg) (s : State) : Out :=
  btRead h dst a [] (fun _ => []) (fun s hub t d _ =>
    [BitVec.ofNat 32 d.entries, BitVec.ofNat 32 (s.poolCount hub d 0), BitVec.ofNat 32 (s.poolCount hub d 1),
      BitVec.ofNat 32 (((s.hub hub).loose.filter (fun b => decide (b.table = t))).length)]) s

end Sys2Proof.Machine
end

