-- ==== Sys2Proof/Machine/Context.lean ====
section
/-! DEFINITION. The image of a saved context: the items of Table 12.5 as bytes, sealed under the key of the workgroup's world with the
tweak of its shadow address, where it stands, and its spill to HBM4 (R27, R387 to R389, R391, R447, R448, R456). The order of the
items is the table's; their layout as bytes is the model's (log entry 43, DESIGN CHOICE). -/

namespace Sys2Proof.Machine

/-- A count and the items behind it. -/
def listBytes {α : Type} (f : α → List Byte) (l : List α) : List Byte := leBytes 4 l.length ++ l.flatMap f

/-- Words as bytes. -/
def wordsBytes (l : List Word) : List Byte := listBytes (fun x => leBytes 4 x.toNat) l

/-- Double words as bytes. -/
def numsBytes (l : List Nat) : List Byte := listBytes (leBytes 8) l

/-- Some numbered bytes. -/
def pairsBytes {α : Type} (f : α → List Byte) (l : Table α) : List Byte := listBytes (fun e => leBytes 4 e.1 ++ f e.2) l

/-- A presence byte and what is there. -/
def optBytes {α : Type} (f : α → List Byte) (o : Option α) : List Byte := match o with | some x => 1 :: f x | none => [0]

/-- A truth value as a byte. -/
def boolBytes (b : Bool) : List Byte := [BitVec.ofNat 8 b.toNat]

/-- A register with its tag and poison marks (R47, R191). -/
def RegVal.image (r : RegVal) : List Byte :=
  (match r.tag with | .general => 0 | .uniform => 1 | .affine => 2) :: leBytes 4 r.poison.toNat ++ wordsBytes r.vals

/-- A cause held pending (R384). -/
def CauseInfo.image (c : CauseInfo) : List Byte := [c.code, c.sub] ++ boolBytes c.fetch ++ wordsBytes c.tval ++ wordsBytes c.tvalh

/-- An entry of the landing buffer (R388). -/
def Landing.image (e : Landing) : List Byte :=
  leBytes 4 e.slot ++ leBytes 4 e.mask.toNat ++ wordsBytes e.vals ++ RegVal.image ⟨e.tag, [], e.poison⟩ ++ leBytes 8 e.due

/-- What is saved of a warp (Table 12.5). -/
def Warp.context (w : Warp) : List Byte :=
  leBytes 4 w.idx ++ leBytes 4 w.role ++ leBytes 4 w.budget ++ boolBytes w.spawned
    ++ (List.range w.budget).flatMap (fun n => (w.reg n).image)
    ++ (List.range 16).flatMap (fun n => (w.reg (256 + n)).image) ++ boolBytes w.trap
    ++ leBytes 4 w.cause.toNat ++ leBytes 8 (w.epc.toNat + 2 ^ 32 * w.epch.toNat) ++ wordsBytes w.tval ++ wordsBytes w.tvalh
    ++ leBytes 4 w.trapMask.toNat
    ++ leBytes 8 w.pc.toNat ++ leBytes 4 w.exm.toNat ++ leBytes 4 w.entryMask.toNat ++ boolBytes w.melded ++ leBytes 4 w.meldReg.toNat
    ++ leBytes 4 w.paths.toNat ++ w.ren0 ++ w.ren1 ++ wordsBytes w.loops ++ boolBytes w.window ++ boolBytes w.issued ++ boolBytes w.step
    ++ leBytes 8 w.lastWc ++ listBytes Landing.image w.landing
    ++ leBytes 4 w.cych.toNat ++ leBytes 1 w.prio.toNat ++ listBytes CauseInfo.image w.async ++ leBytes 8 w.stall
    ++ numsBytes w.pv ++ numsBytes w.floor ++ leBytes 8 w.ov ++ leBytes 8 w.wmax ++ numsBytes w.unflushed

/-- A window: its cycle, participants and recorded arrivals (R153). -/
def Window.image (x : Window) : List Byte :=
  leBytes 4 x.mask.toNat ++ leBytes 4 x.arrived.toNat ++ leBytes 4 x.inside.toNat ++ boolBytes x.running ++ leBytes 8 x.cycle

/-- A copied pattern record (Table 06.7). -/
def PatRec.image (r : PatRec) : List Byte :=
  [r.clip, r.p2z, r.block, r.ind, r.ispace, r.iw].flatMap boolBytes ++ leBytes 8 r.base ++ leBytes 8 r.index
    ++ [r.idim, r.world, r.tier, r.lsize, r.format].flatMap (leBytes 4) ++ numsBytes r.extent
    ++ listBytes (fun x => leBytes 8 (wrapI x 64)) r.stride ++ numsBytes r.box

/-- A stream slot (R201): the copied record and what SSTAT answers. -/
def Stream.image (x : Stream) : List Byte :=
  boolBytes x.opened ++ boolBytes x.store ++ leBytes 4 x.owner ++ x.record.image ++ listBytes (fun i => leBytes 8 (wrapI i 64)) x.coords
    ++ [x.total, x.done, x.poisonCount, x.stallCount, x.seq].flatMap (leBytes 8) ++ boolBytes x.poisoned

/-- A Millpond entry (R140, R146). -/
def PondEntry.image (p : PondEntry) : List Byte :=
  leBytes 8 p.resume ++ [p.lane, p.warpIdx, p.role, p.budget, p.world].flatMap (leBytes 4)
    ++ listBytes (fun e => leBytes 4 e.1 ++ leBytes 4 e.2.1.toNat ++ boolBytes e.2.2) p.regs ++ wordsBytes p.loops ++ leBytes 1 p.prio.toNat

/-- A weight buffer of a mill: format, density, columns, masks and marks (R323, R334). -/
def MillBuf.image (m : MillBuf) : List Byte :=
  boolBytes m.sparse ++ leBytes 1 (match m.wfmt with | .q4 => 0 | .q3 => 1 | .e4m3 => 2) ++ listBytes (fun c => listBytes (fun g => listBytes (fun b => [b]) g) c.groups ++ numsBytes c.masks ++ boolBytes c.marked) m.cols

/-- The items of Table 12.5 of a workgroup, in the table's order, and its private scratchpad with its poison. -/
def State.contextBytes (s : State) (gid : Nat) (g : Wg) : List Byte :=
  listBytes (fun e => e.2.context) (s.wgWarps gid)
    ++ optBytes Window.image g.win ++ pairsBytes Stream.image g.streams
    ++ listBytes (fun q => listBytes (fun e => wordsBytes e.vals ++ leBytes 4 e.mask.toNat) q) g.queues
    ++ s.bytesAt 0 (locPriv gid 0) g.scratch
    ++ (List.range (g.scratch / 64)).flatMap (fun i => boolBytes (s.poisonAt (locPriv gid (64 * i)) 64))
    ++ pairsBytes (fun x => leBytes 4 x.toNat) g.acc ++ pairsBytes boolBytes g.accMarks ++ pairsBytes MillBuf.image g.mills
    ++ leBytes 4 g.mstat.toNat ++ listBytes PondEntry.image g.pond ++ pairsBytes (leBytes 8) g.binWait
    ++ wordsBytes g.errRec ++ pairsBytes (fun x => leBytes 4 x.toNat) g.opb ++ numsBytes (g.perf.map BitVec.toNat)
    ++ leBytes 8 g.opCount ++ leBytes 4 g.savedPos.toNat ++ pairsBytes wordsBytes g.savedLoops

/-- Bytes filled up with zeros to whole 16-byte units. -/
def padUnits (bs : List Byte) : List Byte := bs ++ List.replicate ((16 - bs.length % 16) % 16) 0

/-- Bytes sealed under a key unit by unit from a shadow offset: bit 56 of the tweak is 1, its bits [55:48] the world (R389, R456). World 0
is left plain. -/
def sealShadow (key off : Nat) (bs : List Byte) : List Byte :=
  if key = 0 then bs
  else (List.range (bs.length / 16)).flatMap (fun u =>
    cipherUnit key (2 ^ 56 + key % 256 * 2 ^ 48 + off / 16 + u) ((bs.drop (16 * u)).take 16))

/-- The image of a saved workgroup as its shadow storage holds it (R389). -/
def State.contextImage (s : State) (gid : Nat) (g : Wg) (im : ShadowImage) : List Byte :=
  sealShadow im.key im.off (padUnits (s.contextBytes gid g))

/-- The lowest 256-aligned offset at which n bytes meet none of some ranges. -/
def freeOffset (used : List (Nat × Nat)) (n : Nat) : Nat :=
  let starts := used.map (fun r => (r.1 + r.2 + 255) / 256 * 256)
  let fits := fun (a : Nat) => used.all (fun r => !overlaps a n r.1 r.2)
  if fits 0 then 0 else (starts.filter fits).foldl Nat.min (starts.foldl Nat.max 0)

/-- Where the image of a workgroup about to be saved goes: the shadow storage of its chiplet, under the key of its world (R387, R389). -/
def State.placeImage (s : State) (gid : Nat) (g : Wg) : ShadowImage :=
  let n := (padUnits (s.contextBytes gid g)).length
  let used := s.wgs.filterMap (fun e => e.2.image.bind (fun im => if im.chip = coreChip g.core then some (im.off, im.size) else none))
  { chip := coreChip g.core, off := freeOffset used n, size := n, key := s.keyOf g.world }

/-- Keep a saved workgroup's image in the shadow storage of its chiplet (R368, R387). -/
def State.keepImage (s : State) (gid : Nat) : State :=
  match Table.find gid s.wgs with
  | none => s
  | some g => s.modWg gid (fun x => { x with image := some (s.placeImage gid g) })

/-- Where an image stands, or is to stand, in the HBM4 region of its chiplet (Table 14.3, R447). -/
def State.imageAt (s : State) (im : ShadowImage) : Nat :=
  (Table.get {} (chipPort im.chip) (s.hub (chipHub im.chip)).ports).shadow.toNat + im.off

/-- Write the images of a chiplet's saved workgroups to its HBM4 region as they stand, ciphertext or open (R389, R447, R448). -/
def State.spillChip (s : State) (chip : Nat) : State :=
  s.wgs.foldl (fun s e => match e.2.image with
    | some im => if im.chip ≠ chip ∨ im.out.isSome = true then s else
      let bs := s.contextImage e.1 e.2 im
      (s.putPieces 0 [(s.imageAt im, bs)]).modWg e.1 (fun g => { g with image := some { im with out := some bs } })
    | none => s) s

/-- Whether a saved context's image is what was saved: it stands in shadow storage, or its HBM4 region holds what the spill wrote there,
free of poison (R447). -/
def State.imageIntact (s : State) (g : Wg) : Bool :=
  match g.image with
  | some im => match im.out with
    | some bs => decide (s.bytesAt 0 (s.imageAt im) bs.length = bs) && !s.poisonAt (s.imageAt im) (Nat.max 1 bs.length)
    | none => true
  | none => true

/-- A context restored from an HBM4 region whose bytes have changed since the spill: what it then holds in registers, addresses, scratchpad,
accumulators and saved positions is free, as no layout is laid down (R447; log entry 43, DESIGN CHOICE). -/
def State.scramble (s : State) (gid : Nat) (g : Wg) : State :=
  let f := s.takeFree
  let n := f.1
  let reg := fun (id k : Nat) => (⟨.general, laneBuild (fun l => Config.freeWord n ((id * 512 + k) * 32 + l)), 0⟩ : RegVal)
  let warp := fun (id : Nat) (w : Warp) => { (List.range w.budget).foldl (fun (w : Warp) k => w.setReg k (reg id k)) w with
    pc := BitVec.ofNat 57 (Config.freeNat n / 2 ^ (64 * id)), exm := Config.freeWord n (id * 16384 + 16000) }
  let s := { f.2 with warps := f.2.warps.map (fun (e : Nat × Warp) => if e.2.wg = gid then (e.1, warp e.1 e.2) else e) }
  let s := s.putPieces 0 [(locPriv gid 0, (List.range g.scratch).map (fun i => (Config.freeWord n (2 ^ 40 + i)).setWidth 8))]
  s.modWg gid (fun g => { g with
    acc := g.acc.map (fun (e : Nat × Word) => (e.1, Config.freeWord n (2 ^ 41 + e.1))), savedPos := Config.freeWord n (2 ^ 42)
    savedLoops := g.savedLoops.map (fun (e : Nat × List Word) => (e.1, (List.range 6).map (fun i => Config.freeWord n (2 ^ 43 + 8 * e.1 + i)))) })

/-- A saved workgroup is restored from its image (R387, R447). -/
def State.restore (s : State) (gid : Nat) (g : Wg) : State :=
  (if s.imageIntact g then s else s.scramble gid g).modWg gid (fun g => { g with image := none })

end Sys2Proof.Machine
end

