-- ==== Sys2Proof/Machine/Measure.lean ====
section
/-! DEFINITION. Measurement: the platform and tenant registers of the security engine and their log (R457 to R459). -/

namespace Sys2Proof.Machine

/-- A log label that the spec does not state: free ASCII characters, zero-padded to 48 bytes (R459; log entry 32, DEDUCED). -/
def freeLabel (k : Nat) : List Byte :=
  (List.range 48).map (fun i => if i < Config.freeNat k % 49 then BitVec.ofNat 8 (1 + Config.freeNat k / 49 / 127 ^ i % 127) else 0)

/-- Whether a label is ASCII (R459). -/
def asciiLabel (bs : List Byte) : Bool := bs.all (fun b => decide (0 < b.toNat) && decide (b.toNat < 128))

/-- A byte string cut or zero-padded to a length. -/
def padTo (n : Nat) (bs : List Byte) : List Byte := (bs ++ List.replicate n 0).take n

/-- A register after an extend with the digest of an item (R457). -/
def extendWith (m d : List Byte) : List Byte := Config.sha512 (m ++ d)

/-- An extend appends to the measurement log; a full log sets the overflow flag instead (R459). -/
def Engine.record (e : Engine) (reg vdev : Nat) (d label : List Byte) : Engine :=
  if e.log.length < 65536 then { e with log := e.log ++ [(e.log.length, reg, vdev, d, padTo 48 label)] }
  else { e with overflow := true }

/-- Extend a platform register with an item (R457). -/
def Engine.measure (e : Engine) (r : Nat) (item label : List Byte) : Engine :=
  let d := Config.sha512 item
  { (e.record r 0 d label) with platform := listSet r (extendWith (e.platform.getD r []) d) e.platform }

/-- Extend a platform register with an item whose label the spec does not state. -/
def State.measure (s : State) (r : Nat) (item : List Byte) : State :=
  let f := s.takeFree
  { f.2 with engine := f.2.engine.measure r item (freeLabel f.1) }

/-- Extend the tenant register of a virtual device with a kernel object, unless its digest is recorded already (R458): none for the
1,025th distinct digest. -/
def State.measureTenant (s : State) (v : Nat) (object : List Byte) : Option State :=
  let d := Config.sha512 object
  let t := s.tenant v
  if t.digests.contains d then some s
  else if 1024 ≤ t.digests.length then none
  else
    let f := s.takeFree
    let s := f.2.setTenant v { t with reg := extendWith t.reg d, digests := t.digests ++ [d] }
    some { s with engine := s.engine.record 8 v d (freeLabel f.1) }

/-- Whether a protected world is held after a wake (R463). -/
def State.worldHeld (s : State) (world : Nat) : Bool :=
  match Table.find world s.worlds with | some w => w.held | none => false

end Sys2Proof.Machine
end

