-- ==== Sys2Proof/Machine/Launch.lean ====
section
/-! DEFINITION. The launch instructions, operator boundaries, the saving of a slice, retirement, and what a core admits (R352 to
R358, R366 to R376, R146, R263, R267, R334, R387, R393). -/

namespace Sys2Proof.Machine

/-! ## Slots, packets and hubs -/

/-- A slot of a hub. -/
def State.slot (s : State) (hub i : Nat) : Slot := Table.get {} i (s.hub hub).slots

/-- Change a slot of a hub. -/
def State.modSlot (s : State) (hub i : Nat) (f : Slot → Slot) : State :=
  s.modHub hub (fun h => { h with slots := Table.put {} i (f (Table.get {} i h.slots)) h.slots })

/-- Change a packet, if the hub has it. -/
def State.modPkt (s : State) (p : Nat) (f : Packet → Packet) : State := { s with pkts := Table.modify p f s.pkts }

/-- The slot whose record covers workgroup `lin` of a packet. -/
def State.slotFor (s : State) (hub pkt lin : Nat) : Option Nat :=
  ((s.hub hub).slots.find? (fun e => (decide (e.2.state = .active) || decide (e.2.state = .held)) && decide (e.2.pkt = pkt)
    && decide (e.2.w2.toNat ≤ lin) && decide (lin < e.2.stop))).map Prod.fst

/-- Change the slot of a workgroup. -/
def State.modSlotOf (s : State) (g : Wg) (f : Slot → Slot) : State :=
  match s.slotFor g.hub g.pkt g.lin with
  | some i => s.modSlot g.hub i f
  | none => s

/-- A slot whose whole range has retired is done (R352). -/
def Slot.settle (x : Slot) : Slot :=
  if x.stop - x.w2.toNat ≤ x.retired + x.lost ∧ x.state ≠ .free ∧ x.state ≠ .rejected then { x with state := .done } else x

/-- A core on its way out of its partition leaves it when nothing is resident (R370). -/
def State.leaveCore (s : State) (core : Nat) : State :=
  if (s.core core).leaving && (s.resident core).isEmpty then s.modCore core (fun c => { c with part := none, leaving := false })
  else s

/-- A workgroup that a pre-emption waited for has been saved, or is gone (R428; log entry 22, DEDUCED). -/
def State.awaitedGone (s : State) (gid : Nat) (saved : Bool) : State :=
  [0, 1].foldl (fun s hub => if (s.hub hub).awaited.contains gid then
      s.modHub hub (fun h => { h with awaited := h.awaited.filter (· ≠ gid), savedNow := h.savedNow + saved.toNat }) else s) s

/-! ## Operator boundaries (R368, R372) -/

/-- Close every stream of a warp; none while one still has an element that waits (R201). -/
def State.closeStreams (s : State) (gid id : Nat) : Option State :=
  match Table.find gid s.wgs with
  | none => some s
  | some g => (g.streams.filter (fun e => e.2.opened && decide (e.2.owner = id))).foldl
      (fun a e => match a with | none => none | some s => s.closeStream gid e.1) (some s)

/-- OPB: arrive at the operator boundary with a position, and wait for it (R372). -/
def execOpb (h : Hdr) (a : Reg) (s : State) : Out :=
  issue h { srcs := [src0 a], window := false, meld := false } s fun c s =>
    let p := c.lane0 a
    let first := c.g.opbFirst.getD p
    if (Table.find c.id c.g.opb).isSome then .wait .boundary s
    else if first ≠ p then .trap (causeVal 0x31 0 first) s
    else match s.closeStreams c.w.wg c.id with
      | none => .wait .stream s
      | some s => .wait .boundary (s.modWg c.w.wg (fun g => { g with opb := Table.ins c.id p g.opb, opbFirst := some p }))

/-- Whether no Millpond entry, formed warp, barrier update, engine operation or matrix command of a workgroup is left (R146, R257, R263,
R334). -/
def State.quiet (s : State) (gid : Nat) (g : Wg) : Bool :=
  g.pond.isEmpty && g.barPend.isEmpty && (s.wgWarps gid).all (fun e => !e.2.spawned)
    && s.cores.all (fun e => e.2.ops.all (fun o => decide (o.wg ≠ gid)) && e.2.matQ.all (fun m => decide (m.wg ≠ gid))
      && e.2.followWait.all (fun f => decide (f.2.1 ≠ gid)))

/-- Whether a workgroup's operator boundary is reached (R368). -/
def State.atBoundary (s : State) (gid : Nat) : Bool :=
  match Table.find gid s.wgs with
  | none => false
  | some g => decide (g.status = .running) && g.opbFirst.isSome && s.quiet gid g &&
      (s.wgWarps gid).all (fun e => decide (e.2.wait = .boundary) && (Table.find e.1 g.opb).isSome)

/-- The warps of a workgroup go on past their boundary: each has then issued its `OPB` and completed it (R368, R386, R392). -/
def State.passBoundary (s : State) (gid : Nat) : State :=
  let ws := s.wgWarps gid
  let s := ws.foldl (fun s e => s.modWarp e.1 (fun w => w.stepTo 0 w.next)) s
  let s := (s.count gid 1 ws.length).modWg gid (fun g => { g with opb := [], opbFirst := none, opCount := 0 })
  match Table.find gid s.wgs with
  | none => s
  | some g => ws.foldl (fun s e => s.stepEvent ⟨e.1, e.2, g, 0⟩) s

/-- What a slice end leaves of a workgroup: its position, loop counters, queues and counters (R368, R267, R393). -/
def Wg.park (g : Wg) (loops : Table (List Word)) : Wg :=
  { g with
    status := .parked, savedPos := g.opbFirst.getD 0, savedLoops := loops, resumed := true, opb := [], opbFirst := none,
    opCount := 0, sliceEnd := false, streams := [], win := none, barPend := [], acc := [], accMarks := [], mills := [],
    mstat := 0, errRec := [0, 0, 0, 0], pond := [], binWait := [], granted := [] }

/-- What a non-coherent cluster cache holds dirty goes home when a workgroup leaves its cluster, so that the workgroup's writes are before
it wherever it goes on (R226, R244; log entry 44, DEDUCED). -/
def State.leaveCluster (s : State) (g : Wg) : State :=
  if (s.chip (coreChip g.core)).cls = 2 then s.flushCluster (coreCluster g.core) g.ver else s

/-- Save a workgroup at its operator boundary and release everything else it holds (R368). -/
def State.parkWg (s : State) (gid : Nat) : State :=
  match Table.find gid s.wgs with
  | none => s
  | some g0 =>
    let ws := s.wgWarps gid
    let s := ws.foldl (fun s e => s.landAll e.1) s
    let loops : Table (List Word) := ws.foldl (fun t e => Table.ins e.2.idx e.2.loops t) []
    let s := { (s.clearRange (locPriv gid 0) (2 ^ 32)) with warps := s.warps.filter (fun e => decide (e.2.wg ≠ gid)) }
    let s := s.modCore g0.core (fun c => c.dropRing (fun e => decide (e.1 = gid)))
    let s := s.modWg gid (fun g => g.park loops)
    let s := (s.keepImage gid).leaveCluster g0
    (((s.modSlotOf g0 (fun x => { x with saved := x.saved + 1 })).awaitedGone gid true).unmapTasks g0.core).leaveCore g0.core

/-- The workgroups of a packet that stand on a core. -/
def State.pktWgs (s : State) (p : Nat) : List (Nat × Wg) := s.wgs.filter (fun e => decide (e.2.pkt = p) && e.2.stands)

/-- OPERATOR_BOUNDARY_REACHED: the warps continue, or the workgroup is saved for a pending slice end; a cooperative kernel with
a slice end pending anywhere waits to be held together (R368, R369). -/
def execOperatorBoundaryReached (gid : Nat) (s : State) : Out :=
  if !s.atBoundary gid then .next s
  else match Table.find gid s.wgs with
    | none => .next s
    | some g =>
      let coop := match Table.find g.pkt s.pkts with | some p => p.coop | none => false
      if coop then
        if (s.pktWgs g.pkt).any (fun e => e.2.sliceEnd) then .next s else .next (s.passBoundary gid)
      else if g.sliceEnd then .next (s.parkWg gid)
      else .next (s.passBoundary gid)

/-! ## Queue events (R414, Table 13.3) -/

/-- An event word. -/
def eventWord (kind vdev id detail : Nat) : DWord :=
  BitVec.ofNat 64 (kind % 16 * 2 ^ 60 + vdev % 64 * 2 ^ 54 + id % 2 ^ 16 * 2 ^ 32 + detail % 2 ^ 32)

/-- An event enters an I/O core's FIFO, or counts as lost when the FIFO is full. -/
def Hart.put (h : Hart) (e : DWord × Nat) : Hart :=
  if h.events.length < 256 then { h with events := h.events ++ [e] } else { h with overflow := h.overflow + 1 }

/-- A tenant's host interaction with a Kudu: the hold of R442 is due if poison was found there. -/
def State.interact (s : State) (kudu vdev : Nat) : State :=
  if (s.hub kudu).poisonHold.contains vdev then
    s.modHub kudu (fun h => { h with poisonHold := h.poisonHold.filter (· ≠ vdev), holdDue := h.holdDue ++ [vdev] })
  else s

/-- A queue of a hub. -/
def State.queue (s : State) (hub q : Nat) : Queue := Table.get {} q (s.hub hub).queues

/-- Change a queue of a hub. -/
def State.modQueue (s : State) (hub q : Nat) (f : Queue → Queue) : State :=
  s.modHub hub (fun h => { h with queues := Table.put {} q (f (Table.get {} q h.queues)) h.queues })

/-- Whether a Kudu is being isolated or has been: events for its harts reach nobody (R436). -/
def State.kuduGone (s : State) (kudu : Nat) : Bool :=
  match (Table.get {} 0 (s.hub kudu).ports).state with | .isolating | .isolated => true | _ => false

/-- An event of a queue goes to the I/O core it is bound to; an unbound queue's is discarded, and so is that of a queue whose Kudu was
isolated, until it is bound again (R414, R436). -/
def State.postEvent (s : State) (hub q kind detail : Nat) : State :=
  let x := s.queue hub q
  match x.bound with
  | none => s
  | some n => if x.deaf || s.kuduGone (n / 40) then s else (s.setHart n ((s.hartOf n).put (eventWord kind x.vdev (hub * 1024 + q) detail, s.gen x.vdev))).interact (n / 40) x.vdev

/-- COOPERATIVE_HOLD: every workgroup of the kernel has reached its boundary, and all are saved together; the slot is held, and
the hold is reported to Foulo and to the queue's Kudu (R369). -/
def execCooperativeHold (p : Nat) (s : State) : Out :=
  match Table.find p s.pkts with
  | none => .next s
  | some k =>
    let ws := s.pktWgs p
    if !k.coop || !ws.any (fun e => e.2.sliceEnd) || !ws.all (fun e => s.atBoundary e.1) then .next s
    else
      let s := ws.foldl (fun s e => s.parkWg e.1) s
      let s := match s.slotFor k.hub p 0 with
        | some i => s.modSlot k.hub i (fun x => { x with state := .held })
        | none => s
      let s := s.modHub k.hub (fun h => { h with reports := h.reports ++ [⟨256, 0, p, 0, 0⟩] })
      .next (s.postEvent k.hub k.queue 3 k.index)

/-! ## Instructions (R372 to R376) -/

/-- TASKEND: the warp ends, and its workgroup retires under the drain mask (R375). -/
def execTaskend (h : Hdr) (s : State) : Out :=
  issue h { window := false, meld := false } s fun c s =>
    .over (((s.count c.w.wg 1 1).modWg c.w.wg (fun g => { g with taskend := true })).endWarp c.id)

/-- PRIO: the warp's issue priority (R374). -/
def execPrio (h : Hdr) (a : Reg) (s : State) : Out :=
  issue h { srcs := [src0 a], window := false, meld := false } s fun c s =>
    if 3 < (c.lane0 a).toNat then .trap (cause0 0x02 6) s
    else .done none (s.modWarp c.id (fun w => { w with prio := (c.lane0 a).setWidth 2 }))

/-- A kernel value for a packet: the hub keeps the largest (R373). -/
def State.kernelValue (s : State) (p v : Nat) : State := s.modPkt p (fun k => { k with kval := Nat.max k.kval v })

/-- PKTST: report a packet status value (R373). -/
def execPktst (h : Hdr) (a : Reg) (s : State) : Out :=
  issue h { srcs := [src0 a], window := false, meld := false } s fun c s =>
    if 2 ^ 16 ≤ (c.lane0 a).toNat then .trap (cause0 0x02 6) s
    else .done none (s.kernelValue c.g.pkt (c.lane0 a).toNat)

/-- The weight of an energy class (R354). -/
def energyWeight (e : Nat) : Nat := [1, 2, 3, 4, 6, 8, 12, 16].getD e 16

/-- The load of a core: the weights of its resident workgroups (R354). -/
def State.loadOf (s : State) (core : Nat) : Nat := (s.resident core).foldl (fun n e => n + energyWeight e.2.energy) 0

/-- The partition of a workgroup: its slot's, or 0xFF. -/
def State.partOf (s : State) (g : Wg) : Nat :=
  match s.slotFor g.hub g.pkt g.lin with
  | some i => bits (s.slot g.hub i).w1.toNat 31 24
  | none => 0xFF

/-- The value of a `WGQ` selector (Table 11.9). -/
def State.wgqValue (s : State) (c : Ctx) (sel : Nat) : Option Nat :=
  let warps := fun r => (c.g.roles.getD r ⟨0, 0, 0⟩).warps
  if sel = 0 then some c.g.savedPos.toNat
  else if sel = 1 then some c.g.resumed.toNat
  else if sel < 8 then some (c.g.loops.getD (sel - 2) ⟨0, .absent⟩).extent
  else if sel = 8 then some (warps 0 + 256 * warps 1 + 2 ^ 16 * warps 2 + 2 ^ 24 * warps 3)
  else if sel = 9 then some c.w.roleIdx
  else if sel = 10 then some (c.g.tileGrant + 256 * c.g.millGrant + 2 ^ 16 * c.g.energy + 2 ^ 24 * s.partOf c.g)
  else if sel = 11 then some c.g.scratch
  else if sel = 12 then some (s.loadOf c.g.core + 256 * (s.core c.g.core).limit)
  else none

/-- WGQ: query the workgroup (R376). -/
def execWgq (h : Hdr) (dst a : Reg) (s : State) : Out :=
  issue h { srcs := [src0 a], dsts := [(dst.toNat, 1)], window := false, meld := false } s fun c s =>
    match s.wgqValue c (c.lane0 a).toNat with
    | none => .trap (cause0 0x02 6) s
    | some v => .done none (s.putAll c dst.toNat (BitVec.ofNat 32 v) (c.lat 4 5))

/-! ## Retirement (R244, R358) -/

/-- The engine queues a retiring workgroup waits for: those of its kernel's drain mask after a `TASKEND`, else all five (R358). -/
def Wg.drainMask (g : Wg) : Nat := if g.taskend && !g.aborted then g.drain else 31

/-- Whether the engine queues that a retiring workgroup waits for have drained; the elements of its store streams count under the
stream bit, its other writes under the store-buffer bit (R244, R358). Matrix commands and barrier updates stand in none of the queues that
R244 names: they run on. No collective queue exists (log entry 23, DEDUCED). -/
def State.drained (s : State) (gid : Nat) (g : Wg) : Bool :=
  let mask := g.drainMask
  let c := s.core g.core
  (!mask.testBit 0 || c.copyQ.all (fun o => decide (o.wg ≠ gid)))
    && (!mask.testBit 1 || c.drainQ.all (fun o => decide (o.wg ≠ gid)))
    && (!mask.testBit 3 || c.writes.all (fun p => decide (p.wg ≠ gid) || p.stream))
    && (!mask.testBit 4 || (g.streams.all (fun e => e.2.supplied.isEmpty) && c.writes.all (fun p => decide (p.wg ≠ gid) || !p.stream)))

/-- The writes of a workgroup's warps that a non-coherent cluster cache holds complete at package scope, where its task boundary waits
for them (R244; log entry 23, DEDUCED). -/
def State.drainHome (s : State) (g : Wg) : State :=
  if g.drainMask.testBit 3 && decide ((s.chip (coreChip g.core)).cls = 2) then s.flushCluster (coreCluster g.core) g.ver else s

/-- WORKGROUP_RETIRE: the last warp has ended and the wait is over; everything no running operation still reads returns to the
core, and a task of which nothing remains there is unmapped (R358, R359). -/
def execWorkgroupRetire (gid : Nat) (s : State) : Out :=
  match Table.find gid s.wgs with
  | none => .next s
  | some g =>
    if g.status ≠ .retiring || s.wgBusy gid || !s.drained gid g then .next s
    else
      let s := (s.drainHome g).modWg gid (fun g => { g with status := .retired, win := none })
      let s := s.modSlotOf g (fun x => { x with retired := x.retired + 1 }.settle)
      let s := s.modPkt g.pkt (fun k => { k with retired := k.retired + 1, term := k.term || g.aborted })
      .next ((((s.awaitedGone gid false).reapWg gid).unmapTasks g.core).leaveCore g.core)

/-! ## Admission (R354 to R356) -/

/-- What an instance of a packet's kernel is granted on a core: the group of each warp in `sr.warp` order, and the base of its
scratchpad allocation. -/
structure Grant where
  groups : List Nat
  sbase : Nat

/-- What a core has left: its load, the resident warps and granted registers of each group, the scratchpad ranges in use, the
tiles and mills in use. -/
structure CoreUse where
  load : Nat
  warps : List Nat
  regs : List Nat
  ranges : List (Nat × Nat)
  tiles : Nat
  mills : Nat

/-- The matrix commands of a workgroup that a core has still to complete: in its queue, waiting for an entry, or still to be delivered. -/
def Core.matLeft (c : Core) (gid : Nat) : List MatOp :=
  (c.matQ.filter (fun m => decide (m.wg = gid))).map MatCmd.op ++ (c.followWait.filter (fun f => decide (f.2.1 = gid))).map (fun f => f.2.2)
    ++ (c.copyQ.filter (fun o => decide (o.wg = gid))).filterMap LeatOp.follow

/-- The tiles and weight buffers that running operations of a retired workgroup name: those of unread drains, and of matrix commands
(R358). -/
def Core.unread (c : Core) (gid : Nat) : List Nat :=
  dedup ((c.drainQ.filter (fun o => decide (o.wg = gid))).map LeatOp.tile ++ (c.matLeft gid).flatMap (fun m => m.reads ++ m.writes))

/-- How many tiles running operations of a retired workgroup name (R358). -/
def unreadTiles (c : Core) (gid : Nat) : Nat := ((c.unread gid).filter (fun k => decide (k < 64))).length

/-- How many mills running commands of a retired workgroup name (R358). -/
def unreadMills (c : Core) (gid : Nat) : Nat := (dedup (((c.unread gid).filter (fun k => decide (64 ≤ k))).map (· / 2))).length

/-- The entries of a private index table that an operation has still to read: offset and length (R195, R358). -/
def LeatOp.indexLeft (o : LeatOp) : List (Nat × Nat) :=
  let r := o.record
  if r.ind && r.ispace && !r.block then
    (List.range (o.count - o.next)).map (fun k => r.indexAddr ((r.at o.coords (o.next + k)).getD r.idim 0))
  else []

/-- The scratchpad ranges that running operations of a retired workgroup still read: source tiles, index tables and the operands of matrix
commands, follow-ons to come among them (R358). -/
def unreadRanges (c : Core) (eland : Bool) (gid : Nat) (g : Wg) : List (Nat × Nat) :=
  ((c.copyQ.filter (fun o => decide (o.wg = gid) && (o.form == .p2g || o.form == .p2c))).map (fun o => (o.tile, o.total))
    ++ (c.ops.filter (fun o => decide (o.wg = gid))).flatMap LeatOp.indexLeft
    ++ (c.matLeft gid).flatMap (MatOp.operands eland)).map (fun r => (g.sbase + r.1, r.2))

/-- What stands on a core: the slots and registers granted to its workgroups, which they hold until they retire, and those of formed
warps (R143, R358). -/
def State.coreUse (s : State) (core : Nat) : CoreUse :=
  let c := s.core core
  let kind := chipKind (coreChip core)
  let here := s.resident core
  let gone := s.wgs.filter (fun e => decide (e.2.core = core) && decide (e.2.status = .retired))
  let formed := (s.warps.filter (fun e => e.2.spawned && here.any (fun g => decide (g.1 = e.2.wg)))).map (fun e => (e.2.group, e.2.budget))
  let slots := here.flatMap (fun e => e.2.granted) ++ formed
  let per := fun (f : Nat → Nat) => (List.range (kindGroups kind)).map (fun k =>
    (slots.filter (fun e => decide (e.1 = k))).foldl (fun n e => n + f e.2) 0)
  { load := s.loadOf core, warps := per (fun _ => 1), regs := per id
    ranges := here.map (fun e => (e.2.sbase, e.2.scratch)) ++ gone.flatMap (fun e => unreadRanges c (coreEland core) e.1 e.2)
    tiles := here.foldl (fun n e => n + e.2.tileGrant) 0 + gone.foldl (fun n e => n + unreadTiles c e.1) 0
    mills := here.foldl (fun n e => n + e.2.millGrant) 0 + gone.foldl (fun n e => n + unreadMills c e.1) 0 }

/-- An empty core. -/
def emptyUse (kind : Nat) : CoreUse :=
  ⟨0, List.replicate (kindGroups kind) 0, List.replicate (kindGroups kind) 0, [], 0, 0⟩

/-- The group a warp of a budget goes to: the fewest resident warps among those with room, lowest number on a tie (R356). -/
def pickGroup (warps regs : List Nat) (budget : Nat) : Option Nat :=
  (List.range warps.length).foldl (fun best k =>
    if 16 ≤ warps.getD k 16 ∨ 2048 < regs.getD k 0 + budget then best
    else match best with
      | none => some k
      | some b => if warps.getD k 0 < warps.getD b 0 then some k else best) none

/-- Place warps of some budgets on groups one after another (R356). -/
def placeWarps (warps regs : List Nat) : List Nat → Option (List Nat × List Nat × List Nat)
  | [] => some ([], warps, regs)
  | b :: rest => match pickGroup warps regs b with
    | none => none
    | some k =>
      match placeWarps (listSet k (warps.getD k 0 + 1) warps) (listSet k (regs.getD k 0 + b) regs) rest with
      | none => none
      | some (ks, w, r) => some (k :: ks, w, r)

/-- The budgets of a kernel's warps in `sr.warp` order (R356). -/
def roleBudgets (roles : List RoleEntry) : List Nat := roles.flatMap (fun r => List.replicate r.warps r.budget)

/-- The lowest 256-aligned free range of n bytes among some used ranges below a size (R355). -/
def freeRange (used : List (Nat × Nat)) (size n : Nat) : Option Nat :=
  let starts := 0 :: used.map (fun r => (r.1 + r.2 + 255) / 256 * 256)
  (starts.filter (fun a => decide (a + n ≤ size) && used.all (fun r => !overlaps a n r.1 r.2))).foldl (fun best a =>
    match best with
    | none => some a
    | some b => some (Nat.min a b)) none

/-- What a core in some use with a limit grants a workgroup of a packet, if it admits it (R355). -/
def CoreUse.grant (u : CoreUse) (kind limit : Nat) (p : Packet) : Option Grant :=
  if limit < u.load + energyWeight p.energy ∨ 16 < u.tiles + p.tiles ∨ (kind = 3 ∧ 4 < u.mills + p.mills) then none
  else match placeWarps u.warps u.regs (roleBudgets p.roles), freeRange u.ranges (kindScratch kind - kindPond kind) p.scratch with
    | some r, some a => some ⟨r.1, a⟩
    | _, _ => none

/-- A core's use once a workgroup of a packet has been granted its resources. -/
def CoreUse.take (u : CoreUse) (p : Packet) (g : Grant) : CoreUse :=
  match placeWarps u.warps u.regs (roleBudgets p.roles) with
  | none => u
  | some r => { load := u.load + energyWeight p.energy, warps := r.2.1, regs := r.2.2, ranges := (g.sbase, p.scratch) :: u.ranges
                tiles := u.tiles + p.tiles, mills := u.mills + p.mills }

/-! ## Urgent halt and resume (R201, R261, R334, R387) -/

/-- A halted warp's waits: a `JWAIT` whose counter is not yet 0 and a `BWAIT` are re-issued on resume (R262, R271). -/
def Warp.haltWaits (w : Warp) : Warp :=
  let sync : Option SyncReq := match w.sync with
    | some r => if r.kind = .jwait then none else some r
    | none => none
  { w with sync := sync, barWait := none, wait := .none }

/-- An urgent halt stops the issue of a workgroup; its window freezes (R387). -/
def State.urgentHalt (s : State) (gid : Nat) : State :=
  let ws : Table Warp := Table.mapVals (fun w => if w.wg = gid then w.haltWaits else w) s.warps
  State.modWg { s with warps := ws } gid (fun g => { g.freeze with status := .halting })

/-- Whether the work a halted workgroup has issued is complete, so that its context may be saved (R387): results landed, accesses
answered, barrier updates performed, table operations finished with their status written (R304), stores performed, store streams
drained, matrix commands done. -/
def State.haltDone (s : State) (gid : Nat) (g : Wg) : Bool :=
  (s.wgWarps gid).all (fun e => e.2.pend.isEmpty && e.2.sync.isNone && e.2.btOp.isNone)
    && g.barPend.isEmpty && g.streams.all (fun e => e.2.supplied.isEmpty)
    && (s.core g.core).writes.all (fun p => decide (p.wg ≠ gid)) && (s.core g.core).matQ.all (fun m => decide (m.wg ≠ gid))

/-- A load stream's slot as a halt saves it: its queue discarded, to be formed again (R201). -/
def Stream.rewind (x : Stream) : Stream := if x.store then x else { x with formed := x.done, queue := [], fault := none, holds := [] }

/-- Save the context of a halted workgroup (R387, R389, Table 12.5): it leaves its core, and its image stands in the shadow storage of
the chiplet; the follow-ons that waited stay with the context, before those delivered since the halt (R294, R334). The record keeps
what the image holds (log entry 43, DESIGN CHOICE). -/
def State.saveWg (s : State) (gid : Nat) : State :=
  match Table.find gid s.wgs with
  | none => s
  | some g =>
    let follow := ((s.core g.core).followWait.filter (fun f => decide (f.2.1 = gid))).map (fun f => f.2.2)
    let s := s.modCore g.core (fun c => { (c.dropRing (fun e => decide (e.1 = gid))) with
      followWait := c.followWait.filter (fun f => decide (f.2.1 ≠ gid)) })
    let s := s.modWg gid (fun g => { g with
      status := .saved, followSaved := follow ++ g.followSaved, binWait := [],
      pond := g.pond.map (fun p => { p with inBank := none }), granted := [],
      streams := g.streams.map (fun e => (e.1, e.2.rewind)) })
    let s := (s.keepImage gid).leaveCluster g
    (((s.modSlotOf g (fun x => { x with saved := x.saved + 1, state := .held })).awaitedGone gid true).unmapTasks g.core).leaveCore g.core

/-- The eligible cores of a chiplet for a record: its partition and core limit (R353, R367). A core in C2 or on its way out of the
partition counts among them, though nothing is placed there (Table 14.8, R370). -/
def State.coresFor (s : State) (x : Slot) (chip : Nat) : List Nat :=
  let part := bits x.w1.toNat 31 24
  let mine := (chipCores chip).filter (fun c => decide ((s.core c).part = if part = 0xFF then none else some part))
  let n := bits x.w1.toNat 4 0
  if n = 0 then mine else mine.take n

/-- Whether a core may be given a workgroup now: it and its chiplet are awake, and it is not on its way out of its partition (R370,
R446). -/
def State.coreOpen (s : State) (core : Nat) : Bool :=
  !(s.core core).leaving && decide ((s.core core).power ≠ .c2) && decide ((s.chip (coreChip core)).power ≠ .c2) && !s.asleep

/-- Whether a chiplet is enumerated and running; in C2 it keeps its assignment (R353, Table 14.8). -/
def State.chipOpen (s : State) (chip : Nat) : Bool :=
  decide ((Table.get {} (chipPort chip) (s.hub (chipHub chip)).ports).state = .running)

/-- The eligible chiplets of a record for a kind, in ascending index (R353). -/
def State.chipsFor (s : State) (x : Slot) (kind : Nat) : List Nat :=
  (List.range 16).filter (fun c => decide (chipKind c = kind) && x.w1.getLsbD (16 + chipIndex c) && s.chipOpen c)

/-- The free matrix queue entries are filled with the follow-ons a context kept, in the order of delivery (R334). -/
def State.resumeFollow (s : State) (core gid : Nat) : State :=
  match Table.find gid s.wgs with
  | none => s
  | some g => g.followSaved.foldl (fun s m => s.enterMat core gid m) (s.modWg gid (fun g => { g with followSaved := [] }))

/-- What a core held of a workgroup's bytes is forgotten where the workgroup goes on elsewhere: copies in core storage, and in a cluster
cache which is no full peer (R226; log entry 44, DEDUCED). -/
def State.forgetCopies (s : State) (core : Nat) : State :=
  let s := s.modCore core (fun c => { c with copies := [] })
  if (s.chip (coreChip core)).cls ≠ 0 then
    { s with ccopies := s.ccopies.filter (fun e => decide (e.1 / 256 / 2 ^ 50 ≠ coreCluster core)) } else s

/-- A saved workgroup restored on an eligible core of the same kind that admits it, after every operation in flight at its halt has
arrived; none where it cannot be (R262, R351, R367, R387). -/
def State.resumeOn (s : State) (gid core : Nat) : Option State :=
  match Table.find gid s.wgs with
  | none => none
  | some g => match Table.find g.pkt s.pkts, s.slotFor g.hub g.pkt g.lin with
    | some p, some i =>
      let x := s.slot g.hub i
      let kind := chipKind (coreChip core)
      if g.status ≠ .saved || s.worldHeld g.world || decide (kind ≠ chipKind (coreChip g.core)) || decide (x.state ≠ .active)
          || !x.w0.getLsbD 31 || s.cores.any (fun e => e.2.ops.any (fun o => decide (o.wg = gid)))
          || !(s.chipsFor x kind).contains (coreChip core) || !(s.coresFor x (coreChip core)).contains core || !s.coreOpen core
          || decide (matQueueSize (coreEland core) < (s.core core).matQ.length + g.followSaved.length) then none
      else
        let ws : Table Warp := s.wgWarps gid
        let u := s.coreUse core
        match placeWarps u.warps u.regs (ws.map (fun e => e.2.budget)),
            u.grant kind (s.core core).limit { p with roles := [] } with
        | some r, some a =>
          let s := (ws.zip r.1).foldl (fun s (e : (Nat × Warp) × Nat) => s.modWarp e.1.1 (fun w => { w with group := e.2 })) s
          let s := (s.restore gid g).modWg gid (fun g => { g with
            core := core, sbase := a.sbase, status := .running
            granted := ((ws.zip r.1).filter (fun e => !e.1.2.spawned)).map (fun e => (e.2, e.1.2.budget)) })
          let s := (if core = g.core then s else s.forgetCopies core).mapTask core g.pkt
          let s := s.modCore core (fun c => { c with
            ring := c.ring ++ (sortBy (fun a b => decide (a.2.seq ≤ b.2.seq)) (g.streams.filter (fun e => e.2.opened))).map (fun e => (gid, e.1)),
            power := if c.power = .c1 then .p0 else c.power })
          let s := s.modSlot g.hub i (fun x => { x with saved := x.saved - 1, placed := x.placed + 1 })
          some ((s.resumeFollow core gid).thaw gid)
        | _, _ => none
    | _, _ => none

/-- Some saved workgroups, each on the first core that takes it; none where one of them finds no core (R369). -/
def State.resumeAll (s : State) : List Nat → Option State
  | [] => some s
  | gid :: rest => match ((List.range 12).flatMap chipCores).findSome? (s.resumeOn gid) with
    | some s => s.resumeAll rest
    | none => none

/-- WORKGROUP_RESUME: a saved workgroup is restored on a core; with one of a cooperative kernel, all of the kernel's that are saved, or
none, and none while another of the kernel's that was halted has still to be saved (R367, R369, R387). -/
def execWorkgroupResume (gid core : Nat) (s : State) : Out :=
  match Table.find gid s.wgs, s.resumeOn gid core with
  | some g, some t =>
    let coop := match Table.find g.pkt s.pkts with | some p => p.coop | none => false
    let rest := ((s.wgs.filter (fun e => decide (e.2.pkt = g.pkt) && decide (e.2.status = .saved) && decide (e.1 ≠ gid))).map Prod.fst)
    let whole := !s.wgs.any (fun e => decide (e.2.pkt = g.pkt) && e.2.stands && decide (e.2.status = .halting))
    .next (if !coop then t else if whole then (t.resumeAll rest).getD s else s)
  | _, _ => .next s

end Sys2Proof.Machine
end

