-- ==== Sys2Proof/Machine/Hub.lean ====
section
/-! DEFINITION. The hub's side of launch: hardware queues and packets, kernel objects, bind records, dispatch, completion,
pre-emption, partitions, admission limits, Sluice and Weir (R31, R57 to R64, R347 to R370, R428). -/

namespace Sys2Proof.Machine

/-! ## The hub's own accesses -/

/-- The cause the hub's translation of an address meets, 0 for none. -/
def State.hubCause (s : State) (asid va : Nat) (acc : AccessKind) : Nat :=
  match (walkFrom s false asid va 4 (Table.get 0 asid s.roots) [] 0).out with
  | .error e => e.1
  | .ok _ => if (s.hubXlate asid va acc).isSome then 0 else 0x11

/-- The bytes at a virtual address as the hub reads them: none where one cannot be read or is poisoned. -/
def State.hubBytes (s : State) (asid va : Nat) : Nat → Option (List Byte)
  | 0 => some []
  | n + 1 => match s.hubXlate asid (va % 2 ^ 57) .load with
    | none => none
    | some pa => if s.poisonAt pa 1 then none
      else (s.hubBytes asid (va + 1) n).map (fun t => s.byteAt 0 pa :: t)

/-- A read at the home slice that a party other than a Vodon core makes at a hub: the lookup, a holder's copy made shared, and the clocks of
the two hubs (R219). -/
def State.homeTake (s : State) (hub pa vdev : Nat) : State :=
  if isRemote pa then s.sendRemote pa else ((s.homeTouch (pa / 256) vdev).snoop (pa / 256)).meetHubs hub ((paHome pa).getD hub)

/-- A write at the home slice that a party other than a Vodon core makes at a hub, with its version, which the answer carries back (R219). -/
def State.homeWrite (s : State) (hub key vdev carried pa : Nat) (bs : List Byte) : State :=
  let line := pa / 256
  let home := (paHome pa).getD hub
  let s := if isRemote pa then s.sendRemote pa else ((s.meetHubs hub home).homeTouch line vdev).recall line
  let m := s.line line
  let v := Nat.max (Nat.max m.wv m.re) carried + 1
  let s := (s.putPieces key [(pa, bs)]).setLine line { m with wv := v }
  if isRemote pa then s else (s.raiseClock home v).meetHubs hub home

/-! ## Kernel objects (R58 to R64) -/

/-- A code section of a kernel object (Table 02.13). -/
structure Section where
  kind : Nat
  code : Nat
  entries : List Nat
deriving DecidableEq, Repr

/-- What the hub reads of a kernel object (Tables 02.12 to 02.16). -/
structure KernelObj where
  size : Nat
  coop : Bool
  energy : Nat
  world : Nat
  levels : List LoopLevel
  roles : List (Nat × Nat)
  sections : List Section
  drain : Nat
  pool : Nat
  records : Nat
  scratch : Nat
  bar : Nat
deriving DecidableEq, Repr

/-- A little-endian field of some bytes. -/
def fieldAt (bs : List Byte) (off n : Nat) : Nat := leNat ((bs.drop off).take n)

/-- The loop mark of a code. -/
def markOf (n : Nat) : LoopMark := match n with | 1 => .temporal | 2 => .spatialCore | 3 => .spatialDie | _ => .absent

/-- Whether a loop level is spatial. -/
def LoopLevel.spatial (l : LoopLevel) : Bool := l.mark == .spatialCore || l.mark == .spatialDie

/-- The number of workgroups of a loop table (R19, R60). -/
def launchTotal (ls : List LoopLevel) : Nat := (ls.filter LoopLevel.spatial).foldl (fun n l => n * l.extent) 1

/-- The loop table, if it keeps the rules of R60. -/
def parseLoops (bs : List Byte) (levels : Nat) : Option (List LoopLevel) :=
  let raw := (List.range 6).map (fun i => (fieldAt bs (8 * i) 4, fieldAt bs (8 * i + 4) 1, fieldAt bs (8 * i + 5) 3))
  let ok := (List.range 6).all (fun i =>
    let e := raw.getD i (0, 0, 0)
    decide (e.2.2 = 0) && (if i < levels then decide (1 ≤ e.2.1) && decide (e.2.1 ≤ 3) && decide (1 ≤ e.1)
      else decide (e.1 = 0) && decide (e.2.1 = 0)))
  let ls := raw.map (fun e => (⟨e.1, markOf e.2.1⟩ : LoopLevel))
  if ok && decide (launchTotal ls ≤ 2 ^ 32 - 1) then some ls else none

/-- The role table, warps and budgets in registers, if it keeps the rules of R61. -/
def parseRoles (bs : List Byte) : Option (List (Nat × Nat)) :=
  let raw := (List.range 4).map (fun i => (fieldAt bs (8 * i) 1, fieldAt bs (8 * i + 1) 1, fieldAt bs (8 * i + 2) 6))
  let ok := raw.all (fun e => decide (e.2.2 = 0) && decide (e.1 ≤ 32) &&
    (if e.1 = 0 then decide (e.2.1 = 0) else decide (1 ≤ e.2.1) && decide (e.2.1 ≤ 32)))
  let n : Nat := raw.foldl (fun n e => n + e.1) 0
  if ok && decide (1 ≤ n) && decide (n ≤ 32) then some (raw.map (fun e => (e.1, 8 * e.2.1))) else none

/-- One section directory entry, if it is legal in an object of a size (Table 02.13). -/
def parseSection (bs : List Byte) (roles : List (Nat × Nat)) (size : Nat) : Option Section :=
  let code := fieldAt bs 4 4
  let len := fieldAt bs 8 4
  let es := (List.range 4).map (fun r => fieldAt bs (16 + 4 * r) 4)
  let ok := (fieldAt bs 0 1 = 2 ∨ fieldAt bs 0 1 = 3) ∧ fieldAt bs 1 1 = 0 ∧ fieldAt bs 2 2 < 2 ∧ code % 256 = 0
    ∧ len % 8 = 0 ∧ fieldAt bs 12 4 = 0 ∧ code + len ≤ size
    ∧ (List.range 4).all (fun r => decide ((roles.getD r (0, 0)).1 = 0) ||
        (decide (es.getD r 0 % 8 = 0) && decide (es.getD r 0 < len))) = true
  if ok then some ⟨fieldAt bs 0 1, code, es⟩ else none

/-- Read and check a kernel object (R64), but for its world requirement. -/
def State.readObject (s : State) (asid va : Nat) : Option KernelObj := do
  let rd := fun off n => s.hubBytes asid (va + off) n
  let h ← rd 0 64
  let f := fieldAt h
  let size := f 8 4
  let nsec := f 0x0C 1
  guard (f 0 4 = 0x4F4B4456 ∧ f 4 2 = 1 ∧ f 6 2 < 2 ∧ f 0x30 16 = 0 ∧ 64 ≤ size)
  guard (1 ≤ nsec ∧ nsec ≤ 2 ∧ f 0x0D 1 < 8 ∧ f 0x0E 1 < 3 ∧ f 0x0F 1 ≤ 6)
  guard (f 0x10 4 + 32 * nsec ≤ size ∧ f 0x14 4 + 48 ≤ size ∧ f 0x18 4 + 32 ≤ size)
  guard (f 0x1C 4 % 64 = 0 ∧ f 0x1C 4 + 64 * f 0x20 4 ≤ size ∧ f 0x24 4 + 16 ≤ size)
  guard (f 0x28 4 % 256 = 0 ∧ f 0x2C 4 % 8 = 0 ∧ f 0x2C 4 + 128 ≤ f 0x28 4)
  let lt ← rd (f 0x14 4) 48
  let levels ← parseLoops lt (f 0x0F 1)
  let rt ← rd (f 0x18 4) 32
  let roles ← parseRoles rt
  let dt ← rd (f 0x10 4) (32 * nsec)
  let secs ← (List.range nsec).mapM (fun i => parseSection (dt.drop (32 * i)) roles size)
  guard ((secs.map Section.kind).Nodup)
  let t ← rd (f 0x24 4) 16
  guard (fieldAt t 0 4 < 32 ∧ fieldAt t 4 4 = 0x454B4456 ∧ fieldAt t 8 8 = 0)
  return ⟨size, f 6 2 = 1, f 0x0D 1, f 0x0E 1, levels, roles, secs, fieldAt t 0 4, f 0x1C 4, f 0x20 4, f 0x28 4, f 0x2C 4⟩

/-! ## Taking a packet (R348 to R350) -/

/-- The packet in 64 bytes (Table 11.2), not yet checked. -/
def packetOf (hub q index : Nat) (x : Queue) (gen : Nat) (bs : List Byte) : Packet :=
  let f := fieldAt bs
  { hub := hub, queue := q, index := index, marker := decide (f 0 1 = 2), kind := f 1 1, flags := f 2 2, world := f 4 1,
    tiles := f 5 1, mills := f 6 1, object := f 0x10 8, completion := f 0x18 8,
    args := (List.range 8).map (fun i => BitVec.ofNat 32 (f (0x20 + 4 * i) 4)), asid := x.asid, vdev := x.vdev, gen := gen,
    status := 0, refused := false, total := 0, unbound := 0, retired := 0, lost := 0, kval := 0, coop := false, levels := [],
    roles := [], code := 0, drain := 31, pool := 0, records := 0, scratch := 0, bar := 0, energy := 0, term := false, ver := 0 }

/-- Whether the packet's own bytes are bad (Table 11.3, BADPKT; log entry 25, DEDUCED). -/
def badPacket (p : Packet) (bs : List Byte) : Bool :=
  !(decide (fieldAt bs 0 1 = 1) || p.marker) || decide (fieldAt bs 7 9 ≠ 0) || decide (16 ≤ p.flags)
    || decide (2 ^ 57 ≤ p.object) || decide (p.completion % 8 ≠ 0)
    || decide (16 < p.tiles) || decide ((if p.kind = 2 then 0 else 4) < p.mills)
    || (if p.marker then decide (p.kind ≠ 0) else !(decide (p.kind = 2) || decide (p.kind = 3)))

/-- Whether a virtual device may run work in a world (R31). -/
def State.mayRun (s : State) (vdev world : Nat) : Bool :=
  decide (world = 0) || (match Table.find world s.worlds with | some w => decide (w.vdev = vdev) | none => false)

/-- Whether a world meets a header's requirement (Table 02.12). -/
def worldFits (need world : Nat) : Bool := decide (need = 0) || (decide (need = 1) == decide (world = 0))

/-- The packet with what its kernel object says. -/
def Packet.fill (p : Packet) (k : KernelObj) (c : Section) : Packet :=
  { p with
    total := launchTotal k.levels, coop := k.coop, levels := k.levels, code := p.object + c.code, drain := k.drain,
    roles := (k.roles.zip c.entries).map (fun e => ⟨e.1.1, e.1.2, p.object + c.code + e.2⟩),
    pool := p.object + k.pool, records := k.records, scratch := k.scratch, bar := k.bar, energy := k.energy }

/-- A packet that completes with a status before anything of it runs. -/
def Packet.refuse (p : Packet) (status : Nat) : Packet := { p with status := status, refused := true }

/-- Measure the kernel object of a packet of a protected world (R458): its status if it is refused, and the state after. -/
def State.measurePacket (s : State) (p : Packet) (k : KernelObj) : Nat × State :=
  if p.world = 0 then (0, s)
  else match s.hubBytes p.asid p.object k.size with
    | none => (2, s)
    | some bs => match s.measureTenant p.vdev bs with
      | none => (4, s)
      | some s => (0, s)

/-- Check a packet, its object, its world and its fit, and measure the object of a protected world (R64, R350, R355, R458; log
entry 25). -/
def State.checkPacket (s : State) (p : Packet) (bs : List Byte) : Packet × State :=
  if badPacket p bs then (p.refuse 1, s)
  else if p.marker then (p, s)
  else match s.readObject p.asid p.object with
    | none => (p.refuse 2, s)
    | some k => match k.sections.find? (fun c => decide (c.kind = p.kind)) with
      | none => (p.refuse 3, s)
      | some c =>
        if !worldFits k.world p.world || !s.mayRun p.vdev p.world then (p.refuse 4, s)
        else
          let m := s.measurePacket p k
          let p := p.fill k c
          if m.1 ≠ 0 then (p.refuse m.1, m.2)
          else if ((emptyUse p.kind).grant p.kind 64 p).isNone then (p.refuse 5, m.2) else (p, m.2)

/-- The class-7 entry of a queue's ring or completion record (Table 14.6): the cause and address of the access that failed, and the
queue's tenant. -/
def State.logQueue (s : State) (hub q cause va asid vdev : Nat) : State :=
  s.logEvent hub { LogEntry.mk0 7 0 with
    kind := 0, unit := 128 * hub, cause := cause, gen := s.gen vdev, va := va % 2 ^ 57, asid := asid, vdev := vdev, detail := hub * 1024 + q }

/-- The address of a packet of a queue's ring. -/
def Queue.packetVa (x : Queue) (index : Nat) : Nat := (x.ring + 64 * (index % 2 ^ x.log2size)) % 2 ^ 57

/-- A queue fault at an access to its ring: the doorbell error bit, a class-7 entry, and the event (R348, R409, R414). -/
def State.queueFault (s : State) (hub q index : Nat) (acc : AccessKind) : State :=
  let x := s.queue hub q
  let va := x.packetVa index
  let cause := match s.hubXlate x.asid va acc with | some _ => 0x28 | none => s.hubCause x.asid va acc
  let s := (s.modQueue hub q (fun x => { x with error := true })).logQueue hub q cause va x.asid x.vdev
  let f := s.takeFree
  f.2.postEvent hub q 2 (Config.freeNat f.1)

/-- DOORBELL_WRITE: a new write index, ignored with the error bit set when out of range (R348). -/
def execDoorbellWrite (hub q idx : Nat) (s : State) : Out :=
  let x := s.queue hub q
  if idx < x.read ∨ x.read + 2 ^ x.log2size < idx then
    let s := s.modQueue hub q (fun x => { x with error := true })
    let f := s.takeFree
    .next (f.2.postEvent hub q 2 (Config.freeNat f.1))
  else .next (s.modQueue hub q (fun x => { x with write := idx, stopped := false }))

/-- The slot of a packet that leaves its queue is written back to zero, and the read index advances (R348). -/
def State.clearSlot (s : State) (hub q pa : Nat) : State :=
  (s.homeWrite hub 0 (s.queue hub q).vdev 0 pa (List.replicate 64 0)).modQueue hub q (fun x => { x with read := x.read + 1 })

/-- PACKET_TAKE: the hub takes the next published packet of a queue (R348); none of a world held after a wake (R463). -/
def execPacketTake (hub q : Nat) (s : State) : Out :=
  let x := s.queue hub q
  if !x.enabled || x.stopped || decide (x.write ≤ x.read) || (s.tenant x.vdev).killing then .next s
  else
    let va := x.packetVa x.read
    match s.hubXlate x.asid va .load, s.hubBytes x.asid va 64 with
    | some pa, some bs =>
      let s := s.homeTake hub pa x.vdev
      if fieldAt bs 0 1 = 0 then .next (s.modQueue hub q (fun x => { x with stopped := true }))
      else if s.worldHeld (fieldAt bs 4 1) then .next s
      else
        let r := s.checkPacket (packetOf hub q x.read x (s.gen x.vdev) bs) bs
        let p := r.1
        let s := r.2.clearSlot hub q pa
        let s := { s with pkts := Table.ins s.pktSeq p s.pkts, pktSeq := s.pktSeq + 1 }
        .next (match x.bound with | some n => s.interact (n / 40) x.vdev | none => s)
    | _, _ => .next ((s.modQueue hub q (fun x => { x with stopped := true })).queueFault hub q x.read .load)

/-! ## Completion (R349, R350) -/

/-- The packets of a queue taken before one and not complete. -/
def State.earlierPending (s : State) (p : Packet) : Bool :=
  s.pkts.any (fun e => decide (e.2.hub = p.hub) && decide (e.2.queue = p.queue) && decide (e.2.index < p.index))

/-- Whether a packet's barrier holds it back (Table 11.2). -/
def State.barred (s : State) (p : Packet) : Bool := p.flags.testBit 0 && s.earlierPending p

/-- The retired workgroups of a packet whose operations are all done give up their records (R358). -/
def State.reapPkt (s : State) (pid : Nat) : State :=
  (s.wgs.filter (fun e => decide (e.2.pkt = pid))).foldl (fun s e => s.reapWg e.1) s

/-- Write a packet's completion record: the status word, a release at host scope, which covers every version its workgroups have
been given, then the counter less 1 (R350). A fault while writing is logged. -/
def State.record (s : State) (p : Packet) (code : Nat) : State :=
  let bad := fun (s : State) (cause : Nat) => s.logQueue p.hub p.queue cause p.completion p.asid p.vdev
  let va := p.completion % 2 ^ 57
  if p.completion = 0 then s
  else if p.completion % 4 ≠ 0 then bad s 0
  else match s.hubXlate p.asid ((va + 4) % 2 ^ 57) .store with
    | none => bad s (s.hubCause p.asid ((va + 4) % 2 ^ 57) .store)
    | some pa =>
      let s := (s.homeWrite p.hub 0 p.vdev 0 pa (leBytes 4 (p.kval * 2 ^ 16 + code))).raiseClock p.hub p.ver
      match s.hubXlate p.asid va .rmw with
      | none => bad s (s.hubCause p.asid va .rmw)
      | some pa =>
        if s.poisonAt pa 4 then bad s 0x28
        else s.homeWrite p.hub 0 p.vdev (Nat.max p.ver (s.hub p.hub).clock) pa (leBytes 4 (wrapI ((leNat (s.bytesAt 0 pa 4) : Int) - 1) 32))

/-- What a packet's completion tells: its record and its completion event (R350, R414). -/
def State.tellPkt (s : State) (p : Packet) (code : Nat) : State :=
  let s := s.record p code
  if p.flags.testBit 1 then s.postEvent p.hub p.queue 1 (p.index % 2 ^ 24 + code * 2 ^ 24) else s

/-- A packet completes with a code (R350), and is gone. -/
def State.completePkt (s : State) (pid : Nat) (p : Packet) (code : Nat) : State :=
  let s := s.tellPkt p code
  { s with pkts := Table.del pid s.pkts }

/-- PACKET_COMPLETION: a packet completes once nothing of it runs (R349, R350, R352). A packet of a tenant being killed waits for
the end of the kill (R395). -/
def execPacketCompletion (pid : Nat) (s : State) : Out :=
  match Table.find pid s.pkts with
  | none => .next s
  | some p =>
    if (s.tenant p.vdev).killing then .next s
    else if p.refused then .next (s.completePkt pid p p.status)
    else if s.barred p then .next s
    else if p.marker then .next (s.completePkt pid p 0)
    else
      let s := s.reapPkt pid
      if p.retired + p.lost < p.total || s.wgs.any (fun e => decide (e.2.pkt = pid)) then .next s
      else .next (s.completePkt pid ((Table.find pid s.pkts).getD p) (if p.term then 7 else 0))

/-! ## Bind records (R351, R352) -/

/-- The packet a record names: taken here and not yet fully bound. -/
def State.namedPkt (s : State) (hub : Nat) (w0 : Word) : Option (Nat × Packet) :=
  s.pkts.find? (fun e => decide (e.2.hub = hub) && decide (e.2.queue = bits w0.toNat 25 16)
    && decide (e.2.index % 2 ^ 16 = bits w0.toNat 15 0) && !e.2.marker && !e.2.refused && decide (e.2.unbound < e.2.total))

/-- The error code of a record, 0 for none (Table 11.5; the order of the checks is log entry 25's). -/
def State.bindError (s : State) (hub : Nat) (w0 w1 w2 w3 : Word) : Nat :=
  if bits w0.toNat 28 26 ≠ 0 ∨ bits w1.toNat 23 22 ≠ 0 ∨ bits w1.toNat 15 5 ≠ 0 then 5
  else match s.namedPkt hub w0 with
    | none => 1
    | some (_, p) =>
      let part := bits w1.toNat 31 24
      if w2.toNat ≠ p.unbound then 2
      else if p.coop ∧ (w2 ≠ 0 ∨ w3 ≠ 0) then 3
      else if part ≠ 0xFF ∧ Table.find part s.partsOwner ≠ some p.vdev then 4
      else 0

/-- BIND_RECORD_WRITE: a record written to a slot that may take one activates it or is rejected; clearing valid stops placement
(R351, R352). -/
def execBindRecordWrite (hub slot : Nat) (w0 w1 w2 w3 : Word) (s : State) : Out :=
  let x := s.slot hub slot
  if 64 ≤ slot then .next s
  else if x.state = .active ∨ x.state = .held then
    .next (if w0.getLsbD 31 then s else s.modSlot hub slot (fun x => { x with w0 := x.w0 &&& 0x7FFFFFFF#32 }))
  else if !w0.getLsbD 31 then .next (s.modSlot hub slot (fun x => { x with w0 := w0, w1 := w1, w2 := w2, w3 := w3 }))
  else
    let err := s.bindError hub w0 w1 w2 w3
    let fresh : Slot := { w0 := w0, w1 := w1, w2 := w2, w3 := w3, recover := x.recover }
    match (if err = 0 then s.namedPkt hub w0 else none) with
    | none => .next (s.modSlot hub slot (fun _ => { fresh with state := .rejected, error := err }))
    | some (pid, p) =>
      let stop := if w3 = 0 then p.total else Nat.min (w2.toNat + w3.toNat) p.total
      .next ((s.modPkt pid (fun p => { p with unbound := stop })).modSlot hub slot (fun _ =>
        { fresh with state := .active, pkt := pid, next := w2.toNat, stop := stop }))

/-! ## Dispatch (R353, R356, R357, R369) -/

/-- The coordinates of a workgroup number (R60): the digit of each spatial level, 0 elsewhere. -/
def coordsOf (ls : List LoopLevel) (lin : Nat) : List Nat :=
  (ls.foldr (fun l (a : List Nat × Nat) =>
    if l.spatial then (a.2 % l.extent :: a.1, a.2 / l.extent) else (0 :: a.1, a.2)) ([], lin)).1

/-- The coordinates at the levels of one mark as a mixed-radix number (R60, R353). -/
def radixAt (ls : List LoopLevel) (coords : List Nat) (m : LoopMark) : Nat :=
  (ls.zip coords).foldl (fun n e => if e.1.mark = m then n * e.1.extent + e.2 else n) 0

/-- The first core of some that is open and admits a workgroup of a packet. -/
def State.firstAdmit (s : State) (p : Packet) (cores : List Nat) : Option (Nat × Grant) :=
  (cores.filter s.coreOpen).findSome? (fun c => ((s.coreUse c).grant p.kind (s.core c).limit p).map (fun g => (c, g)))

/-- The core that dispatch places a workgroup on, if one admits it (R353). -/
def State.chooseCore (s : State) (x : Slot) (p : Packet) (lin : Nat) : Option (Nat × Grant) :=
  let chips := s.chipsFor x p.kind
  let coords := coordsOf p.levels lin
  let has := fun m => p.levels.any (fun l => l.mark == m)
  let tried := if has .spatialDie then (chips[radixAt p.levels coords .spatialDie % chips.length]?).toList else chips
  tried.findSome? (fun chip =>
    let cores := s.coresFor x chip
    let order := match (if has .spatialCore then cores[radixAt p.levels coords .spatialCore % cores.length]? else none) with
      | some c => c :: cores.filter (· ≠ c)
      | none => cores
    s.firstAdmit p order)

/-- The registers of a warp at its start (R357): arguments in v0 to v7, 0 elsewhere. -/
def startRegs (args : List Word) : Table RegVal :=
  (List.range 8).foldl (fun t i => Table.put RegVal.zero i ⟨.uniform, laneSplat (args.getD i 0), 0⟩ t) []

/-- The warps of a kernel in `sr.warp` order: role, index within the role, budget, entry (R356). -/
def roleWarps (roles : List RoleEntry) : List (Nat × Nat × Nat × Nat) :=
  ((List.range roles.length).zip roles).flatMap (fun r => (List.range r.2.warps).map (fun i => (r.1, i, r.2.budget, r.2.entry)))

/-- Start one warp of a workgroup (R222, R357): it acts first as `FENCE.ACQ.PACKAGE` does. -/
def State.startWarp (s : State) (gid : Nat) (g : Wg) (p : Packet) (idx group : Nat) (r : Nat × Nat × Nat × Nat) : State :=
  let id := s.warpSeq
  let w : Warp := {
    wg := gid, idx := idx, role := r.1, roleIdx := r.2.1, budget := r.2.2.1, group := group, pc := BitVec.ofNat 57 r.2.2.2,
    regs := startRegs p.args, prio := BitVec.ofNat 2 (p.flags / 4), loops := Table.get (List.replicate 6 0) idx g.savedLoops }
  State.acquire { s with warps := Table.ins id w s.warps, warpSeq := id + 1 } id g 7

/-- Start every warp of a workgroup on its groups. -/
def State.startWarps (s : State) (gid : Nat) (g : Wg) (p : Packet) (groups : List Nat) : State :=
  let rs := roleWarps p.roles
  ((List.range rs.length).zip (rs.zip groups)).foldl (fun s e => s.startWarp gid g p e.1 e.2.2 e.2.1) s

/-- The record of a workgroup placed for the first time. -/
def newWg (pid : Nat) (p : Packet) (core lin gen : Nat) (a : Grant) : Wg :=
  { pkt := pid, hub := p.hub, core := core, lin := lin, coords := coordsOf p.levels lin, vdev := p.vdev, world := p.world,
    asid := p.asid, gen := gen, obj := p.object, code := p.code, loops := p.levels, roles := p.roles, drain := p.drain,
    pool := p.pool, records := p.records, scratch := p.scratch, bar := p.bar, energy := p.energy, sbase := a.sbase,
    tileGrant := p.tiles, millGrant := p.mills }

/-- Place one workgroup of a slot, a new one or one saved at a boundary, if a core admits it. -/
def State.placeWg (s : State) (hub i : Nat) (p : Packet) (lin : Nat) (old : Option (Nat × Wg)) : Option State :=
  let x := s.slot hub i
  match s.chooseCore x p lin with
  | none => none
  | some (core, a) =>
    let gid := match old with | some o => o.1 | none => s.wgSeq
    let s := match old with | some o => s.restore o.1 o.2 | none => s
    let g := match old with
      | some o => { (Table.find gid s.wgs).getD o.2 with core := core, sbase := a.sbase, status := .running }
      | none => newWg x.pkt p core lin (s.gen p.vdev) a
    let g := { g with granted := a.groups.zip (roleBudgets p.roles) }
    let s := { (s.setWg gid g) with wgSeq := Nat.max s.wgSeq (gid + 1) }
    let s := (s.modCore core (fun c => if c.power = .c1 then { c with power := .p0 } else c)).mapTask core x.pkt
    let s := s.modSlot hub i (fun x => { x with placed := x.placed + 1, saved := x.saved - (if old.isSome then 1 else 0) })
    some (s.startWarps gid g p a.groups)

/-- The workgroups of a slot's range in a status, in ascending `sr.wg`. -/
def State.slotWgs (s : State) (x : Slot) (st : WgStatus) : List (Nat × Wg) :=
  sortBy (fun a b => decide (a.2.lin ≤ b.2.lin)) (s.wgs.filter (fun e => decide (e.2.pkt = x.pkt) && decide (e.2.status = st)
    && decide (x.w2.toNat ≤ e.2.lin) && decide (e.2.lin < x.stop)))

/-- Place the next workgroup of a slot (R353, R367): those saved at a boundary first, then those lost, then unplaced ones; a
context saved by an urgent halt goes before them all. -/
def State.placeNext (s : State) (hub i : Nat) : Option State :=
  let x := s.slot hub i
  match Table.find x.pkt s.pkts with
  | none => none
  | some p =>
    if !(s.slotWgs x .saved).isEmpty then none
    else match s.slotWgs x .parked with
      | g :: _ => s.placeWg hub i p g.2.lin (some g)
      | [] => match x.again with
        | lin :: rest => (s.placeWg hub i p lin none).map (fun s => s.modSlot hub i (fun x => { x with again := rest }))
        | [] => if x.next < x.stop then
            (s.placeWg hub i p x.next none).map (fun s => s.modSlot hub i (fun x => { x with next := x.next + 1 }))
          else none

/-- How many workgroups of a slot wait to be placed. -/
def State.slotWaiting (s : State) (x : Slot) : Nat :=
  (s.slotWgs x .saved).length + (s.slotWgs x .parked).length + x.again.length + (x.stop - x.next)

/-- Place workgroups of a slot until none waits; none if one cannot be placed (R369). -/
def State.placeAll (s : State) (hub i : Nat) : Nat → Option State
  | 0 => if s.slotWaiting (s.slot hub i) = 0 then some s else none
  | n + 1 => if s.slotWaiting (s.slot hub i) = 0 then some s
    else match s.placeNext hub i with
      | none => none
      | some s => s.placeAll hub i n

/-- The most workgroups that can stand in the package at once: 64 warps a core at most on 192 cores. -/
def maxResident : Nat := 12288

/-- What a slot places in a cycle, if anything: one workgroup, or all of a cooperative kernel (R353, R369). -/
def State.placeSlot (s : State) (hub i : Nat) : Option State :=
  let x := s.slot hub i
  if x.state ≠ .active ∨ x.w0.getLsbD 31 = false then none
  else match Table.find x.pkt s.pkts with
    | none => none
    | some p =>
      if (s.tenant p.vdev).killing || s.worldHeld p.world || s.barred p then none
      else if p.coop then
        if s.slotWaiting x = 0 ∨ maxResident < s.slotWaiting x then none else s.placeAll hub i (s.slotWaiting x)
      else s.placeNext hub i

/-- DISPATCH_PLACE: dispatch places the next workgroup: slots in descending priority, then ascending number (R353). -/
def execDispatchPlace (hub : Nat) (s : State) : Out :=
  let prio := fun (x : Slot) => bits x.w0.toNat 30 29
  let order := sortBy (fun (a b : Nat × Slot) => decide (prio b.2 ≤ prio a.2)) (s.hub hub).slots
  match order.findSome? (fun e => s.placeSlot hub e.1) with
  | some s => .next s
  | none => .next s

/-! ## Pre-emption (R367 to R370, R385, R428) -/

/-- A slice end is requested for a workgroup: it is saved at its next boundary; the notice event is raised where the trap
descriptor asks for it (R367, R385). -/
def State.endSlice (s : State) (gid : Nat) : State :=
  match Table.find gid s.wgs with
  | none => s
  | some g =>
    let s := s.modWg gid (fun g => { g with sliceEnd := true })
    if (s.trapDesc g).notice then (s.wgWarps gid).foldl (fun s e => s.raiseAsync e.1 (cause0 0x31 1)) s else s

/-- The slots that a pre-emption targets, on both hubs for a partition (log entry 22, DEDUCED). -/
def State.targetSlots (s : State) (hub : Nat) (isPart : Bool) (target : Nat) : List (Nat × Nat) :=
  [0, 1].flatMap (fun h => ((s.hub h).slots.filter (fun e =>
    (decide (e.2.state = .active) || decide (e.2.state = .held)) &&
      (if isPart then decide (bits e.2.w1.toNat 31 24 = target) else decide (h = hub) && decide (e.1 = target)))).map
    (fun e => (h, e.1)))

/-- The workgroups that stand and are covered by some slots, but for those that only wait to retire. -/
def State.coveredWgs (s : State) (slots : List (Nat × Nat)) : List Nat :=
  (s.wgs.filter (fun e => e.2.stands && decide (e.2.status ≠ .retiring) &&
    (match s.slotFor e.2.hub e.2.pkt e.2.lin with | some i => slots.contains (e.2.hub, i) | none => false))).map Prod.fst

/-- Start a pre-empt command (R428): one that is still running makes it have no effect. -/
def State.preempt (s : State) (hub : Nat) (urgent isPart : Bool) (target : Nat) : State :=
  if (s.hub hub).preempt.getLsbD 63 then s
  else
    let slots := s.targetSlots hub isPart target
    let gids := s.coveredWgs slots
    let s := slots.foldl (fun s e => s.modSlot e.1 e.2 (fun x => { x with state := .held })) s
    let s := s.modHub hub (fun h => { h with
      preempt := BitVec.ofNat 64 (2 ^ 63 + urgent.toNat * 2 ^ 62 + isPart.toNat * 2 ^ 61 + target % 64)
      awaited := gids, savedNow := 0 })
    gids.foldl (fun s g => if urgent then s.urgentHalt g else s.endSlice g) s

/-- PREEMPT_SLICE_END (R367). -/
def execPreemptSliceEnd (hub : Nat) (isPart : Bool) (target : Nat) (s : State) : Out := .next (s.preempt hub false isPart target)

/-- PREEMPT_URGENT_HALT (R367). -/
def execPreemptUrgentHalt (hub : Nat) (isPart : Bool) (target : Nat) (s : State) : Out := .next (s.preempt hub true isPart target)

/-- Save those of some halted workgroups whose issued work is complete. -/
def State.saveDone (s : State) (gids : List Nat) : State :=
  gids.foldl (fun s gid => match Table.find gid s.wgs with
    | some g => if g.status = .halting && s.haltDone gid g then s.saveWg gid else s
    | none => s) s

/-- PREEMPT_COMPLETE: halted workgroups whose issued work is complete are saved; when none is awaited any more the hub posts the
count and interrupts its management core (R428). -/
def execPreemptComplete (hub : Nat) (s : State) : Out :=
  if !(s.hub hub).preempt.getLsbD 63 then .next s
  else
    let s := s.saveDone (s.hub hub).awaited
    if !(s.hub hub).awaited.isEmpty then .next s
    else .next (s.modHub hub (fun h => { h with
      preempt := h.preempt &&& 0x7FFFFFFFFFFFFFFF#64, saved := BitVec.ofNat 32 h.savedNow, irqs := h.irqs ++ [(16, hub)] }))

/-- SLOT_RESUME: a held slot becomes active again (R367, R428). -/
def execSlotResume (hub slot : Nat) (s : State) : Out :=
  let s := s.modHub hub (fun h => { h with resume := BitVec.ofNat 64 (slot % 64) })
  .next (if (s.slot hub slot).state = .held then s.modSlot hub slot (fun x => { x with state := .active }) else s)

/-- ADMISSION_LIMIT_WRITE: a core's admission limit, 16 to 64; nothing is evicted (R354). -/
def execAdmissionLimitWrite (core limit : Nat) (s : State) : Out :=
  .next (if 16 ≤ limit ∧ limit ≤ 64 then s.modCore core (fun c => { c with limit := limit }) else s)

/-- PARTITION_CHANGE: the cores of a partition become some cores: new ones join at once, those removed receive a slice end and
leave as their workgroups are saved (R365, R370). -/
def execPartitionChange (part vdev : Nat) (cores : List Nat) (s : State) : Out :=
  if 64 ≤ part then .next s
  else
    let s := { s with partsOwner := Table.ins part vdev s.partsOwner }
    let s := (s.cores.filter (fun e => decide (e.2.part = some part) && !cores.contains e.1)).foldl (fun s e =>
      let s := s.modCore e.1 (fun c => { c with leaving := true })
      ((s.resident e.1).foldl (fun s g => s.endSlice g.1) s).leaveCore e.1) s
    .next (cores.foldl (fun s c => s.modCore c (fun k =>
      if k.part = none ∨ k.part = some part then { k with part := some part, leaving := false } else k)) s)

/-! ## Sluice and Weir (R360 to R365) -/

/-- The bucket of a virtual device at an arbiter (R427). -/
def State.bucket (s : State) (hub arb vdev : Nat) : Bucket := Table.get {} (33 * arb + vdev) (s.hub hub).buckets

/-- Change a bucket. -/
def State.modBucket (s : State) (hub arb vdev : Nat) (f : Bucket → Bucket) : State :=
  s.modHub hub (fun h => { h with
    buckets := Table.put {} (33 * arb + vdev) (f (Table.get {} (33 * arb + vdev) h.buckets)) h.buckets })

/-- The set bits of a number's low 16. -/
def popcount16 (x : BitVec 16) : Nat := ((List.range 16).filter (fun i => x.getLsbD i)).length

/-- Whether a number below 768 names a group issue arbiter: an Impala chiplet has 24 cores of 4 groups, an Eland chiplet 8 of 2
(Table 14.1a). -/
def groupArb (arb : Nat) : Bool :=
  if arb / 128 < 3 then decide (arb % 128 / 4 < 24) else decide (arb % 128 / 4 < 8) && decide (arb % 4 < 2)

/-- An arbiter's grants per 4,096 cycles, 0 where no arbiter has the number (Tables 11.6 and 14.1a, R439, R450). -/
def State.arbGrants (s : State) (hub arb : Nat) : Nat :=
  if arb < 768 then (if groupArb arb then 4096 else 0)
  else if arb < 960 then 3933
  else if arb < 968 then 3520
  else if arb = 968 then 4096
  else if 976 ≤ arb ∧ arb < 992 then
    let p := Table.get {} ((arb - 976) / 2) (s.hub hub).ports
    if p.modules ((arb - 976) / 2) = 8 then 26214 * (16 - popcount16 p.narrow) / 16
    else 52428 * (32 - popcount16 p.narrow) / 32
  else if 992 ≤ arb ∧ arb < 1008 then 1280
  else 0

/-- The guarantees in force at an arbiter, but for one device's. -/
def State.arbSum (s : State) (hub arb vdev : Nat) : Nat :=
  (List.range 33).foldl (fun n v => if v = vdev then n else n + (s.bucket hub arb v).guarantee) 0

/-- SLUICE_GUARANTEE_WRITE: accepted only while the sum fits the arbiter; guarantees that fit end a port's suspension (R361,
R439). -/
def execSluiceGuaranteeWrite (hub arb vdev : Nat) (value : Word) (s : State) : Out :=
  let g := bits value.toNat 19 0
  let cap := s.arbGrants hub arb
  if 32 < vdev ∨ cap < g ∨ cap * 4032 < (s.arbSum hub arb vdev + g) * 4096 then .next s
  else
    let s := s.modBucket hub arb vdev (fun b => { b with guarantee := g })
    .next (if 976 ≤ arb ∧ arb < 992 then
      s.modHub hub (fun h => { h with ports := Table.modify ((arb - 976) / 2) (fun p => { p with suspended := p.suspended &&& ~~~(BitVec.ofNat 2 (2 ^ (arb % 2))) }) h.ports })
    else s)

/-- One cycle's refill of an arbiter (R361, R362): levels rise to the depth; the refill of a full bucket whose device has no
request waiting is marked; a request of its owner ends the marking, and the owner of marked tokens is owed its first grant at once
(R363). -/
def State.refill (s : State) (hub arb : Nat) (reqs : List Nat) : State :=
  (List.range 33).foldl (fun s v => s.modBucket hub arb v (fun b =>
    let top := b.depth * 4096
    if reqs.contains v then
      { b with level := Nat.min top (b.level + b.guarantee), marked := 0
               owed := b.owed + b.guarantee + (if b.marked = 0 then 0 else 4096) }
    else if top ≤ b.level then { b with marked := b.marked + b.guarantee, owed := 0 }
    else { b with level := Nat.min top (b.level + b.guarantee), marked := 0, owed := 0 })) s

/-- The next device after the one served last among those that satisfy a test, round robin. -/
def robinNext (last : Nat) (p : Nat → Bool) : Option Nat := ((List.range 33).map (fun i => (last + 1 + i) % 33)).find? p

/-- One grant of an arbiter, in the order of R362: own tokens, marked tokens, any other request. Among the holders of tokens those come
first to whom a grant of their guarantee is owed since they wait, so that each gets its guarantee whatever the others hold (R363; log
entry 24, DEDUCED). -/
def State.grantOne (s : State) (hub arb : Nat) (reqs : List Nat) : List Nat × State :=
  let last := Table.get 32 arb (s.hub hub).robin
  let served := fun (v : Nat) (s : State) =>
    (reqs.erase v, s.modHub hub (fun h => { h with robin := Table.put 32 arb v h.robin }))
  let holds := fun v => reqs.contains v && decide (4096 ≤ (s.bucket hub arb v).level)
  match (robinNext last (fun v => holds v && decide (4096 ≤ (s.bucket hub arb v).owed))).orElse (fun _ => robinNext last holds) with
  | some v => served v (s.modBucket hub arb v (fun b => { b with level := b.level - 4096, owed := b.owed - 4096 }))
  | none => match robinNext last reqs.contains with
    | none => (reqs, s)
    | some v =>
      match (List.range 33).find? (fun u => !reqs.contains u && decide (4096 ≤ (s.bucket hub arb u).marked)) with
      | some u =>
        let s := s.modBucket hub arb u (fun b => { b with marked := b.marked - 4096, lent := b.lent + 1 })
        served v (s.modBucket hub arb v (fun b => { b with borrowed := b.borrowed + 1 }))
      | none => served v s

/-- The grants of one cycle. -/
def State.grants (s : State) (hub arb : Nat) (reqs : List Nat) : Nat → State
  | 0 => s
  | n + 1 => let r := s.grantOne hub arb reqs; r.2.grants hub arb r.1 n

/-- The grants an arbiter has to give in a cycle: what its capacity has added up to, the rest carried over (Table 11.6; log entry 24,
DEDUCED). -/
def State.arbCycle (s : State) (hub arb : Nat) : Nat × State :=
  let n := Table.get 0 arb (s.hub hub).fraction + s.arbGrants hub arb
  (n / 4096, s.modHub hub (fun h => { h with fraction := Table.put 0 arb (n % 4096) h.fraction }))

/-- SLUICE_GRANT: one cycle of an arbiter with some requests, each named by its virtual device (R361, R362). -/
def execSluiceGrant (hub arb : Nat) (reqs : List Nat) (s : State) : Out :=
  let c := (s.refill hub arb reqs).arbCycle hub arb
  .next (c.2.grants hub arb reqs c.1)

/-- WEIR_ROTATION: a rotation of the hub ring starts, and the changes to the Weir take effect (R365). -/
def execWeirRotation (hub : Nat) (s : State) : Out := .next (s.modHub hub (fun h => { h with weir := h.weirNext }))

end Sys2Proof.Machine
end

