-- ==== Sys2Proof/Machine/Fetch.lean ====
section
/-! DEFINITION. The fetch of an instruction's bytes, by a warp, and where a decode failure goes (R37, R43, R55,
R135, R184, R379, R392). -/

namespace Sys2Proof.Machine

/-- What the fetch of a word finds: the word, or the cause it raises. -/
inductive Fetched where
  | word (w : BitVec 64)
  | bad (c : CauseInfo)
deriving DecidableEq, Repr

/-- A fetch cause: every enabled lane carries the fetch address (Table 06.2, R379). -/
def fetchCause (w : Warp) (code sub lv : Nat) : CauseInfo := { codeCause w code sub lv with fetch := true }

/-- Whether a debugger's code breakpoint stands at the address of a warp of world 0 (R392). -/
def State.breaks (s : State) (w : Warp) (g : Wg) : Bool := decide (g.world = 0) && (s.core g.core).brk.contains w.pc.toNat

/-- Fetch the word a warp is due to issue: translation and poison (R184, R379). -/
def State.fetchWord (s : State) (w : Warp) (g : Wg) : Fetched × State :=
  let pc := w.pc.toNat
  let r := s.xlate g.core true g.asid pc .fetch w.wg
  match r.1 with
  | .fault code sub lv => (.bad (fetchCause w code sub lv), r.2)
  | .ok pa _ lv =>
    if (paHome pa).isNone then (.bad (fetchCause w 0x11 1 lv), r.2)
    else if r.2.poisonAt pa 8 then (.bad (fetchCause w 0x28 2 0), r.2.logPoison 2 g pa pc 0x28)
    else (.word (BitVec.ofNat 64 (leNat (r.2.bytesAt 0 pa 8))), r.2)

/-- The cause of a word that is no instruction (R55, Table 02.7). -/
def decodeCause : DecodeError → CauseInfo
  | .illegal => cause0 0x01 0
  | .reserved sub => cause0 0x02 sub
  | .base => cause0 0x01 0

/-- The path-select test is made on the raw header, before the word is looked at (R135); the guard fields of `BRS` are no
such guard. -/
def Warp.skipsRaw (w : Warp) (r : Raw) : Bool := decide (r.major ≠ 0x24#6) && w.skips r.hdr

end Sys2Proof.Machine
end

