-- ==== Sys2Proof/Machine/Hart.lean ====
section
/-! DEFINITION. The RISC-V side of a Kudu hart that the Ghendi instructions rest on: registers, exceptions and translation.
R406 takes all of it from the RISC-V specifications; it is written from general knowledge of them (log entry 10, PRESUMED). -/

namespace Sys2Proof.Machine

/-- Register x n of a hart; x0 reads as 0 (R408, log entry 10, PRESUMED). -/
def Hart.x (h : Hart) (n : Nat) : DWord := if n = 0 then 0 else Table.get 0 n h.regs

/-- Write register x n; a write of x0 is discarded (R408). -/
def Hart.setX (h : Hart) (n : Nat) (v : DWord) : Hart := if n = 0 then h else { h with regs := Table.put 0 n v h.regs }

/-- A RISC-V CSR by its number. -/
def Hart.csr (h : Hart) (n : Nat) : DWord := Table.get 0 n h.csrs

/-- Write a RISC-V CSR. -/
def Hart.setCsr (h : Hart) (n : Nat) (v : DWord) : Hart := { h with csrs := Table.put 0 n v h.csrs }

/-- A field of a CSR replaced: `w` bits from bit `lo`. -/
def dwField (x : DWord) (lo w : Nat) (v : Nat) : DWord :=
  let m : DWord := BitVec.ofNat 64 ((2 ^ w - 1) * 2 ^ lo)
  (x &&& ~~~m) ||| (BitVec.ofNat 64 (v % 2 ^ w * 2 ^ lo))

/-- The privilege a hart's trap is taken in. -/
inductive HartLevel where
  | machine | supervisor | guest
deriving DecidableEq, Repr

/-- Where a trap goes: M-mode unless delegated by `medeleg` or `mideleg`, then HS-mode unless the hart is virtual and
`hedeleg` or `hideleg` delegates it on; the interrupts of a virtual supervisor never go to M-mode. -/
def Hart.trapLevel (h : Hart) (irq : Bool) (cause : Nat) : HartLevel :=
  if h.mode = 3 ∨ !((h.csr (if irq then 0x303 else 0x302)).getLsbD cause || (irq && decide (cause ∈ [2, 6, 10, 12]))) then .machine
  else if h.virt && (h.csr (if irq then 0x603 else 0x602)).getLsbD cause then .guest
  else .supervisor

/-- The handler address of a trap vector CSR. -/
def vectorPc (tvec : DWord) (irq : Bool) (cause : Nat) : DWord :=
  (tvec &&& ~~~3) + (if irq && tvec.getLsbD 0 then BitVec.ofNat 64 (4 * cause) else 0)

/-- Whether an exception's trap value is an address (log entry 10, PRESUMED). -/
def addrCause (cause : Nat) : Bool := decide (cause ≤ 1) || (decide (3 ≤ cause) && decide (cause ≤ 7)) || decide (cause ∈ [12, 13, 15, 20, 21, 23])

/-- A trap of a hart: its cause, the guest physical address of a guest page fault, whether it comes of an access made as a virtual machine's
(`HLV`, `HSV`, or `mstatus.MPRV` with `MPV`), and whether of the walk of a virtual machine's own table. -/
structure RvExc where
  code : Nat
  gpa : Nat := 0
  virt : Bool := false
  walk : Bool := false
deriving DecidableEq, Repr

/-- What `mtinst` or `htinst` takes: the pseudoinstruction of a read of a virtual machine's table whose guest physical address is given,
else 0, which it may always be (log entry 10, PRESUMED). -/
def RvExc.tinst (e : RvExc) : DWord := if e.walk && decide (e.gpa / 4 ≠ 0) then 0x3000 else 0

/-- Take a trap in a hart: the cause, pc and value registers of the level that takes it, the guest physical address and the instruction of a
guest page fault, its status stacked, the pc at its vector. -/
def Hart.trapAt (h : Hart) (irq : Bool) (tval : DWord) (e : RvExc) : Hart :=
  let cause := e.code
  let level := h.trapLevel irq cause
  let cause := if irq && decide (level = .guest) && decide (cause ∈ [2, 6, 10]) then cause - 1 else cause
  let c : DWord := BitVec.ofNat 64 (irq.toNat * 2 ^ 63 + cause)
  let gva := ((h.virt || e.virt) && !irq && addrCause cause).toNat
  let h' := { h with waiting := false }
  match level with
  | .machine =>
    let st := h.csr 0x300
    let st := dwField (dwField (dwField (dwField st 7 1 (st.getLsbD 3).toNat) 3 1 0) 11 2 h.mode.toNat) 38 2 (gva + 2 * h.virt.toNat)
    { ((((((h'.setCsr 0x341 h.pc).setCsr 0x342 c).setCsr 0x343 tval).setCsr 0x300 st).setCsr 0x34B (BitVec.ofNat 64 (e.gpa / 4))).setCsr 0x34A e.tinst) with
      mode := 3, virt := false, pc := vectorPc (h.csr 0x305) irq cause }
  | .supervisor =>
    let st := h.csr 0x300
    let st := dwField (dwField (dwField st 5 1 (st.getLsbD 1).toNat) 1 1 0) 8 1 h.mode.toNat
    let hs := h.csr 0x600
    let hs := dwField (if h.virt then dwField hs 8 1 h.mode.toNat else hs) 6 2 (gva + 2 * h.virt.toNat)
    { (((((((h'.setCsr 0x141 h.pc).setCsr 0x142 c).setCsr 0x143 tval).setCsr 0x300 st).setCsr 0x600 hs).setCsr 0x643
        (BitVec.ofNat 64 (e.gpa / 4))).setCsr 0x64A e.tinst) with
      mode := 1, virt := false, pc := vectorPc (h.csr 0x105) irq cause }
  | .guest =>
    let st := h.csr 0x200
    let st := dwField (dwField (dwField st 5 1 (st.getLsbD 1).toNat) 1 1 0) 8 1 h.mode.toNat
    { ((((h'.setCsr 0x241 h.pc).setCsr 0x242 c).setCsr 0x243 tval).setCsr 0x200 st) with
      mode := 1, pc := vectorPc (h.csr 0x205) irq cause }

/-- A trap that no guest physical address belongs to. -/
def Hart.trap (h : Hart) (irq : Bool) (cause : Nat) (tval : DWord) : Hart := h.trapAt irq tval { code := cause }

/-- An exception in a hart. -/
def State.hartExc (s : State) (n : Nat) (cause : Nat) (tval : DWord) : State :=
  s.setHart n ((s.hartOf n).trap false cause tval)

/-- A hart takes the exception of a translation. -/
def State.hartFault (s : State) (n : Nat) (e : RvExc) (tval : DWord) : State :=
  s.setHart n ((s.hartOf n).trapAt false tval e)

/-- Why a stage of translation fails: a page fault of its own, or one of the stage below at a guest physical address, which may be that of
an entry of the first stage's table. -/
inductive RvFault where
  | page | below (gpa : Nat) (walk : Bool) | access
deriving DecidableEq, Repr

/-- The exception of a kind of access: page faults 12, 13 and 15, guest page faults 20, 21 and 23, access faults 1, 5 and 7. -/
def RvFault.exc (f : RvFault) (acc : AccessKind) : RvExc :=
  let page : Nat := match acc with | .load => 13 | .fetch => 12 | _ => 15
  match f with
  | .page => { code := page }
  | .below gpa walk => { code := page + 8, gpa := gpa, walk := walk }
  | .access => { code := page - (if page = 12 then 11 else 8) }

/-- A leaf entry of a RISC-V table, its checks, and the physical address it gives at a level (Sv39, Sv48, Sv57). `exec` says that
execute permission stands in for read permission (`HLVX`). -/
def rvLeaf (e : Nat) (user mxr sum guest exec : Bool) (acc : AccessKind) (va k : Nat) : Option Nat :=
  let b := fun i => e.testBit i
  let rd := if exec then b 3 else b 1 || (mxr && b 3)
  let ok := match acc with | .load => rd | .store => b 2 | .fetch => b 3 | .rmw => b 1 && b 2
  let who := if guest then b 4 else if user then b 4 else !b 4 || (sum && decide (acc ≠ .fetch))
  let ppn := bits e 53 10
  if ok && who && b 6 && (b 7 || !decide (acc = .store ∨ acc = .rmw)) && decide (ppn % 2 ^ (9 * k) = 0) then
    some (ppn * 4096 + va % 2 ^ (12 + 9 * k))
  else none

/-- The walk of a RISC-V table from a level on; `xl` gives the physical address of a table entry's address. -/
def rvWalk (s : State) (xl : Nat → Except RvFault Nat) (user mxr sum guest exec : Bool) (acc : AccessKind) (va : Nat) :
    Nat → Nat → Nat → Except RvFault Nat
  | k, table, wide =>
    match xl (table + 8 * bits va (12 + 9 * k + 8 + wide) (12 + 9 * k)) with
    | .error f => .error f
    | .ok pa =>
      if (paHome pa).isNone then .error .access
      else
        let e := leNat (s.bytesAt 0 pa 8)
        if !e.testBit 0 || (!e.testBit 1 && e.testBit 2) || decide (bits e 63 54 ≠ 0) then .error .page
        else if e.testBit 1 || e.testBit 3 then
          (match rvLeaf e user mxr sum guest exec acc va k with | some x => .ok x | none => .error .page)
        else match k with
          | 0 => .error .page
          | j + 1 => rvWalk s xl user mxr sum guest exec acc va j (bits e 53 10 * 4096) 0
termination_by structural k => k

/-- The levels of a translation mode, none for Bare. -/
def rvLevels (atp : DWord) : Nat := match bits atp.toNat 63 60 with | 8 => 3 | 9 => 4 | 10 => 5 | _ => 0

/-- The second stage of a virtual hart, by `hgatp`: a fault there is one below the first. -/
def rvGuest (s : State) (h : Hart) (mxr exec : Bool) (acc : AccessKind) (gpa : Nat) : Except RvFault Nat :=
  let atp := h.csr 0x680
  let top := 12 + 9 * rvLevels atp + 2
  let r : Except RvFault Nat := match rvLevels atp with
    | 0 => .ok gpa
    | n + 1 => if 2 ^ top ≤ gpa then .error .page
        else rvWalk s .ok true mxr false true exec acc gpa n (bits atp.toNat 43 0 * 4096) 2
  match r with
  | .error .page => .error (.below gpa false)
  | r => r

/-- Translate an access made at a privilege: mode, virtualisation, and whether execute permission stands in for read. -/
def rvXlateAs (s : State) (h : Hart) (mode : Nat) (virt exec : Bool) (acc : AccessKind) (va : Nat) : Except RvExc Nat :=
  if mode = 3 then .ok va
  else
    let st := h.csr 0x300
    let atp := h.csr (if virt then 0x280 else 0x180)
    let sst := if virt then h.csr 0x200 else st
    let mxr := st.getLsbD 19
    let xl : Nat → Except RvFault Nat := fun pa => if virt then (match rvGuest s h false false .load pa with
      | .error (.below gpa _) => .error (.below gpa true)
      | r => r) else .ok pa
    let first : Except RvFault Nat := match rvLevels atp with
      | 0 => .ok va
      | n + 1 =>
        let top := 12 + 9 * (n + 1)
        if (sextN va top % 2 ^ 64).toNat ≠ va then .error .page
        else rvWalk s xl (decide (mode = 0)) (sst.getLsbD 19 || mxr) (sst.getLsbD 18) false exec acc va n (bits atp.toNat 43 0 * 4096) 0
    let r : Except RvFault Nat := match first with
      | .error f => .error f
      | .ok pa => if virt then rvGuest s h mxr exec acc pa else .ok pa
    match r with
    | .error f => .error { f.exc acc with virt := virt }
    | .ok pa => .ok pa

/-- The privilege at which a hart makes an access of its own, and whether as a virtual machine: `mstatus.MPRV` lends an access of M-mode the
privilege it came from. -/
def Hart.accessAs (h : Hart) (acc : AccessKind) : Nat × Bool :=
  let st := h.csr 0x300
  if st.getLsbD 17 && decide (h.mode = 3) && decide (acc ≠ .fetch) then
    (bits st.toNat 12 11, st.getLsbD 39 && decide (bits st.toNat 12 11 ≠ 3))
  else (h.mode.toNat, h.virt)

/-- Translate a hart's own access. -/
def rvXlate (s : State) (h : Hart) (acc : AccessKind) (va : Nat) : Except RvExc Nat :=
  rvXlateAs s h (h.accessAs acc).1 (h.accessAs acc).2 false acc va

/-- Whether an access made at a privilege is translated by nothing: in M-mode, or with every table it would go through bare. -/
def Hart.untranslated (h : Hart) (who : Nat × Bool) : Bool :=
  decide (who.1 = 3) || (if who.2 then decide (rvLevels (h.csr 0x280) = 0) && decide (rvLevels (h.csr 0x680) = 0)
    else decide (rvLevels (h.csr 0x180) = 0))

/-- The hart continues at the next instruction. -/
def Hart.advance (h : Hart) : Hart := { h with pc := h.pc + 4, waiting := false }

/-- What a hart finds at its pc: the word there, or the exception of its fetch. Its instructions are 4 bytes long and aligned. -/
def State.fetchHart (s : State) (h : Hart) : Except RvExc (BitVec 32) :=
  if h.pc.toNat % 4 ≠ 0 then .error { code := 0 }
  else match rvXlate s h .fetch h.pc.toNat with
    | .error c => .error c
    | .ok pa => if (paHome pa).isNone then .error { code := 1 } else if s.poisonAt pa 4 then .error { code := 19 } else .ok (BitVec.ofNat 32 (leNat (s.bytesAt 0 pa 4)))

end Sys2Proof.Machine
end

