-- ==== Sys2Proof/Machine/System.lean ====
section
/-! DEFINITION. The system instructions of major 0x3F: special registers, trap return, software traps, context items,
performance counters, generations, and ending a workgroup (R49, R52, R53, R130, R382, R390 to R405). -/

namespace Sys2Proof.Machine

/-! ## Special registers (R52, R53, R402, Tables 02.8 and 02.9) -/

/-- The coordinate or iteration of a loop level (R19): 0 for an absent one. -/
def loopCoord (g : Wg) (w : Warp) (n : Nat) : Word :=
  match (g.loops.getD n ⟨0, .absent⟩).mark with
  | .absent => 0
  | .temporal => w.loops.getD n 0
  | _ => BitVec.ofNat 32 (g.coords.getD n 0)

/-- `sr.mode` (Table 02.9c). -/
def Warp.modeWord (w : Warp) : Word :=
  BitVec.ofNat 32 (w.spawned.toNat * 8 + w.melded.toNat * 4 + w.window.toNat * 2 + w.trap.toNat)

/-- The value of a special register in a lane; `gen` is the tenant's generation and `cyc` the cycle counter (Table 02.8). -/
def srValue (g : Wg) (w : Warp) (gen : Nat) (cyc : DWord) (n l : Nat) : Word :=
  let chip := coreChip g.core
  match n with
  | 0x00 => w.exm
  | 0x01 => BitVec.ofNat 32 l
  | 0x02 => BitVec.ofNat 32 w.idx
  | 0x03 => BitVec.ofNat 32 g.lin
  | 0x04 => BitVec.ofNat 32 (w.group * 256 + g.core % 32)
  | 0x05 => BitVec.ofNat 32 (chipHub chip * 128 + chipKind chip * 16 + chipIndex chip)
  | 0x06 => BitVec.ofNat 32 w.role
  | 0x08 => loopCoord g w 0
  | 0x09 => loopCoord g w 1
  | 0x0A => loopCoord g w 2
  | 0x0B => loopCoord g w 3
  | 0x0C => loopCoord g w 4
  | 0x0D => loopCoord g w 5
  | 0x10 => BitVec.ofNat 32 g.world
  | 0x11 => BitVec.ofNat 32 g.vdev
  | 0x12 => BitVec.ofNat 32 gen
  | 0x13 => w.modeWord
  | 0x14 => BitVec.ofNat 32 (w.melded.toNat * 2 + (w.melded && bitOf w.paths l).toNat)
  | 0x18 => w.cause
  | 0x19 => w.epc
  | 0x1A => w.epch.setWidth 32
  | 0x1B => laneVal w.tval l
  | 0x1C => laneVal w.tvalh l
  | 0x20 => cyc.setWidth 32
  | 0x21 => w.cych
  | _ => 0

/-- The tag Table 02.8 gives a special register read with every lane active. -/
def srTag (n : Nat) : Tag := if n = 0x01 then .affine else if n = 0x14 ∨ n = 0x1B ∨ n = 0x1C then .general else .uniform

/-- The chiplet's cycle counter moves on by some free number of cycles (log entry 6, DESIGN CHOICE). -/
def State.tick (s : State) (chip : Nat) : DWord × State :=
  let f := s.takeFree
  let c := f.2.chip chip
  let n := c.cyc + BitVec.ofNat 64 (Config.freeNat f.1)
  (n, f.2.setChip chip { c with cyc := n })

/-- SRD: read a special register; a read of `sr.cyc` latches the high half, whatever lanes are active (R53, R402). -/
def execSrd (h : Hdr) (dst : Reg) (sr : BitVec 16) (s : State) : Out :=
  issue h { dsts := [(dst.toNat, 1)] } s fun c s =>
    let n := sr.toNat
    let r := if n = 0x20 then s.tick (coreChip c.g.core) else (0, s)
    let s := if n = 0x20 then r.2.modWarp c.id (fun w => { w with cych := (r.1 >>> 32).setWidth 32 }) else r.2
    .done none ((s.count c.w.wg 2 1).put c dst.toNat c.act
      (laneBuild (srValue c.g c.w (s.gen c.g.vdev) r.1 n)) (srTag n) (c.lat 4 5))

/-- The warp after a write of a special register: per-lane values for the trap values, lane 0's for the others, and none with no
lane active (R402); reserved bits stay 0 (R4). -/
def Warp.srWrite (w : Warp) (act : Mask) (n : Nat) (v : Lanes) : Warp :=
  let x := laneVal v 0
  match n with
  | 0x1B => { w with tval := mergeLanes act v w.tval }
  | 0x1C => { w with tvalh := mergeLanes act v w.tvalh }
  | 0x00 => if act = 0 then w else w.setMask x
  | 0x18 => if act = 0 then w else { w with cause := x &&& 0xF000FFFF#32 }
  | 0x19 => if act = 0 then w else { w with epc := x }
  | 0x1A => if act = 0 then w else { w with epch := x.setWidth 25 }
  | _ => w

/-- SWR: write a special register (R402). -/
def execSwr (h : Hdr) (a : Reg) (sr : BitVec 16) (s : State) : Out :=
  let n := sr.toNat
  let lanewise := decide (n = 0x1B ∨ n = 0x1C)
  issue h { srcs := [if lanewise then srcA a else ⟨a.toNat, 1, .first 1⟩], trapOnly := decide (0x18 ≤ n) } s fun c s =>
    .done none (s.modWarp c.id (fun w => w.srWrite c.act n (c.w.rdAll a.toNat)))

/-! ## Trap return and software traps (R382, R398, R403) -/

/-- A return from trap mode to an address some bytes past `sr.epc` (R382): a target that is no multiple of 8 raises cause 0x03.
`next` counts the trapping instruction as issued. -/
def trapReturn (h : Hdr) (next : Bool) (s : State) : Out :=
  issue h { trapOnly := true } s fun c s =>
    let t := c.w.epcAddr + (if next then 8 else 0)
    if t.toNat % 8 ≠ 0 then .trap (causeVal 0x03 0 (t.setWidth 32)) s
    else
      let s := s.count c.w.wg 1 1
      .over ((s.modWarp c.id (fun w =>
        let w := w.leaveTrap t
        { w with wait := .none, issued := true, stall := 0, lastWc := if next && w.window then c.wc else w.lastWc })).thaw c.w.wg)

/-- TRET (R403). -/
def execTret (h : Hdr) (s : State) : Out := trapReturn h false s

/-- TRET.NEXT (R403). -/
def execTretNext (h : Hdr) (s : State) : Out := trapReturn h true s

/-- A software trap (R398): no effect with no lane active; the immediate in every active lane. -/
def softTrap (h : Hdr) (code : Nat) (imm : BitVec 16) (s : State) : Out :=
  issue h {} s fun c s =>
    if c.act = 0 then .done none s
    else .trap (causeLanes code 0 (fun l => if bitOf c.act l then imm.setWidth 32 else 0)
      (fun l => if bitOf c.act l then 0x80000000#32 else 0)) s

/-- BREAK (R398). -/
def execBrk (h : Hdr) (imm : BitVec 16) (s : State) : Out := softTrap h 0x48 imm s

/-- TRAPI (R398). -/
def execTrapi (h : Hdr) (imm : BitVec 16) (s : State) : Out := softTrap h 0x49 imm s

/-! ## The warp's own high registers and context items (R399, R405) -/

/-- XRD: read the warp's own `v(240 + n)` with its tag and marks (R405). -/
def execXrd (h : Hdr) (dst : Reg) (n : BitVec 16) (s : State) : Out :=
  issue h { dsts := [(dst.toNat, 1)], trapOnly := true, room := 241 + n.toNat } s fun c s =>
    .done none ((s.count c.w.wg 2 1).modWarp c.id (fun w => w.setReg (w.slot dst.toNat 0) (w.reg (240 + n.toNat))))

/-- XWR: write the warp's own `v(240 + n)` in every lane, with a's tag (R405). -/
def execXwr (h : Hdr) (a : Reg) (n : BitVec 16) (s : State) : Out :=
  issue h { srcs := [⟨a.toNat, 1, .all⟩], trapOnly := true, room := 241 + n.toNat } s fun c s =>
    .done none (s.modWarp c.id (fun w => w.setReg (240 + n.toNat) ⟨w.tagOf a.toNat 0, w.rdAll a.toNat, 0⟩))

/-- The value of a context item (Table 12.9). -/
def itemValue (g : Wg) (w : Warp) (n : Nat) : Word :=
  if n = 0 then w.trapMask
  else if n = 1 then w.entryMask
  else if n = 2 then w.meldReg.setWidth 32
  else if n = 3 then (match g.win with | some x => if w.window then BitVec.ofNat 32 x.cycle else 0 | none => 0)
  else if n = 4 then (match g.win with | some x => if w.window then x.mask else 0 | none => 0)
  else if n = 5 then BitVec.ofNat 32 w.landing.length
  else if n = 6 then w.prio.setWidth 32
  else if n = 7 then BitVec.ofNat 32 (g.pond.foldl (fun k e => k + e.bytes) 0)
  else if n < 0x20 then (w.ren0.getD (n - 0x10) 0).setWidth 32
  else if n < 0x30 then (w.ren1.getD (n - 0x20) 0).setWidth 32
  else w.loops.getD (n - 0x30) 0

/-- CXRD: read a context item (R399). -/
def execCxrd (h : Hdr) (dst : Reg) (item : BitVec 16) (s : State) : Out :=
  issue h { dsts := [(dst.toNat, 1)], trapOnly := true } s fun c s =>
    .done none ((s.count c.w.wg 2 1).putAll c dst.toNat (itemValue c.g c.w item.toNat) (c.lat 4 5))

/-- Whether a value lies in the range of a writable context item (Table 12.9). -/
def itemFits (g : Wg) (n v : Nat) : Bool :=
  if n = 0 then true
  else if n = 6 then decide (v ≤ 3)
  else if n < 0x30 then decide (v ≤ 255)
  else
    let lv := g.loops.getD (n - 0x30) ⟨0, .absent⟩
    if lv.mark = .temporal then decide (v < lv.extent) else decide (v = 0)

/-- The warp after a write of a context item. -/
def Warp.itemWrite (w : Warp) (n : Nat) (v : Word) : Warp :=
  if n = 0 then { w with trapMask := v }
  else if n = 6 then { w with prio := v.setWidth 2 }
  else if n < 0x20 then { w with ren0 := listSet (n - 0x10) (v.setWidth 8) w.ren0 }
  else if n < 0x30 then { w with ren1 := listSet (n - 0x20) (v.setWidth 8) w.ren1 }
  else { w with loops := listSet (n - 0x30) v w.loops }

/-- CXWR: write a writable context item (R399). -/
def execCxwr (h : Hdr) (a : Reg) (item : BitVec 16) (s : State) : Out :=
  issue h { srcs := [src0 a], trapOnly := true } s fun c s =>
    if !itemFits c.g item.toNat (c.lane0 a).toNat then .trap (cause0 0x02 6) s
    else .done none (s.modWarp c.id (fun w => w.itemWrite item.toNat (c.lane0 a)))

/-! ## Counters (R393, R401) -/

/-- The counters that count cycles or denials have moved on by some free number (log entry 6, DESIGN CHOICE). -/
def State.freshPerf (s : State) (gid sel : Nat) : State :=
  if sel = 0 ∨ sel = 4 ∨ sel = 5 ∨ sel = 14 then let f := s.takeFree; f.2.count gid sel (Config.freeNat f.1) else s

/-- PMRD: read a counter as one value (R401). -/
def execPmrd (h : Hdr) (dst a : Reg) (s : State) : Out :=
  issue h { srcs := [src0 a], dsts := [(dst.toNat, 2)], window := false, meld := false } s fun c s =>
    let sel := (c.lane0 a).toNat
    if 15 < sel then .trap (cause0 0x02 6) s
    else
      let s := s.freshPerf c.w.wg sel
      let v : DWord := match Table.find c.w.wg s.wgs with | some g => g.perf.getD sel 0 | none => 0
      let s := s.count c.w.wg 2 1
      .done none ((s.putAll c dst.toNat (v.setWidth 32) (c.lat 8 9)).putAll c (dst.toNat + 1) ((v >>> 32).setWidth 32) (c.lat 8 9))

/-- PMRST: clear the workgroup's counters, after its own issue has been counted (R401). -/
def execPmrst (h : Hdr) (s : State) : Out :=
  issue h { window := false, meld := false } s fun c s =>
    .over ((s.finish c none).modWg c.w.wg (fun g => { g with perf := List.replicate 16 0 }))

/-! ## Generations and ending the workgroup (R394, R400, R404) -/

/-- GENWAIT: wait for the drain of a generation, acquire at system scope, and answer what has become of it (R400). -/
def execGenwait (h : Hdr) (dst a : Reg) (s : State) : Out :=
  issue h { srcs := [src0 a], dsts := [(dst.toNat, 1)], window := false, meld := false } s fun c s =>
    let x := (c.lane0 a).toNat
    let v := bits x 5 0
    let t := bits x 31 16
    let k := s.tenant v
    if bits x 15 6 ≠ 0 ∨ 32 < v then .trap (cause0 0x02 6) s
    else if c.g.vdev ≠ 32 ∧ v ≠ c.g.vdev then .trap (cause0 0x38 0) s
    else if k.gen = t ∧ k.killing ∧ k.advanced then .wait .generation s
    else if !c.w.loaded then .wait .fence s
    else .done none (((s.count c.w.wg 2 1).acquire c.id c.g 10).putAll c dst.toNat (if k.gen = t then 0 else 1) (c.lat 4 5))

/-- WGABORT: record a kernel value and end the workgroup (R404). -/
def execWgabort (h : Hdr) (a : Reg) (s : State) : Out :=
  issue h { srcs := [src0 a], window := false, meld := false } s fun c s =>
    if 2 ^ 16 ≤ (c.lane0 a).toNat then .trap (cause0 0x02 6) s
    else .over (((s.count c.w.wg 1 1).kernelValue c.g.pkt (c.lane0 a).toNat).abortWg c.w.wg)

end Sys2Proof.Machine
end

