-- ==== Sys2Proof/Machine/Kudu.lean ====
section
/-! DEFINITION. The Ghendi instructions of a Kudu hart, its spawn CSRs, its accesses to the memory of the package, and its
interrupts (R216, R217, R406 to R416, R442). -/

namespace Sys2Proof.Machine

/-! ## Harts -/

/-- The Kudu of a hart: 40 harts each, the eight application cores first. -/
def hartKudu (n : Nat) : Nat := n / 40

/-- Whether a hart is an I/O core's (R406). -/
def ioHart (n : Nat) : Bool := decide (8 ≤ n % 40)

/-- A meaning for the hart that executes: `body` is given its number and its record. -/
def onHart (s : State) (body : Nat → Hart → State) : Out := if 80 ≤ s.hart then .fault .noHart else .next (body s.hart (s.hartOf s.hart))

/-- A hart completes an instruction with a result for rd (R408). -/
def State.hartDone (s : State) (n : Nat) (rd : XReg) (v : DWord) : State := s.setHart n (((s.hartOf n).setX rd.toNat v).advance)

/-- The instruction word of a Ghendi instruction as a trap value (R408). -/
def wordOf (i : Instr) : DWord := ((encodeKudu i).getD 0).setWidth 64

/-- The exception of an access to a resource of supervisors: illegal instruction from U-mode, virtual instruction from VS-mode
or VU-mode (R407, R415); none in M-mode and HS-mode. -/
def Hart.denied (h : Hart) : Option Nat := if h.virt then some 22 else if h.mode = 0 then some 2 else none

/-! ## Accesses at host scope (R216, R217, R406, R412) -/

/-- The identity of a hart (R217, R237): no workgroup, no tenant. -/
def hartParty (n : Nat) : Party := ⟨hartKudu n, 12 + hartKudu n, 1000 + n, n % 40, 0, 0, 0, 0, 64, 0, none⟩

/-- The version a hart's write carries: it acts as though it had acquired every write performed at host scope (log entry 26, DEDUCED). -/
def State.hostClock (s : State) : Nat := Nat.max (s.hub 0).clock (s.hub 1).clock

/-- The log entry of a refused synchronisation access (R238, R412, Table 14.6). -/
def State.logScope (s : State) (chip pa va : Nat) (r : SyncRec) : State :=
  s.logEvent (chipHub chip) { LogEntry.mk0 4 chip with cause := 0x20, pa := pa, va := va % 2 ^ 57, detail := partyDetail r }

/-- Present a synchronisation access of a party to the checker at host scope (R238, R412). -/
abbrev State.hostCheck (s : State) (p : Party) (pa : Nat) : Except SyncRec State := s.partyCheck p 8 pa

/-- The number under which the directory holds a line for a Kudu, a full peer like a cluster (R12, R406). -/
def kuduCluster (kudu : Nat) : Nat := (12 + kudu) * 8

/-- A hart's read of memory: the directory makes its Kudu a holder of the line, after a lookup at the home where it is none yet (R12,
R406, R451). A Kudu demoted to another class is no holder: it reads at the home, which is one of the ways its own caches could act (R12;
log entry 26, DEDUCED). -/
def State.kuduTake (s : State) (kudu pa : Nat) : State :=
  if (s.chip (12 + kudu)).cls ≠ 0 then s.homeTake kudu pa 32
  else if isRemote pa || (Table.find (pa / 256 * 128 + kuduCluster kudu) s.dir).isSome then s
  else (((s.homeTouch (pa / 256) 32).dropCcopies (kuduCluster kudu) (pa / 256)).meetHubs kudu ((paHome pa).getD kudu)).dirRead (kuduCluster kudu) (pa / 256)

/-- A hart's store: its Kudu holds the line Modified, and the write has its version at host scope (R12, R219, R406). A line of another
module is written there, and any line at its home by a Kudu that is no full peer (R12). -/
def State.kuduWrite (s : State) (kudu carried pa : Nat) (bs : List Byte) : State :=
  if isRemote pa || decide ((s.chip (12 + kudu)).cls ≠ 0) then s.homeWrite kudu 0 32 carried pa bs
  else
    let line := pa / 256
    let cl := kuduCluster kudu
    let owned := match Table.find (line * 128 + cl) s.dir with | some .modified => true | some .exclusive => true | _ => false
    let s := if owned then s else (s.homeTouch line 32).meetHubs kudu ((paHome pa).getD kudu)
    let m := s.line line
    let v := Nat.max (Nat.max m.wv m.re) carried + 1
    (((s.dirWrite cl line).putPieces 0 [(pa, bs)]).setLine line { m with wv := v }).raiseClock ((paHome pa).getD kudu) v

/-- Poison has been met on a Kudu: every tenant is held at its next interaction with it (R442). -/
def State.kuduPoison (s : State) (kudu : Nat) : State := s.modHub kudu (fun h => { h with poisonHold := List.range 33 })

/-- What an access to a join counter finds: an exception, or the counter's address, its value, and the state after the checks
(R412). -/
inductive JoinAt where
  | exc (e : RvExc) (s : State)
  | at (pa : Nat) (value : Word) (s : State)

/-- The checks of an access to a join counter, in order: alignment, translation, the scope checker, poison (R412). -/
def State.joinAt (s : State) (n : Nat) (h : Hart) (va : Nat) : JoinAt :=
  let exc := fun (c : Nat) (s : State) => JoinAt.exc { code := c, virt := (h.accessAs .rmw).2 } s
  if va % 4 ≠ 0 then exc 6 s
  else match rvXlate s h .rmw va with
    | .error c => .exc c s
    | .ok pa =>
      if (paHome pa).isNone then exc 7 s
      else match s.hostCheck (hartParty n) pa with
        | .error r => exc 7 (s.logScope (12 + hartKudu n) pa va r)
        | .ok s' =>
          if s.poisonAt pa 4 then exc 19 (s.kuduPoison (hartKudu n))
          else
            let s' := s'.homeTake (hartKudu n) pa 32
            .at pa (BitVec.ofNat 32 (leNat (s'.bytesAt 0 pa 4))) s'

/-- A join instruction of a hart: the exception, or what it does with the counter. -/
def hartJoin (rs1 : XReg) (s : State) (body : Nat → Hart → Nat → Word → State → State) : Out :=
  onHart s fun n h =>
    let va := (h.x rs1.toNat).toNat
    match s.joinAt n h va with
    | .exc e s => s.hartFault n e (h.x rs1.toNat)
    | .at pa v s => body n h pa v s

/-- VJADD: release at host scope, add, and answer the old value (R412). -/
def execVjadd (rd rs1 rs2 : XReg) (s : State) : Out :=
  hartJoin rs1 s fun n h pa v s =>
    let s := s.homeWrite (hartKudu n) 0 32 s.hostClock pa (leBytes 4 (v + (h.x rs2.toNat).setWidth 32).toNat)
    State.hartDone { s with lastWriter := Table.ins (pa / 256) n s.lastWriter } n rd (v.signExtend 64)

/-- VPOLL: read the counter, then acquire (R412). -/
def execVpoll (rd rs1 : XReg) (s : State) : Out := hartJoin rs1 s fun n _ _ v s => s.hartDone n rd (v.signExtend 64)

/-- VJOIN: wait until the counter reads 0; it is read again only after a write to its line (R412, R413). -/
def execVjoin (rd rs1 : XReg) (s : State) : Out :=
  onHart s fun n h =>
    let again := match h.seen, rvXlate s h .rmw (h.x rs1.toNat).toNat with
      | some v, .ok pa => decide ((s.line (pa / 256)).wv ≠ v)
      | _, _ => true
    if h.waiting && !again then s
    else match s.joinAt n h (h.x rs1.toNat).toNat with
      | .exc e s => s.hartFault n e (h.x rs1.toNat)
      | .at pa v s =>
        if v = 0 then s.setHart n { ((s.hartOf n).setX rd.toNat 0).advance with seen := none }
        else s.setHart n { (s.hartOf n) with waiting := true, seen := some (s.line (pa / 256)).wv }

/-! ## Launching (R409 to R411) -/

/-- The 64 bytes of the packet that `VSPAWN` builds (Tables 11.2 and 13.2). -/
def spawnPacket (h : Hart) (object completion ctl : Nat) : List Byte :=
  let flags := bits ctl 34 34 + 2 * bits ctl 35 35 + 4 * bits ctl 33 32
  [1, BitVec.ofNat 8 (bits ctl 15 8)] ++ leBytes 2 flags ++ [BitVec.ofNat 8 (bits ctl 23 16), BitVec.ofNat 8 (bits ctl 28 24),
    BitVec.ofNat 8 (bits ctl 31 29)] ++ List.replicate 9 0 ++ leBytes 8 object ++ leBytes 8 completion
    ++ (List.range 8).flatMap (fun i => leBytes 4 (if i < bits ctl 3 0 then (h.x (10 + i)).toNat % 2 ^ 32 else 0))

/-- VSPAWN: append a packet to the queue that `vspq` names (R409): its index, or a negative status. -/
def execVspawn (rd rs1 rs2 rs3 : XReg) (s : State) : Out :=
  onHart s fun n h =>
    let object := (h.x rs1.toNat).toNat
    let comp := (h.x rs2.toNat).toNat
    let ctl := (h.x rs3.toNat).toNat
    let fail := fun (s : State) (k : Int) => s.hartDone n rd (BitVec.ofInt 64 k)
    if !h.vspqEn then fail s (-1)
    else if bits ctl 63 36 ≠ 0 ∨ bits ctl 7 4 ≠ 0 ∨ 8 < bits ctl 3 0 then fail s (-4)
    else if object % 256 ≠ 0 ∨ comp % 8 ≠ 0 then fail s (-5)
    else
      let hub := h.vspqHub.toNat
      let i := h.vspqQueue.toNat
      let q := s.queue hub i
      let s := s.interact (hartKudu n) q.vdev
      if !q.enabled || (s.tenant q.vdev).killing then fail s (-1)
      else if h.vhasid.toNat ≠ q.asid then fail s (-3)
      else if q.write - q.read = 2 ^ q.log2size then fail s (-2)
      else
        match s.hubXlate q.asid (q.packetVa q.write) .store with
        | none => fail (s.queueFault hub i q.write .store) (-6)
        | some pa =>
          if s.poisonAt pa 64 then fail (s.queueFault hub i q.write .store) (-6)
          else
            let s := s.homeWrite (hartKudu n) 0 q.vdev s.hostClock pa (spawnPacket h object comp ctl)
            (s.modQueue hub i (fun q => { q with write := q.write + 1, stopped := false })).hartDone n rd (BitVec.ofNat 64 q.write)

/-- What a spawn CSR reads as (Table 13.1). -/
def Hart.spawnCsr (h : Hart) : CsrName → DWord
  | .vspq => BitVec.ofNat 64 (h.vspqEn.toNat * 2 ^ 63 + h.vspqHub.toNat * 1024 + h.vspqQueue.toNat)
  | .vhasid => h.vhasid.setWidth 64

/-- Write a spawn CSR (Table 13.1). -/
def Hart.setSpawnCsr (h : Hart) (csr : CsrName) (value : DWord) : Hart :=
  match csr with
  | .vspq => { h with vspqEn := value.getLsbD 63, vspqHub := value.getLsbD 10, vspqQueue := value.setWidth 10 }
  | .vhasid => { h with vhasid := value.setWidth 16 }

/-- SPAWN_CSR_ACCESS: a read and perhaps a write of `vspq` or `vhasid` (R407); reserved bits stay 0. -/
def execSpawnCsrAccess (hart : Nat) (csr : CsrName) (write : Bool) (value : DWord) (rd : XReg) (s : State) : Out :=
  if 80 ≤ hart then .fault .noHart
  else
    let h := s.hartOf hart
    match h.denied with
    | some c => let f := s.takeFree; .next (f.2.hartExc hart c (BitVec.ofNat 64 (Config.freeNat f.1)))
    | none =>
      .next (s.setHart hart (((if write then h.setSpawnCsr csr value else h).setX rd.toNat (h.spawnCsr csr)).advance))

/-! ## Queue sets and events (R414 to R416) -/

/-- Whether an event word is of a queue (Table 13.3). -/
def eventOf (e : DWord) (hub q : Nat) : Bool :=
  decide (1 ≤ bits e.toNat 63 60) && decide (bits e.toNat 63 60 ≤ 3) && decide (bits e.toNat 47 32 = hub * 1024 + q)

/-- Whether an event word is of some queue of a list of one hub. -/
def eventIn (e : DWord) (hub : Nat) (qs : List Nat) : Bool := qs.any (eventOf e hub)

/-- Bind some queues of a hub to a hart: their pending events move behind those already there (R415). -/
def State.bindQueues (s : State) (n hub : Nat) (qs : List Nat) : State :=
  let from? := fun (q : Nat) => (s.queue hub q).bound
  let mine := qs.filter (fun q => decide (from? q ≠ some n))
  let moved := (s.harts.filter (fun e => decide (e.1 ≠ n))).flatMap (fun e => e.2.events.filter (fun x => eventIn x.1 hub mine))
  let s := s.harts.foldl (fun s e => if e.1 = n then s
    else s.setHart e.1 { e.2 with events := e.2.events.filter (fun x => !eventIn x.1 hub mine) }) s
  let s := qs.foldl (fun s q => s.modQueue hub q (fun x => { x with bound := some n, deaf := false })) s
  s.setHart n (moved.foldl Hart.put (s.hartOf n))

/-- Unbind some queues from a hart: their pending events are discarded (R415). -/
def State.unbindQueues (s : State) (n hub : Nat) (qs : List Nat) : State :=
  let s := qs.foldl (fun s q => s.modQueue hub q (fun x => { x with bound := none })) s
  s.setHart n { (s.hartOf n) with events := (s.hartOf n).events.filter (fun x => !eventIn x.1 hub qs) }

/-- VQBIND: set this core's mask of a group of 64 queues (R415). -/
def execVqbind (rd rs1 rs2 : XReg) (s : State) : Out :=
  onHart s fun n h =>
    if !ioHart n then s.hartExc n 2 (wordOf (.vqbind rd rs1 rs2))
    else match h.denied with
      | some c => s.hartExc n c (wordOf (.vqbind rd rs1 rs2))
      | none =>
        let a := (h.x rs1.toNat).toNat
        let m := h.x rs2.toNat
        if bits a 63 5 ≠ 0 then s.hartDone n rd (BitVec.ofInt 64 (-1))
        else
          let hub := bits a 4 4
          let base := 64 * bits a 3 0
          let held := (List.range 64).filter (fun i => decide ((s.queue hub (base + i)).bound = some n))
          let old := held.foldl (fun x i => x + 2 ^ i) 0
          let s := s.unbindQueues n hub ((held.filter (fun i => !m.getLsbD i)).map (base + ·))
          let s := s.bindQueues n hub (((List.range 64).filter (fun i => m.getLsbD i)).map (base + ·))
          s.hartDone n rd (BitVec.ofNat 64 old)

/-- The overflow event enters a FIFO that has room again (R414, Table 13.3): what the table does not state of it is free. -/
def State.overflowEvent (s : State) (n : Nat) : State :=
  let h := s.hartOf n
  if h.overflow = 0 ∨ 256 ≤ h.events.length then s
  else
    let f := s.takeFree
    f.2.setHart n { h with
      events := h.events ++ [(eventWord 7 (Config.freeNat f.1 % 33) (Config.freeNat f.1 / 33) h.overflow, 0)], overflow := 0 }

/-- VQWAIT: wait for an event, remove the oldest and answer it (R416). -/
def execVqwait (rd : XReg) (s : State) : Out :=
  onHart s fun n h =>
    if !ioHart n then s.hartExc n 2 (wordOf (.vqwait rd))
    else match h.events with
      | [] => s.setHart n { h with waiting := true }
      | e :: rest => ((s.setHart n { h with events := rest }).overflowEvent n).hartDone n rd e.1

/-- EVENT_POST: an event of a queue reaches the I/O core it is bound to (R414). -/
def execEventPost (hub q kind : Nat) (detail : Word) (s : State) : Out := .next (s.postEvent hub q kind detail.toNat)

/-! ## Interrupts (R411, R413, R442) -/

/-- Whether a hart takes an interrupt now: enabled in `mie`, and the level that takes it is above the hart's own or has its
interrupts enabled (log entry 10, PRESUMED). -/
def Hart.takes (h : Hart) (n : Nat) : Bool :=
  (h.csr 0x304).getLsbD n && (match h.trapLevel true n with
    | .machine => decide (h.mode ≠ 3) || (h.csr 0x300).getLsbD 3
    | .supervisor => h.virt || decide (h.mode = 0) || (decide (h.mode = 1) && (h.csr 0x300).getLsbD 1)
    | .guest => h.virt && (decide (h.mode = 0) || (h.csr 0x200).getLsbD 1))

/-- The interrupts pending in a hart: those that have reached it, and those that software holds pending in `mip` and `hvip`. -/
def Hart.irqs (h : Hart) : List Nat :=
  h.pending ++ (List.range 16).filter (fun k => (h.csr 0x344).getLsbD k || (h.csr 0x645).getLsbD k)

/-- The rank of an interrupt a hart may take: by the level that takes it, then by the order of the standard ones, local ones last (log
entry 10, PRESUMED). -/
def Hart.irqRank (h : Hart) (k : Nat) : Nat :=
  (match h.trapLevel true k with | .machine => 0 | .supervisor => 1 | .guest => 2) * 16 + [11, 3, 7, 9, 1, 5, 12, 10, 2, 6].idxOf k

/-- The interrupt that a hart takes next, if any. -/
def Hart.nextIrq (h : Hart) : Option Nat :=
  (sortBy (fun a b => decide (h.irqRank a ≤ h.irqRank b)) (h.irqs.filter h.takes)).head?

/-- Take the pending interrupt of a hart that comes first: a waiting `VJOIN` or `VQWAIT` is left to be re-executed (R413). -/
def State.takeIrq (s : State) (n : Nat) : State :=
  let h := s.hartOf n
  match h.nextIrq with
  | none => s
  | some k => s.setHart n { (h.trap true k 0) with pending := h.pending.erase k, waiting := false, seen := none, power := .p0 }

/-- An interrupt reaches a hart. -/
def State.raiseIrq (s : State) (n k : Nat) : State :=
  (s.setHart n { (s.hartOf n) with pending := if (s.hartOf n).pending.contains k then (s.hartOf n).pending
    else (s.hartOf n).pending ++ [k] }).takeIrq n

/-- HART_INTERRUPT (R413). -/
def execHartInterrupt (hart n : Nat) (s : State) : Out := if 80 ≤ hart then .fault .noHart else .next (s.raiseIrq hart n)

/-- KUDU_CACHE_POISON_INTERRUPT: poison found in a line that a Kudu's caches hold, with no hart loading it, goes to the hart that wrote it last
(R442). -/
def execKuduCachePoisonInterrupt (hart line : Nat) (s : State) : Out :=
  if 80 ≤ hart then .fault .noHart
  else if Table.find line s.lastWriter = some hart ∧ s.poisonAt (line * 256) 256 = true
      ∧ (Table.find (line * 128 + kuduCluster (hartKudu hart)) s.dir).isSome = true then
    .next ((s.raiseIrq hart 16).kuduPoison (hartKudu hart))
  else .next s

/-- TENANT_POISON_HOLD: dispatch holds the tenant's active slots with a slice end and reports to Foulo (R442). -/
def execTenantPoisonHold (hub vdev : Nat) (s : State) : Out :=
  if !(s.hub hub).holdDue.contains vdev then .next s
  else
    let slots := [0, 1].flatMap (fun h => ((s.hub h).slots.filter (fun e => decide (e.2.state = .active) &&
      (match Table.find e.2.pkt s.pkts with | some p => decide (p.vdev = vdev) | none => false))).map (fun e => (h, e.1)))
    let gids := s.coveredWgs slots
    let s := slots.foldl (fun s e => s.modSlot e.1 e.2 (fun x => { x with state := .held })) s
    let s := gids.foldl (fun s g => s.endSlice g) s
    .next (s.modHub hub (fun h => { h with holdDue := h.holdDue.filter (· ≠ vdev), reports := h.reports ++ [⟨257, 0, vdev, 0, 0⟩] }))

end Sys2Proof.Machine
end

