-- ==== Sys2Proof/Machine/Network.lean ====
section
/-! DEFINITION. The network connections of the Saigas: opening and closing, sending, receiving, acknowledgement and overrun
(R417 to R424). -/

namespace Sys2Proof.Machine

/-! ## Connections -/

/-- A connection of a Saiga. -/
def State.conn (s : State) (saiga n : Nat) : Option Conn := Table.find n (s.hub saiga).conns

/-- Keep a connection's record. -/
def State.setConn (s : State) (saiga n : Nat) (c : Conn) : State :=
  s.modHub saiga (fun h => { h with conns := Table.ins n c h.conns })

/-- The size in bytes of a ring with a size code (Table 13.4). -/
def ringSize (code : Nat) : Nat := 2 ^ (12 + code)

/-- The hart of a notify byte (Table 13.4). -/
def notifyHart (b : Nat) : Option Nat := if b = 0x7F then none else some (bits b 7 7 * 40 + 8 + bits b 4 0)

/-- The identifier of a connection in event words (Table 13.3). -/
def connId (saiga n : Nat) : Nat := saiga * 2 ^ 15 + n

/-- The place of a connection's descriptor among the 8-byte words of its hub's management window (R427). -/
def connWord (n i : Nat) : Nat := (0x100000 + 64 * n) / 8 + i

/-- Show a descriptor in the connection table. -/
def State.showConn (s : State) (saiga n : Nat) (desc : List Byte) : State :=
  s.modHub saiga (fun h => { h with misc := (List.range 8).foldl (fun t i =>
    Table.put 0 (connWord n i) (BitVec.ofNat 64 (fieldAt desc (8 * i) 8)) t) h.misc })

/-- A connection leaves its table. -/
def State.dropConn (s : State) (saiga n : Nat) : State :=
  s.modHub saiga (fun h => { h with
    conns := Table.del n h.conns, misc := (List.range 8).foldl (fun t i => Table.put 0 (connWord n i) 0 t) h.misc })

/-- An event reaches a notify core (R423). -/
def State.notify (s : State) (b gen : Nat) (e : DWord) : State :=
  match notifyHart b with
  | none => s
  | some h => if s.kuduGone (h / 40) then s else (s.setHart h ((s.hartOf h).put (e, gen))).interact (h / 40) (bits e.toNat 59 54)

/-- Event 5, a new state word (R423). -/
def State.eventState (s : State) (saiga n : Nat) (c : Conn) : State :=
  s.notify c.notify c.gen (eventWord 5 c.vdev (connId saiga n) c.state)

/-- Event 4, a new receive tail: a pending one of the connection takes the later tail (R423; log entry 27, DEDUCED). -/
def State.eventTail (s : State) (saiga n : Nat) (c : Conn) : State :=
  let e := eventWord 4 c.vdev (connId saiga n) c.rtail
  let mine := fun (x : DWord × Nat) => decide (bits x.1.toNat 63 60 = 4) && decide (bits x.1.toNat 47 32 = connId saiga n)
  match notifyHart c.notify with
  | none => s
  | some h =>
    if (s.hartOf h).events.any mine then
      s.setHart h { (s.hartOf h) with events := (s.hartOf h).events.map (fun x => if mine x then (e, c.gen) else x) }
    else s.notify c.notify c.gen e

/-! ## The accesses of a Saiga (R419, R422) -/

/-- The identity of a Saiga service core (R237, log entry 27, DEDUCED). -/
def saigaParty (saiga : Nat) : Party := ⟨saiga, 14 + saiga, 2000 + saiga, 0, 0, 0, 0, 0, 64, 0, none⟩

/-- A synchronisation access of a Saiga is presented at host scope; one that fails is logged and performed (log entry 27, DEDUCED). -/
def State.saigaSync (s : State) (saiga pa va : Nat) : State :=
  match s.hostCheck (saigaParty saiga) pa with
  | .ok s => s
  | .error r => s.logScope (14 + saiga) pa va r

/-- Read a word of the control block, with an acquire (R419): none where it cannot be read. -/
def State.connRead (s : State) (saiga : Nat) (c : Conn) (off : Nat) : Option (Nat × State) :=
  let va := (c.ctl + off) % 2 ^ 57
  match s.hubXlate c.asid va .load with
  | none => none
  | some pa =>
    if s.poisonAt pa 8 then none
    else
      let s := (s.saigaSync saiga pa va).homeTake saiga pa c.vdev
      some (leNat (s.bytesAt (s.keyOf c.world) pa 8), s)

/-- Write a word of the control block, with a release (R419): nothing where it cannot be written. -/
def State.connWrite (s : State) (saiga : Nat) (c : Conn) (off v : Nat) : State :=
  let va := (c.ctl + off) % 2 ^ 57
  match s.hubXlate c.asid va .store with
  | none => s
  | some pa => (s.saigaSync saiga pa va).homeWrite saiga (s.keyOf c.world) c.vdev s.hostClock pa (leBytes 8 v)

/-- The address of byte k of a stream (R419). -/
def ringAddr (base size k : Nat) : Nat := (base + k % size) % 2 ^ 57

/-- Consecutive bytes of a stream as a Saiga reads them from its send ring (R422). -/
def State.ringBytes (s : State) (c : Conn) (k : Nat) : Nat → Option (List Byte)
  | 0 => some []
  | n + 1 => match s.hubXlate c.asid (ringAddr c.send (ringSize c.sendSize) k) .load with
    | none => none
    | some pa => if s.poisonAt pa 1 then none
      else (s.ringBytes c (k + 1) n).map (fun t => s.byteAt (s.keyOf c.world) pa :: t)

/-- The parts of n stream bytes from index k that stand in one 256-byte line each: index and length. -/
def lineRuns (k n : Nat) : List (Nat × Nat) :=
  ((List.range ((k + n + 255) / 256 - k / 256)).map (fun i =>
    let lo := Nat.max k (256 * (k / 256 + i))
    (lo, Nat.min (k + n) (256 * (k / 256 + i + 1)) - lo))).filter (fun r => decide (0 < r.2))

/-- Write received bytes into the receive ring (R420, R422), one write a line: none where the ring cannot be written. -/
def State.ringWrite (s : State) (saiga : Nat) (c : Conn) (k : Nat) (bs : List Byte) : Option State :=
  let runs := (lineRuns k bs.length).map (fun r =>
    (s.hubXlate c.asid (ringAddr c.recv (ringSize c.recvSize) r.1) .store, (bs.drop (r.1 - k)).take r.2))
  if runs.any (fun r => r.1.isNone) then none
  else some (runs.foldl (fun s r => match r.1 with
    | some pa => s.homeWrite saiga (s.keyOf c.world) c.vdev s.hostClock pa r.2
    | none => s) s)

/-! ## State changes -/

/-- A connection has a new state word: it is written and event 5 is delivered (R419, R423). -/
def State.connState (s : State) (saiga n : Nat) (c : Conn) : State :=
  ((s.setConn saiga n c).connWrite saiga c 0x108 c.state).eventState saiga n c

/-- Set some bits of a state word and its reset reason. -/
def stateWith (state add reason : Nat) : Nat := (state % 256 ||| add) + 256 * (reason % 256)

/-- Overrun: bit 5, a reset to the peer (bit 4), and the connection stops (R421). The reset's reason is no stated value. -/
def State.overrun (s : State) (saiga n : Nat) (c : Conn) : State :=
  let f := s.takeFree
  f.2.connState saiga n { c with state := stateWith c.state 0x30 (Config.freeNat f.1), stopped := true }

/-- An event of a connection that stands, is not stopped, and is of its owner's generation (R394, R424). -/
def onConn (saiga n : Nat) (s : State) (body : Conn → State → State) : Out :=
  .next (match s.conn saiga n with
    | none => s
    | some c => if c.stopped || olderTag c.gen (s.gen c.vdev) then s else body c s)

/-! ## Events -/

/-- The connection of a descriptor (Table 13.4). -/
def connOf (d : List Byte) : Conn :=
  { asid := fieldAt d 0 2, vdev := fieldAt d 2 1, world := fieldAt d 3 1, gen := fieldAt d 4 2, notify := fieldAt d 6 1
    sendSize := bits (fieldAt d 7 1) 3 0, recvSize := bits (fieldAt d 7 1) 7 4, ctl := fieldAt d 8 8, send := fieldAt d 0x10 8
    recv := fieldAt d 0x18 8 }

/-- Whether a descriptor is refused (R418). -/
def connBad (d : List Byte) (c : Conn) : Bool :=
  decide (5 < c.sendSize) || decide (5 < c.recvSize) || decide (32 < c.vdev) || (d.drop 0x20).any (fun b => decide (b ≠ 0))
    || decide (c.ctl % 1024 ≠ 0) || decide (c.send % ringSize c.sendSize ≠ 0) || decide (c.recv % ringSize c.recvSize ≠ 0)

/-- The operating system presents the descriptor of a free slot: it is refused and the slot freed, or its connection opens with the state
word 1 (R418, R419). -/
def State.openConn (s : State) (saiga n : Nat) (desc : List Byte) : State :=
  let c := connOf desc
  if connBad desc c then (s.dropConn saiga n).notify c.notify c.gen (eventWord 5 c.vdev (connId saiga n) 0xF100)
  else (s.showConn saiga n desc).connState saiga n c

/-- CONNECTION_OPEN (R418, R419). A slot that is in use stays as it is. -/
def execConnectionOpen (saiga n : Nat) (desc : List Byte) (s : State) : Out :=
  .next (if 32768 ≤ n ∨ 1 < saiga ∨ (s.conn saiga n).isSome = true then s else s.openConn saiga n desc)

/-- CONNECTION_CLOSE: the connection ends and its slot is free (R417). -/
def execConnectionClose (saiga n : Nat) (s : State) : Out := .next (s.dropConn saiga n)

/-- Send some more bytes of a connection, at most n, as the peer's window allows; a FIN follows the last (R420). -/
def State.sendMore (s : State) (saiga n : Nat) (c : Conn) (most : Nat) : State :=
  let k := Nat.min most (c.stail - c.sent)
  match s.ringBytes c c.sent k with
  | none => s.setConn saiga n c
  | some bs =>
    let c := { c with sent := c.sent + k, wire := if k = 0 then c.wire else c.wire ++ [(c.sent, bs)] }
    if c.fin ∧ c.sent = c.stail ∧ c.state.testBit 1 = false then
      s.connState saiga n { c with state := stateWith c.state 2 (c.state / 256) }
    else s.setConn saiga n c

/-- The version of the send line of a connection, none where it cannot be read (R419). -/
def State.sendLine (s : State) (c : Conn) : Option Nat := (s.hubXlate c.asid c.ctl .load).map (fun pa => (s.line (pa / 256)).wv)

/-- Whether the home slice has a notification of a connection's send line under way: a write of it since the last, or bytes published and
not sent yet (R419, R420). -/
def State.sendDue (s : State) (c : Conn) : Bool :=
  !c.stopped && (decide (c.sent < c.stail) || (match s.sendLine c with | some v => decide (v ≠ c.told) | none => false))

/-- The Saiga reads the send line and finds an overrun (R421), or goes on with what it has read; where the line cannot be read nothing
happens. -/
def State.readSend (s : State) (saiga n : Nat) (c : Conn) (body : Conn → State → State) : State :=
  match s.connRead saiga c 0 with
  | none => s
  | some (stail, s) => match s.connRead saiga c 8 with
    | none => s
    | some (sctl, s) =>
      let c := { c with told := (s.sendLine c).getD c.told }
      if stail < c.stail ∨ c.shead + ringSize c.sendSize < stail ∨ (c.fin = true ∧ sctl % 2 = 0) ∨ 2 ≤ sctl then s.overrun saiga n c
      else body { c with stail := stail, fin := decide (sctl % 2 = 1) } s

/-- SEND_LINE_NOTIFY: the Saiga reads the send line, finds an overrun or sends (R419 to R421). -/
def execSendLineNotify (saiga conn n : Nat) (s : State) : Out :=
  onConn saiga conn s fun c s => s.readSend saiga conn c fun c s => s.sendMore saiga conn c n

/-- A segment's FIN or RST, a free choice of the peer (R419, R421; log entry 27, DEDUCED). -/
def State.peerFlags (s : State) (saiga n : Nat) (c : Conn) : State :=
  let f := s.takeFree
  let g := f.2.takeFree
  let x := Config.freeNat f.1
  if x % 4 = 1 ∧ c.state.testBit 2 = false then
    g.2.connState saiga n { c with state := stateWith c.state 4 (c.state / 256) }
  else if x % 4 = 2 then
    g.2.connState saiga n { c with state := stateWith c.state 8 (Config.freeNat g.1), stopped := true }
  else g.2.setConn saiga n c

/-- Whether a segment of n bytes falls outside the window that a connection advertises, or starts past `rtail`: all of it stands before
`rtail`, or the window is closed (R420; log entry 27, DEDUCED). -/
def Conn.outside (c : Conn) (rhead seq n : Nat) : Bool :=
  decide (c.rtail < seq) || (if n = 0 then decide (seq < c.rtail)
    else decide (seq + n ≤ c.rtail) || decide (rhead + ringSize c.recvSize ≤ c.rtail))

/-- SEGMENT_RECEIVE: in-order bytes within the advertised window are written, then `rtail` is raised (R420, R423); a segment that falls outside
the window is dropped, its flags with it. -/
def execSegmentReceive (saiga conn seq : Nat) (data : List Byte) (s : State) : Out :=
  onConn saiga conn s fun c s =>
    match s.connRead saiga c 0x300 with
    | none => s
    | some (rhead, s) =>
      if rhead < c.rhead ∨ c.rtail < rhead then s.overrun saiga conn c
      else
        let c := { c with rhead := rhead }
        let bs := (data.drop (c.rtail - seq)).take (rhead + ringSize c.recvSize - c.rtail)
        if c.outside rhead seq data.length then s.setConn saiga conn c
        else if bs.isEmpty then s.peerFlags saiga conn c
        else match s.ringWrite saiga c c.rtail bs with
          | none => s.setConn saiga conn c
          | some s =>
            let c := { c with rtail := c.rtail + bs.length }
            ((s.connWrite saiga c 0x200 c.rtail).eventTail saiga conn c).peerFlags saiga conn c

/-- ACK_RECEIVE: bytes sent are acknowledged, and `shead` is raised (R420). -/
def execAckReceive (saiga conn upto : Nat) (s : State) : Out :=
  onConn saiga conn s fun c s =>
    if c.shead < upto ∧ upto ≤ c.sent then
      let c := { c with shead := upto }
      (s.setConn saiga conn c).connWrite saiga c 0x100 upto
    else s

/-- RETRANSMISSION: the send line is read again, then the bytes sent and not acknowledged are read again from the ring and sent again
(R421). -/
def execRetransmission (saiga conn : Nat) (s : State) : Out :=
  onConn saiga conn s fun c s => s.readSend saiga conn c fun c s =>
    match s.ringBytes c c.shead (c.sent - c.shead) with
    | none => s.setConn saiga conn c
    | some bs => s.setConn saiga conn (if bs.isEmpty then c else { c with wire := c.wire ++ [(c.shead, bs)] })

end Sys2Proof.Machine
end

