-- ==== Sys2Proof/Machine/Traps.lean ====
section
/-! DEFINITION. The events of a running core: trap entry, reports and Foulo's choices, asynchronous events, the watchdog, landing
results, windows, the warp former, table walks and writes at their owner; and the kill of a context (R140 to R153, R184, R187,
R190, R209, R221, R377 to R395, R424). -/

namespace Sys2Proof.Machine

/-- What a warp and its workgroup do to the state: nothing where no such warp exists. -/
def State.withWarp (s : State) (id : Nat) (body : Warp → Wg → State) : State :=
  match Table.find id s.warps with
  | none => s
  | some w => match Table.find w.wg s.wgs with
    | none => s
    | some g => body w g

/-- A meaning for a warp and its workgroup. -/
def onWarp (id : Nat) (s : State) (body : Warp → Wg → State) : Out := .next (s.withWarp id body)

/-! ## Trap entry and reports (R378, R381, R383) -/

/-- TRAP_ENTRY: a precise cause of a running warp that R378 routes to the handler. -/
def execTrapEntry (id : Nat) (c : CauseInfo) (s : State) : Out :=
  onWarp id s fun w g =>
    if g.status = .running ∧ w.sync.isNone = true ∧ causeAsync c = false ∧ routeOf w g (s.trapDesc g) c = .handler then s.enterTrap id c
    else s

/-- FOULO_REPORT: a precise cause of a running warp that R378 routes to Foulo or to the debugger. -/
def execFouloReport (id : Nat) (c : CauseInfo) (s : State) : Out :=
  onWarp id s fun w g =>
    let r := routeOf w g (s.trapDesc g) c
    if g.status = .running ∧ w.sync.isNone = true ∧ causeAsync c = false ∧ r ≠ .handler then s.report id c (decide (r = .debugHalt))
    else s

/-- A choice for the workgroup that a warp's report has halted (R383, R392). -/
def onReport (id : Nat) (s : State) (body : Warp → Wg → State) : Out :=
  onWarp id s fun w g => if (g.status = .reported ∨ g.status = .debug) ∧ g.reportWarp = id then body w g else s

/-- The workgroup runs on. -/
def State.runOn (s : State) (gid : Nat) : State := (s.modWg gid (fun g => { g with status := .running })).thaw gid

/-- FOULO_RESUME: the warp re-issues the instruction at `sr.epc` (R383). -/
def execFouloResume (id : Nat) (s : State) : Out :=
  onReport id s fun w _ => (s.modWarp id (fun w => { w with pc := w.epcAddr, wait := .none })).runOn w.wg

/-- FOULO_DELIVER: steps 3 and 4 of trap entry; a double trap cannot be delivered (R383). -/
def execFouloDeliver (id : Nat) (s : State) : Out :=
  onReport id s fun w g =>
    if w.trap then s else (s.modWarp id (fun w => w.enterHandler (s.trapDesc g).tbase)).runOn w.wg

/-- FOULO_SAVE: the context is saved as at an urgent halt, once the work it has issued is complete (R383, R387); a cooperative kernel,
which never runs partly resident, is halted and saved whole (R369). -/
def execFouloSave (id : Nat) (s : State) : Out :=
  onWarp id s fun w g =>
    if (g.status = .reported ∨ g.status = .debug ∨ g.status = .halting) ∧ g.reportWarp = id then
      let coop := match Table.find g.pkt s.pkts with | some p => p.coop | none => false
      let gids := if coop then ((s.pktWgs g.pkt).filter (fun e => e.2.status != .retiring)).map Prod.fst else [w.wg]
      let s := gids.foldl (fun s i => s.urgentHalt i) s
      if gids.all (fun i => match Table.find i s.wgs with | some g => s.haltDone i g | none => true) then
        gids.foldl (fun s i => s.saveWg i) s
      else s
    else s

/-- FOULO_TERMINATE: the workgroup ends as though by `WGABORT` (R383, R404). -/
def execFouloTerminate (id : Nat) (s : State) : Out := onReport id s fun w _ => s.abortWg w.wg

/-! ## Asynchronous events and the watchdog (R384, R386) -/

/-- Whether a warp stands at an instruction boundary (R384; log entry 13, DEDUCED): no instruction of it is under way but a `JWAIT` that
waits; a `BSYNC` and an `ALIGN` have issued when they have arrived. -/
def Warp.atEdge (w : Warp) (g : Wg) : Bool :=
  !w.trap && !w.window && w.bsync.isNone && w.btOp.isNone && w.bankOp.isNone
    && (match w.sync with | none => true | some r => r.kind == .jwait && r.seen.isSome)
    && !(w.wait == .align && (match g.win with | some x => bitOf x.arrived w.idx && !x.running | none => false))

/-- ASYNC_EVENT_DELIVERY: the oldest pending event of a warp enters its handler (R384). -/
def execAsyncEventDelivery (id : Nat) (s : State) : Out :=
  onWarp id s fun w g =>
    match w.async with
    | [] => s
    | c :: rest =>
      if g.status = .running ∧ w.atEdge g = true then
        (s.modWarp id (fun w => { w with async := rest, sync := none })).enterTrap id c
      else s

/-- Whether the watchdog counts a workgroup's warps (Table 12.4). -/
def Wg.watched (g : Wg) : Bool := g.status == .running || g.status == .reported || g.status == .retiring

/-- One more tick of a count, which stops at its limit until the watchdog has taken it. -/
def tickTo (limit n : Nat) : Nat := if limit ≠ 0 ∧ limit ≤ n then n else n + 1

/-- REFERENCE_TICK: a chiplet's stall and operator counts advance (R386). -/
def execReferenceTick (chip : Nat) (s : State) : Out :=
  let mine := s.wgs.filter (fun e => decide (coreChip e.2.core = chip) && e.2.watched)
  .next (mine.foldl (fun s e =>
    let d := s.trapDesc e.2
    let any := s.warps.any (fun w => decide (w.2.wg = e.1))
    let ws : Table Warp := Table.mapVals (fun w => if w.wg ≠ e.1 then w
      else if w.issued then { w with issued := false } else { w with stall := tickTo d.stall w.stall }) s.warps
    if any then State.modWg { s with warps := ws } e.1 (fun g => { g with opCount := tickTo d.oplim g.opCount }) else s) s)

/-- WATCHDOG_STALL: a warp's stall count has reached its limit (R386). -/
def execWatchdogStall (id : Nat) (s : State) : Out :=
  onWarp id s fun w g =>
    let lim := (s.trapDesc g).stall
    if g.watched && decide (lim ≠ 0) && decide (lim ≤ w.stall) then
      (s.modWarp id (fun w => { w with stall := 0 })).raiseAsync id (causeVal 0x30 0 (BitVec.ofNat 32 w.stall))
    else s

/-- WATCHDOG_OPERATOR: a workgroup's operator count has reached its limit: one report, and the event in each of its warps
(R384, R386). -/
def execWatchdogOperator (gid : Nat) (s : State) : Out :=
  .next (match Table.find gid s.wgs with
    | none => s
    | some g =>
      let d := s.trapDesc g
      if g.watched && decide (d.oplim ≠ 0) && decide (d.oplim ≤ g.opCount) then
        let c := causeVal 0x30 1 (BitVec.ofNat 32 g.opCount)
        let s := s.modWg gid (fun g => { g with opCount := 0 })
        let s := s.modHub (coreHub g.core) (fun h => { h with reports := h.reports ++ [⟨0x30, 1, gid, 2 ^ 32, 0⟩] })
        if d.valid && d.deleg.testBit 0x30 then (s.wgWarps gid).foldl (fun s e => s.modWarp e.1 (fun w => w.hold c)) s else s
      else s)

/-! ## Landing results (R190, R209) -/

/-- Land the outstanding result i of a warp; one that reads a switching bank waits (R205). -/
def State.landAt (s : State) (id i : Nat) (token : Bool) : State :=
  match Table.find id s.warps with
  | none => s
  | some w => match w.pend[i]? with
    | none => s
    | some p =>
      if p.token.isSome ≠ token ∨ p.loads.any (fun l => l.value.isNone && s.inSwitch l.loc) = true then s
      else (s.modWarp id (fun w => { w with pend := listDel i w.pend })).landPending id p

/-- RESULT_LANDING (R190, R191). -/
def execResultLanding (id i : Nat) (s : State) : Out := .next (s.landAt id i false)

/-- LDA_LANDING: the destination and the token are written together (R209). -/
def execLdaLanding (id i : Nat) (s : State) : Out := .next (s.landAt id i true)

/-! ## Windows (R148, R149, R153) -/

/-- The warps of a workgroup that wait in an `ALIGN` and are named by a mask. A formed warp has its origin's `sr.warp` (R143), and the
spec does not say which of the two a mask bit names: the `ALIGN` of either sets it, and every warp of that number that waits takes part
(log entry 36, DESIGN CHOICE). -/
def State.aligned (s : State) (gid : Nat) (mask : Mask) : List (Nat × Warp) :=
  (s.wgWarps gid).filter (fun e => bitOf mask e.2.idx && e.2.wait == .align)

/-- A window starts: every participant has arrived, and the fourth core cycle after the last `ALIGN` has passed; each `ALIGN` counts as
issued in window cycle 0 (R148), and has then completed (R392). A participant in trap mode holds the window frozen until it returns
(R150). -/
def State.startWindow (s : State) (gid : Nat) : State :=
  match Table.find gid s.wgs with
  | none => s
  | some g => match g.win with
    | none => s
    | some x =>
      let ws := s.aligned gid x.mask
      if x.running || decide (g.status ≠ .running) || decide (x.arrived ≠ x.mask) || decide (x.startIn ≠ 0)
          || !(lanes.all (fun i => !bitOf x.mask i || ws.any (fun e => decide (e.2.idx = i)))) then s
      else
        let s := ws.foldl (fun s e => s.modWarp e.1 (fun w => { w with
          pc := w.next, window := true, lastWc := 0, wait := .none, issued := true, stall := 0 })) s
        let s := (s.count gid 1 ws.length).modWg gid (fun g => { g with
          win := some { x with running := true, cycle := 1, inside := x.mask, frozen := ws.any (fun e => e.2.trap) } })
        ws.foldl (fun s e => s.stepEvent ⟨e.1, e.2, g, 0⟩) s

/-- WINDOW_START (R148). -/
def execWindowStart (gid : Nat) (s : State) : Out := .next (s.startWindow gid)

/-- WINDOW_RESUME: a frozen window whose causes have all cleared goes on at its cycle (R149). -/
def execWindowResume (gid : Nat) (s : State) : Out := .next (s.thaw gid)

/-- WINDOW_END: every participant has left, a formed warp as well as its origin (log entry 36), and every result issued in the window has
landed (R153). -/
def execWindowEnd (gid : Nat) (s : State) : Out :=
  .next (match Table.find gid s.wgs with
    | none => s
    | some g => match g.win with
      | none => s
      | some x =>
        if x.running && decide (x.inside = 0) && decide (g.status = .running) && !(s.wgWarps gid).any (fun e => e.2.window) then
          let s := (s.wgWarps gid).foldl (fun s e =>
            s.modWarp e.1 (fun w => w.landDue (maxNat (w.landing.map Landing.due)))) s
          s.modWg gid (fun g => { g with win := none })
        else s)

/-! ## The warp former (R142, R143) -/

/-- The key under which a core keeps when a bin of a workgroup last received an entry. -/
def binClock (gid bin : Nat) : Nat := gid * 2 ^ 80 + bin

/-- Whether a bin of a workgroup has received no entry for 256 cycles of its core (R142). -/
def Core.binOld (c : Core) (gid bin : Nat) : Bool := decide (Table.get 0 (binClock gid bin) c.pace.bins + 256 ≤ c.pace.now)

/-- BIN_TIMEOUT: a bin has received no entry for 256 cycles (R142). -/
def execBinTimeout (gid bin : Nat) (s : State) : Out :=
  .next (s.modWg gid (fun g => if g.status = .running ∧ g.pond.any (fun e => decide (e.bin = bin)) = true
      ∧ (s.core g.core).binOld gid bin = true then
    { g with binWait := Table.ins bin 1 g.binWait } else g))

/-- The ready bins of a core with the arrival of their oldest entry, oldest first (R142): arrival, workgroup, bin. -/
def State.readyBins (s : State) (core : Nat) : List (Nat × Nat × Nat) :=
  let bins := (s.resident core).flatMap (fun e =>
    if e.2.status ≠ .running then [] else (dedup (e.2.pond.map PondEntry.bin)).filterMap (fun b =>
      let es := e.2.pond.filter (fun p => decide (p.bin = b))
      if 32 ≤ es.length ∨ Table.get 0 b e.2.binWait = 1 then some ((es.map PondEntry.arrival).head?.getD 0, e.1, b) else none))
  sortBy (fun a b => decide (a.1 ≤ b.1)) bins

/-- The registers of a formed warp (R143): saved values in the lanes that saved them, and the origin words in the top register
of the budget. -/
def formedRegs (budget : Nat) (es : List PondEntry) : Table RegVal :=
  let saved := fun (l r : Nat) => (es[l]?).bind (fun (e : PondEntry) => (e.regs.find? (fun x => decide (x.1 = r))).map Prod.snd)
  let live := dedup (es.flatMap (fun e => e.regs.map Prod.fst))
  let t : Table RegVal := live.foldl (fun t r => Table.put RegVal.zero r ⟨.general,
    laneBuild (fun l => match saved l r with | some v => v.1 | none => 0),
    maskOf (fun l => match saved l r with | some v => v.2 | none => false)⟩ t) []
  Table.put RegVal.zero (budget - 1) ⟨.general,
    laneBuild (fun l => match es[l]? with | some e => BitVec.ofNat 32 (e.lane + 32 * e.warpIdx) | none => 0), 0⟩ t

/-- The number within its role of a warp index (R356). -/
def roleIndex (roles : List RoleEntry) (role idx : Nat) : Nat := idx - (roles.take role).foldl (fun n r => n + r.warps) 0

/-- Form a warp from a bin, on a group (R143). -/
def State.formWarp (s : State) (gid bin group : Nat) : State :=
  match Table.find gid s.wgs with
  | none => s
  | some g =>
    let es := (g.pond.filter (fun p => decide (p.bin = bin))).take 32
    match es with
    | [] => s
    | e :: _ =>
      let w : Warp := {
        wg := gid, idx := e.warpIdx, role := e.role, roleIdx := roleIndex g.roles e.role e.warpIdx, budget := e.budget,
        group := group, pc := BitVec.ofNat 57 e.resume, exm := BitVec.ofNat 32 (2 ^ es.length - 1), spawned := true,
        loops := e.loops, prio := e.prio, regs := formedRegs e.budget es }
      let rest := g.pond.filter (fun p => !es.contains p)
      let g' := { g with
        pond := rest
        binWait := if rest.any (fun p => decide (p.bin = bin)) then g.binWait else Table.del bin g.binWait }
      let id := s.warpSeq
      let s := { (s.setWg gid g') with warps := Table.ins id w s.warps, warpSeq := id + 1 }
      (s.count gid 13 1).acquire id g' 7

/-- WARP_FORM: the oldest ready bin whose warp finds a group with room forms (R142). -/
def execWarpForm (core : Nat) (s : State) : Out :=
  let u := s.coreUse core
  .next (match (s.readyBins core).findSome? (fun b => (pickGroup u.warps u.regs (b.2.2 % 512)).map (fun k => (b, k))) with
    | some (b, k) => s.formWarp b.2.1 b.2.2 k
    | none => s)

/-! ## Table walks and writes at their owner (R184, R187, R221) -/

/-- TRANSLATION_WALK: a core translates an address, walking the tables where its caches miss (R184). -/
def execTranslationWalk (core : Nat) (fetch : Bool) (asid va : Nat) (acc : AccessKind) (s : State) : Out :=
  .next (s.xlate core fetch asid (va % 2 ^ 57) acc s.wgSeq).2

/-- WRITE_AT_OWNER: a pending write of a core is performed at the owner of its line (R221). -/
def execWriteAtOwner (core i : Nat) (s : State) : Out := .next (s.performAt core i)

/-- Whether an invalidation removes a translation cache entry (R187): 0 a page, 1 an address space, 2 everything. -/
def TlbEntry.matches (e : TlbEntry) (scope asid va : Nat) : Bool :=
  decide (2 ≤ scope) || (decide (e.asid = asid) && (decide (scope = 1) || (decide (e.page ≤ va) && decide (va < e.page + e.size))))

/-- Whether an invalidation removes a walk cache entry (R187). -/
def WalkEntry.matches (e : WalkEntry) (scope asid va : Nat) : Bool :=
  decide (2 ≤ scope) || (decide (e.asid = asid) && (decide (scope = 1) || decide (e.key = va / 2 ^ levelLow e.level)))

/-- Remove the matching entries of a core's four caches. -/
def Core.invalidate (c : Core) (scope asid va : Nat) : Core :=
  { c with
    dtlb := c.dtlb.filter (fun e => !e.matches scope asid va), dwalk := c.dwalk.filter (fun e => !e.matches scope asid va)
    ftlb := c.ftlb.filter (fun e => !e.matches scope asid va), fwalk := c.fwalk.filter (fun e => !e.matches scope asid va) }

end Sys2Proof.Machine
end

