-- ==== Sys2Proof/Machine/Kill.lean ====
section
/-! DEFINITION. The kill of a context and the reset of a virtual function, translation invalidation and Foulo's bank switches (R176,
R187, R205, R394, R395, R424, R458). -/

namespace Sys2Proof.Machine

/-! ## Leaving engine operations undone -/

/-- A table operation whose block copy is stopped changes nothing: D is clear again and the block taken for it leaves use (log entry
28). -/
def State.undoBt (s : State) (b : BtStep) : State :=
  match s.btTable b.table with
  | none => s.looseBlock b.hub b.table b.newBlock b.tier
  | some (_, d) =>
    let es := match b.kind with | .move => s.ring d b.entry | _ => [b.entry]
    (s.btEach d es (fun e => { e with d := false })).looseBlock b.hub b.table b.newBlock b.tier

/-- Stop the engine operations, matrix commands, follow-ons and pending writes of a core whose workgroups satisfy a test, and free
their range locks. -/
def State.stopEngines (s : State) (core : Nat) (p : Nat → Bool) : State :=
  let c := s.core core
  let ops := c.ops.filter (fun o => p o.wg)
  let s := ops.foldl (fun s o => match o.bt with | some b => s.undoBt b | none => s) s
  s.modCore core (fun c => { c with
    copyQ := c.copyQ.filter (fun o => !p o.wg), drainQ := c.drainQ.filter (fun o => !p o.wg)
    locks := c.locks.filter (fun k => !ops.any (fun o => decide (o.id = k.op)))
    matQ := c.matQ.filter (fun m => !p m.wg), followWait := c.followWait.filter (fun f => !p f.2.1)
    writes := c.writes.filter (fun w => !p w.wg) })

/-! ## Context kill (R395, R424) -/

/-- The warps of a virtual device end unsaved, and its workgroups wait for the drain (R395 steps 1 and 2). -/
def State.killWarps (s : State) (v : Nat) : State :=
  let mine := s.wgs.filter (fun e => decide (e.2.vdev = v))
  let s := mine.foldl (fun s e => s.awaitedGone e.1 false) s
  { s with
    warps := s.warps.filter (fun w => !mine.any (fun e => decide (e.1 = w.2.wg)))
    wgs := Table.mapVals (fun g => if g.vdev ≠ v then g else { g with
      status := if g.stands then .retiring else .retired, aborted := true, win := none, pond := [], binWait := [], barPend := [] }) s.wgs }

/-- A generation advances (R395 step 3): older scope-checker records are lost and the tenant register is zeroed (R239, R458). -/
def State.advanceGen (s : State) (v : Nat) : State :=
  let t := s.tenant v
  let s := s.setTenant v { t with
    gen := (t.gen + 1) % 2 ^ 16, killing := true, advanced := true, acks := [], reg := List.replicate 64 0, digests := [] }
  s.dropRecs (fun e => decide (e.2.party.vdev = v))

/-- The context of a virtual device is killed; a kill under way is not begun again (R394, R428). -/
def State.contextKill (s : State) (v : Nat) : State :=
  if (s.tenant v).killing ∨ 31 < v then s
  else ((s.killWarps v).advanceGen v).modHub 0 (fun h => { h with kill := BitVec.ofNat 64 (2 ^ 63 + v) })

/-- CONTEXT_KILL (R395, R424). -/
def execContextKill (vdev : Nat) (s : State) : Out := .next (s.contextKill vdev)

/-- FOULO_KILL: the tenant's context is killed (R383). -/
def execFouloKill (id : Nat) (s : State) : Out := onReport id s fun _ g => s.contextKill g.vdev

/-- A chiplet's part of a drain (R395 step 4): engine operations stop, allocations are cleared, the banks granted to the device among
them. -/
def State.drainChip (s : State) (v chip : Nat) : State :=
  let gids := (s.wgs.filter (fun e => decide (e.2.vdev = v))).map Prod.fst
  let cores := (s.cores.filter (fun e => decide (coreChip e.1 = chip))).map Prod.fst
  let s := cores.foldl (fun s c => s.stopEngines c gids.contains) s
  let here := (s.wgs.filter (fun e => decide (e.2.vdev = v) && decide (coreChip e.2.core = chip))).map Prod.fst
  let s := here.foldl (fun s g => s.releaseWg g) s
  let banks := s.banks.filter (fun e => decide (e.1 / 256 / 8 = chip) && decide (e.2.mode ≠ 0) && decide (e.2.vdev.toNat = v))
  banks.foldl (fun s e => (s.clearRange (2 ^ 56 + e.1 * 2 ^ 17) (2 ^ 17)).setBank e.1 { e.2 with fifo := [] }) s

/-- The I/O cores of a Kudu that hold a queue or a connection of a virtual device. -/
def State.eventHolders (s : State) (v kudu : Nat) : List Nat :=
  let qs := [0, 1].flatMap (fun h => (s.hub h).queues.filterMap (fun q => if q.2.vdev = v then q.2.bound else none))
  let cs := [0, 1].flatMap (fun h => (s.hub h).conns.filterMap (fun c => if c.2.vdev = v then notifyHart c.2.notify else none))
  dedup ((qs ++ cs).filter (fun n => decide (hartKudu n = kudu)))

/-- A Kudu's part (R424): older events of the device go, and event 6 comes; its identifier field is no stated value. -/
def State.drainKudu (s : State) (v kudu : Nat) : State :=
  let f := s.takeFree
  let s := f.2
  let s := s.harts.foldl (fun s e => if hartKudu e.1 ≠ kudu then s else s.setHart e.1 { e.2 with
    events := e.2.events.filter (fun x => decide (bits x.1.toNat 59 54 ≠ v) || decide (bits x.1.toNat 63 60 = 7)
      || !olderTag x.2 (s.gen v)) }) s
  (s.eventHolders v kudu).foldl (fun s n => s.setHart n ((s.hartOf n).put (eventWord 6 v (Config.freeNat f.1) (s.gen v), s.gen v))) s

/-- A Saiga's part (R424): each connection of the device is reset, its state word written, and removed. -/
def State.drainSaiga (s : State) (v saiga : Nat) : State :=
  ((s.hub saiga).conns.filter (fun e => decide (e.2.vdev = v))).foldl (fun s e =>
    let f := s.takeFree
    let st := stateWith e.2.state 0x10 (Config.freeNat f.1)
    (f.2.connState saiga e.1 { e.2 with state := st - st % 2 }).dropConn saiga e.1) s

/-- Whether a chiplet is enumerated. -/
def State.enumerated (s : State) (chip : Nat) : Bool :=
  decide ((Table.get {} (chipPort chip) (s.hub (chipHub chip)).ports).state = .running)

/-- KILL_ACK: a unit, a chiplet 0 to 15 or a hub 16 or 17, has drained the older generation and acknowledges (R395 step 4). The
Saigas finish after the Kudus (log entry 28, DEDUCED). -/
def execKillAck (vdev unit : Nat) (s : State) : Out :=
  let t := s.tenant vdev
  if !t.killing || t.acks.contains unit || decide (17 < unit) then .next s
  else if 14 ≤ unit ∧ unit < 16 ∧ ([12, 13].any (fun k => s.enumerated k && !t.acks.contains k)) = true then .next s
  else
    let s := if unit < 12 then s.drainChip vdev unit
      else if unit < 14 then s.drainKudu vdev (unit - 12)
      else if unit < 16 then s.drainSaiga vdev (unit - 14) else s
    .next (s.setTenant vdev { (s.tenant vdev) with acks := t.acks ++ [unit] })

/-- Whether every hub and every enumerated chiplet has acknowledged. -/
def State.allAcked (s : State) (v : Nat) : Bool :=
  (List.range 18).all (fun u => (s.tenant v).acks.contains u || (decide (u < 16) && !s.enumerated u))

/-- The packets published in a queue of a killed device and not yet taken complete KILLED in order, as far as its ring can be read (R395,
R424). -/
def State.killQueued (s : State) (hub q : Nat) : Nat → State
  | 0 => s
  | n + 1 =>
    let x := s.queue hub q
    let va := x.packetVa x.read
    match s.hubXlate x.asid va .load, s.hubBytes x.asid va 64 with
    | some pa, some bs =>
      if x.write ≤ x.read ∨ fieldAt bs 0 1 = 0 then s
      else State.killQueued ((s.clearSlot hub q pa).tellPkt (packetOf hub q x.read x (s.gen x.vdev) bs) 6) hub q n
    | _, _ => s

/-- KILL_DRAIN_COMPLETE: each packet of the device completes KILLED, those taken and those still in its rings (R395 step 5, R424). -/
def execKillDrainComplete (vdev : Nat) (s : State) : Out :=
  let t := s.tenant vdev
  if !t.killing || !s.allAcked vdev then .next s
  else
    let mine := s.pkts.filter (fun e => decide (e.2.vdev = vdev))
    let s := mine.foldl (fun s e =>
      let slots := (s.hub e.2.hub).slots.filter (fun x => decide (x.2.pkt = e.1) && (x.2.state == .active || x.2.state == .held))
      let s := slots.foldl (fun s x => s.modSlot e.2.hub x.1 (fun x => { x with state := .done })) s
      s.completePkt e.1 e.2 6) s
    let s := [0, 1].foldl (fun s hub => ((s.hub hub).queues.filter (fun e => decide (e.2.vdev = vdev))).foldl (fun s e =>
      s.killQueued hub e.1 (e.2.write - e.2.read)) s) s
    let s := s.setTenant vdev { (s.tenant vdev) with killing := false, advanced := false, acks := [] }
    .next (s.modHub 0 (fun h => { h with kill := if bits h.kill.toNat 5 0 = vdev then h.kill &&& 0x7FFFFFFFFFFFFFFF#64 else h.kill }))

/-! ## Translation invalidation (R187, Table 14.5) -/

/-- TLB_INVALIDATE: the matching entries of every core's caches go; scope 3 names nothing. -/
def execTlbInvalidate (hub scope asid va : Nat) (s : State) : Out :=
  let s := s.modHub hub (fun h => { h with
    invalidate := BitVec.ofNat 64 (scope % 4 * 2 ^ 61 + va % 2 ^ 57), invalidateAsid := BitVec.ofNat 64 (asid % 2 ^ 16) })
  .next (if scope < 3 then { s with cores := Table.mapVals (fun c => c.invalidate scope asid va) s.cores } else s)

/-! ## Foulo's bank switches (R176, R177, R205) -/

/-- What a value of a bank control register asks for (Table 06.3). -/
def bankTarget (v : Word) : BankSwitch :=
  ⟨v.setWidth 2, BitVec.ofNat 2 (bits v.toNat 27 26), BitVec.ofNat 8 (bits v.toNat 23 16), BitVec.ofNat 6 (bits v.toNat 13 8)⟩

/-- The control register of a bank is written (R176): nothing changes for the same mode, owner and world; else the bank switches by
the steps of R205, behind a switch already under way. -/
def State.writeBank (s : State) (b : Nat) (v : Word) : State :=
  let old := s.bank b
  let x := bankTarget v
  if old.switching.isEmpty && decide (old.mode = x.mode ∧ old.world = x.world ∧ old.vdev = x.vdev ∧ (old.mode ≠ 3 ∨ old.core = x.core)) then
    s.setBank b { old with core := x.core }
  else (s.beginSwitch b x).endSwitch b

/-- BANK_CONTROL_WRITE: Foulo writes a bank's control register; the write completes when the bank has taken its new state (R176). -/
def execBankControlWrite (chip cluster bank : Nat) (value : Word) (s : State) : Out :=
  if 12 ≤ chip ∨ 8 ≤ cluster ∨ kindBanks (chipKind chip) ≤ bank then .next s
  else .next (s.writeBank ((chip * 8 + cluster) * 256 + bank) value)

end Sys2Proof.Machine
end

