-- ==== Sys2Proof/Machine/Package.lean ====
section
/-! DEFINITION. The package: ports and isolation, links, control loops, scrub, power, deep sleep, block-table and pool descriptors,
the errors that checks find, and remote requests (R429 to R452, R475, R478). -/

namespace Sys2Proof.Machine

/-! ## Ports (R431 to R434) -/

/-- A port of a hub. -/
def State.port (s : State) (hub p : Nat) : Port := Table.get {} p (s.hub hub).ports

/-- Change a port of a hub. -/
def State.modPort (s : State) (hub p : Nat) (f : Port → Port) : State :=
  s.modHub hub (fun h => { h with ports := Table.put {} p (f (Table.get {} p h.ports)) h.ports })

/-- CRC-32 with the IEEE 802.3 polynomial (Table 14.2). -/
def crc32 (bs : List Byte) : Nat :=
  (bs.foldl (fun c b => (List.range 8).foldl (fun c _ => if c % 2 = 1 then c / 2 ^^^ 0xEDB88320 else c / 2) (c ^^^ b.toNat))
    0xFFFFFFFF) ^^^ 0xFFFFFFFF

/-- Whether a port's capability entry passes its check (R431). -/
def capGood (hub p : Nat) (cap : List Byte) : Bool :=
  decide (cap.length = 32) && decide (fieldAt cap 0 1 = chipKind (portChip hub p))
    && decide (fieldAt cap 0x1C 4 = crc32 (cap.take 28))

/-- The coherence class of Table 01.1. -/
def tableClass (chip : Nat) : Nat := if chipKind chip = 3 ∨ chipKind chip = 4 then 1 else 0

/-- LINK_TRAINED: a training port's capability entry is copied and checked; a good one is assigned its record, and its
enumeration is measured (R431, R432, R434, R457). Queue base, register base and the place of the shadow region in its hub's HBM4 are no
stated values. -/
def execLinkTrained (hub port : Nat) (cap : List Byte) (s : State) : Out :=
  let p := s.port hub port
  if 8 ≤ port ∨ 2 ≤ hub ∨ p.state ≠ .training then .next s
  else if !capGood hub port cap then .next (s.modPort hub port (fun p => { p with state := .refused, cap := cap, up := true }))
  else
    let chip := portChip hub port
    let inc := (p.inc + 1) % 2 ^ 16
    let cls := p.demote.getD (tableClass chip)
    let f := s.takeFree
    let s := f.2.modPort hub port (fun p => { p with
      state := .assigned, cap := cap, up := true, inc := inc, cls := cls, attempts := 0, qcount := fieldAt cap 0x18 2
      qbase := Config.freeNat f.1 % 2 ^ 16, regbase := BitVec.ofNat 64 (Config.freeNat f.1 / 2 ^ 16)
      shadow := BitVec.ofNat 64 (hub * 0x6000000000 + Config.freeNat f.1 / 2 ^ 80 % 2 ^ 29 * 256) })
    let s := s.setChip chip { (s.chip chip) with cls := cls }
    .next (s.measure 6 (cap ++ leBytes 2 inc))

/-- TRAINING_FAIL: after three failed attempts the port goes down (Table 14.4). -/
def execTrainingFail (hub port : Nat) (s : State) : Out :=
  .next (if (s.port hub port).state = .training then s.modPort hub port (fun p =>
      if 2 ≤ p.attempts then { p with state := .down, attempts := 0 } else { p with attempts := p.attempts + 1 })
    else s)

/-- CHIPLET_ACK: an assigned port runs (Table 14.4). -/
def execChipletAck (hub port : Nat) (s : State) : Out :=
  .next (if (s.port hub port).state = .assigned then s.modPort hub port (fun p => { p with state := .running }) else s)

/-- A running port goes to isolating (Table 14.4); `command` says that Foulo's command makes it. -/
def State.isolate (s : State) (hub port : Nat) (command : Bool) : State :=
  if (s.port hub port).state = .running then s.modPort hub port (fun p => { p with state := .isolating, command := command }) else s

/-- ISOLATE_COMMAND (R434). -/
def execIsolateCommand (hub port : Nat) (s : State) : Out := .next (s.isolate hub port true)

/-- LINK_DOWN (R434). -/
def execLinkDown (hub port : Nat) (s : State) : Out :=
  .next ((s.isolate hub port false).modPort hub port (fun p => { p with up := false }))

/-- CHIPLET_FATAL_ERROR: logged as fatal to the chiplet (R434, Table 14.6). -/
def execChipletFatalError (hub port : Nat) (s : State) : Out :=
  .next (if (s.port hub port).state = .running then
      (s.isolate hub port false).logEvent hub (LogEntry.mk0 3 (portChip hub port))
    else s)

/-- A chiplet's reset begins its count of cycles anew (R53). -/
def State.zeroCycles (s : State) (chip : Nat) : State := s.setChip chip { (s.chip chip) with cyc := 0 }

/-- PORT_RESET_COMMAND: an isolated or refused port goes down, and a port that is down trains again, its link's state cleared; the ports
of a hub whose boot failed stay down (R434, R457, Table 14.4; log entry 29, DEDUCED). -/
def execPortResetCommand (hub port : Nat) (s : State) : Out :=
  let st := (s.port hub port).state
  .next (if (st = .isolated ∨ st = .refused ∨ st = .down) ∧ (s.hub hub).bootFailed = false then
      (s.zeroCycles (portChip hub port)).modPort hub port (fun p => { p with
        state := .training, command := false, resets := p.resets + 1, attempts := 0, up := false, narrow := 0, crc := 0, replays := 0,
        suspended := 0, retrain := 0, crcWindow := [], toHub := {}, toChip := {} })
    else s)

/-! ## Isolation (R435, R475) -/

/-- The world a line is sealed for. -/
def State.lineWorld (s : State) (line : Nat) : Nat := Table.get 0 (line * 16) s.seals % 256

/-- The virtual device that allocated a line at its home slice, or 0. -/
def State.lineVdev (s : State) (line : Nat) : Nat :=
  match s.llc.find? (fun e => decide (e.2.line = line)) with | some e => e.2.vdev | none => 0

/-- Keep the good copies that other clusters share of a line whose owner is lost. -/
def State.keepShared (s : State) (line : Nat) : State :=
  (s.holders line).foldl (fun s e => (List.range 4).foldl (fun s i =>
    let w := s.lineWorld line
    let f := s.sectorAt w (line * 256 + 64 * i)
    { s with ccopies := Table.ins (ccopyKey (e.1 % 128) (line * 4 + i) w) ⟨f.bytes, f.poison, f.wv, 0⟩ s.ccopies }) s) s

/-- All four sectors of a line are poisoned at the home and logged once as met on a chiplet (R435, R484). -/
def State.poisonLine (s : State) (hub : Nat) (e : LogEntry) (line : Nat) : State :=
  let s := (List.range 4).foldl (fun s i => s.setPoison (line * 4 + i) true) (s.keepShared line)
  s.logEvent hub { e with pa := line * 256, vdev := s.lineVdev line, world := s.lineWorld line }

/-- The virtual address under which a chiplet holds a line: that of the first entry of its cores' translation caches that maps it, or 0
(log entry 29, DEDUCED). -/
def State.lineVa (s : State) (chip line : Nat) : Nat :=
  ((s.cores.filter (fun e => decide (coreChip e.1 = chip))).findSome? (fun e => e.2.dtlb.findSome? (fun t =>
    if t.frame ≤ line * 256 ∧ line * 256 < t.frame + t.size then some (t.page + (line * 256 - t.frame)) else none))).getD 0

/-- Step 3 for one line: the chiplet's holdings end; a line it held Modified or Owned is poisoned at the home. -/
def State.loseLine (s : State) (chip line : Nat) : State :=
  let mine := fun (e : Nat × Moesi) => decide (e.1 % 128 / 8 = chip)
  let bad := (s.holders line).any (fun e => mine e && (e.2 == .modified || e.2 == .owned))
  let owned := s.cacheOwns line
  let s := State.settle { s with dir := s.dir.filter (fun e => !(decide (e.1 / 128 = line) && mine e)) } line owned
  if bad then s.poisonLine (chipHub chip) { LogEntry.mk0 2 chip with va := s.lineVa chip line } line else s

/-- Step 6 for one workgroup: it returns to its slot unplaced, or is lost with its packet's success when Foulo's command isolates the
port and the slot's recovery flag is clear. -/
def State.loseWg (s : State) (gid : Nat) (command : Bool) : State :=
  match Table.find gid s.wgs with
  | none => s
  | some g =>
    let s := s.awaitedGone gid false
    let s := if g.status = .retired then s
      else
        let recover := match s.slotFor g.hub g.pkt g.lin with | some i => (s.slot g.hub i).recover | none => true
        if command && !recover then
          (s.modSlotOf g (fun x => { x with lost := x.lost + 1 }.settle)).modPkt g.pkt (fun p => { p with lost := p.lost + 1, term := true })
        else s.modSlotOf g (fun x => { x with again := sortBy (fun a b => decide (a ≤ b)) (g.lin :: x.again) })
    s.releaseWg gid

/-- The queues bound to a Kudu's harts deliver their events to nobody until they are bound again (R436). -/
def State.deafen (s : State) (kudu : Nat) : State :=
  let off := fun (q : Queue) => { q with deaf := q.deaf || (match q.bound with | some n => decide (hartKudu n = kudu) | none => false) }
  [0, 1].foldl (fun s h => s.modHub h (fun x => { x with queues := Table.mapVals off x.queues })) s

/-- What an isolated chiplet loses besides its workgroups: its cores' state but for partition and limit, its caches and banks, and on
a Kudu or Saiga its harts or connections. -/
def State.loseChip (s : State) (chip : Nat) : State :=
  let mine := fun (cl : Nat) => decide (cl / 8 = chip)
  let banks := (s.banks.filter (fun e => mine (e.1 / 256))).map Prod.fst
  let s := banks.foldl (fun s b => s.clearRange (2 ^ 56 + b * 2 ^ 17) (2 ^ 17)) s
  let s := { s with
    banks := s.banks.filter (fun e => !mine (e.1 / 256))
    clines := s.clines.filter (fun e => !mine (e.1 / 512 / 256)), cways := s.cways.filter (fun e => !mine (e.1 / 64 / 256))
    ccopies := s.ccopies.filter (fun e => !mine (e.1 / 256 / 2 ^ 50))
    cores := s.cores.map (fun (e : Nat × Core) => if coreChip e.1 = chip then
      (e.1, ({ limit := e.2.limit, part := if e.2.leaving then none else e.2.part } : Core)) else e)
    harts := s.harts.filter (fun e => decide (12 + hartKudu e.1 ≠ chip)) }
  let s := if 14 ≤ chip then (s.hub (chip - 14)).conns.foldl (fun s e => s.dropConn (chip - 14) e.1) s else s
  let s := if 12 ≤ chip ∧ chip < 14 then s.deafen (chip - 12) else s
  s.setChip chip { (s.chip chip) with power := .p0, cyc := 0 }

/-- ISOLATION: the steps of R435; requests a home slice had accepted are those already performed (log entry 29, DEDUCED). -/
def execIsolation (hub port : Nat) (s : State) : Out :=
  let p := s.port hub port
  if p.state ≠ .isolating then .next s
  else
    let chip := portChip hub port
    let cores := (s.cores.filter (fun e => decide (coreChip e.1 = chip))).map Prod.fst
    let s := cores.foldl (fun s c => s.stopEngines c (fun _ => true)) s
    let lines := dedup ((s.dir.filter (fun e => decide (e.1 % 128 / 8 = chip))).map (fun e => e.1 / 128))
    let s := lines.foldl (fun s l => s.loseLine chip l) s
    let s := s.dropRecs (fun e => decide (e.2.party.chip = chip) && e.2.party.away.isNone)
    let gone := s.wgs.filter (fun e => decide (coreChip e.2.core = chip)
      && !(match e.2.image with | some im => im.out.isSome | none => false))
    let s := gone.foldl (fun s e => s.loseWg e.1 p.command) s
    .next ((s.loseChip chip).modPort hub port (fun p => { p with state := .isolated, up := false }))

/-! ## Links (R438, R439, R478) -/

/-- Add to a saturating 16-bit count. -/
def sat16 (x : BitVec 16) (n : Nat) : BitVec 16 := BitVec.ofNat 16 (Nat.min 65535 (x.toNat + n))

/-- A direction of a port: `true` toward the chiplet. -/
def Port.dir (p : Port) (toChip : Bool) : LinkDir := if toChip then p.toChip else p.toHub

/-- Change a direction of a port. -/
def Port.setDir (p : Port) (toChip : Bool) (d : LinkDir) : Port := if toChip then { p with toChip := d } else { p with toHub := d }

/-- The link status register (Table 14.5). -/
def Port.status (p : Port) : DWord :=
  BitVec.ofNat 64 (p.narrow.toNat * 2 ^ 48 + p.crc.toNat * 2 ^ 32 + p.replays.toNat * 2 ^ 16 + (decide (p.suspended ≠ 0)).toNat * 4
    + (decide (p.retrain ≠ 0)).toNat * 2 + p.up.toNat)

/-- Whether the guarantees at an arbiter of a port (0 toward the chiplet, 1 toward the hub) no longer fit its capacity (R439). -/
def State.overCommitted (s : State) (hub port d : Nat) : Bool :=
  decide (s.arbGrants hub (976 + 2 * port + d) * 4032 < s.arbSum hub (976 + 2 * port + d) 33 * 4096)

/-- A module narrows to 32 lanes (R439): logged as class 6, unacknowledged flits wait for their replay, and guarantees that no longer
fit are suspended at their arbiter. -/
def State.fallback (s : State) (hub port m : Nat) : State :=
  if (s.port hub port).narrow.getLsbD m ∨ (s.port hub port).modules port ≤ m then s
  else
    let again := fun (d : LinkDir) => { d with discarding := d.discarding || !d.buffer.isEmpty }
    let s := s.modPort hub port (fun p => { p with
      narrow := p.narrow ||| BitVec.ofNat 16 (2 ^ m), toHub := again p.toHub, toChip := again p.toChip })
    let s := s.modPort hub port (fun p => { p with
      suspended := p.suspended ||| BitVec.ofNat 2 ((s.overCommitted hub port 0).toNat + 2 * (s.overCommitted hub port 1).toNat) })
    s.logEvent hub { LogEntry.mk0 6 (portChip hub port) with detail := (s.port hub port).status.toNat % 2 ^ 32 }

/-- FLIT_RECEIVE: the flit that arrives next arrives (R438, R478): a CRC failure asks for a replay, and what arrives after it is
discarded until it has been replayed; the flit next in sequence is passed once and acknowledged. A message of an older incarnation is
dropped (R437). More than 16 failures of a module within one millisecond narrow it (R439); its millisecond may have ended before (a
free choice). -/
def execFlitReceive (hub port : Nat) (dir : Bool) (seq : Nat) (good : Bool) (msg : LinkMsg) (s : State) : Out :=
  let p := s.port hub port
  let d := (p.dir dir).send p port seq msg
  match p.up && decide (seq = d.next), d.buffer.find? (fun e => decide (e.seq = seq)) with
  | true, some e =>
    let d := { d with next := seq + 1 }
    if !good then
      let f := s.takeFree
      let m := seq % p.modules port
      let n := if Config.freeBit f.1 then 1 else Table.get 0 m p.crcWindow + 1
      let s := f.2.modPort hub port (fun p => { (p.setDir dir { d with discarding := true }) with
        crc := sat16 p.crc 1, crcWindow := Table.put 0 m n p.crcWindow })
      .next (if 16 < n then s.fallback hub port m else s)
    else if !d.discarding && decide (seq = d.expect) then
      .next (s.modPort hub port (fun p => { (p.setDir dir { d with
        expect := seq + 1, replays := 0, buffer := d.buffer.filter (fun x => decide (seq < x.seq)) }) with
        passed := if olderTag e.msg.inc p.inc then p.passed else p.passed ++ [e.msg.body] }))
    else .next (s.modPort hub port (fun p => p.setDir dir d))
  | _, _ => .next s

/-- FLIT_REPLAY: the sender replays the failed flit and every later one (R478), after any equalisation pass has ended: they arrive
again, in order; after 64 replays of one flit the port goes to isolating (Table 14.6a). -/
def execFlitReplay (hub port : Nat) (dir : Bool) (s : State) : Out :=
  let p := s.port hub port
  let d := p.dir dir
  if !p.up || !d.discarding || d.buffer.isEmpty || decide (p.retrain ≠ 0) then .next s
  else if 64 ≤ d.replays then .next (s.isolate hub port false)
  else .next (s.modPort hub port (fun p => { (p.setDir dir { d with
    replays := d.replays + 1, discarding := false, next := d.expect }) with replays := sat16 p.replays d.buffer.length }))

/-- LANE_FALLBACK: a lane has failed training (R439). -/
def execLaneFallback (hub port m : Nat) (s : State) : Out := .next (if (s.port hub port).up then s.fallback hub port m else s)

/-! ## Control loops (R444, R445, Table 14.7) -/

/-- The loops of a hub by number: supplies of the chiplets at its ports and of the hub, frequencies likewise, equalisation by port and
module, the two scrubs (log entry 30, DEDUCED). -/
def loopSupply (i : Nat) : Nat := i
/-- The frequency loop of a port's chiplet, or of the hub. -/
def loopFrequency (i : Nat) : Nat := 9 + i
/-- The equalisation loop of a module. -/
def loopEqual (port m : Nat) : Nat := 18 + 16 * port + m
/-- The scrub loop of a memory kind. -/
def loopScrub (lpddr : Bool) : Nat := 146 + lpddr.toNat

/-- The setting of a loop at reset: 0 mV, 1.25 GHz, no pass, 24 hours. -/
def loopReset (i : Nat) : LoopReg :=
  { setting := if 9 ≤ i ∧ i < 18 then 16 else if 146 ≤ i then 1440 else 0 }

/-- A loop's status register. -/
def State.loopReg (s : State) (hub i : Nat) : LoopReg := (Table.find i (s.hub hub).loops).getD (loopReset i)

/-- Change a loop's status register. -/
def State.setLoop (s : State) (hub i : Nat) (r : LoopReg) : State := s.modHub hub (fun h => { h with loops := Table.ins i r h.loops })

/-- The bounds of Table 14.7: of a loop's setting in millivolts, clock units or minutes; of the milliseconds between equalisation passes. -/
def loopBounds (i : Nat) : Int × Int :=
  if i < 9 then (-30, 40) else if i < 18 then (8, 16) else if i < 146 then (100, 2 ^ 32) else (240, 2880)

/-- The bounds in force: Foulo's where it has narrowed them (R444). -/
def LoopReg.bounds (r : LoopReg) (i : Nat) : Int × Int := r.limits.getD (loopBounds i)

/-- A value within bounds. -/
def clampI (lo hi x : Int) : Int := if x < lo then lo else if hi < x then hi else x

/-- A loop's nominal setting. -/
def loopNominal (i : Nat) : Int := if i < 9 then 0 else if i < 18 then 16 else 1440

/-- A setting moves into the bounds in force; an equalisation loop's counts passes and stands (R444). -/
def LoopReg.inside (r : LoopReg) (i : Nat) : LoopReg :=
  let b := r.bounds i
  let v := clampI b.1 b.2 r.setting.toInt
  if (18 ≤ i ∧ i < 146) ∨ v = r.setting.toInt then r
  else { r with setting := BitVec.ofInt 16 v, active := decide (v ≠ loopNominal i), bound := true }

/-- Foulo narrows the bounds of a loop; it never widens them, leaves a value between them, and brings the setting within them (R444). -/
def State.narrowLoop (s : State) (hub i : Nat) (lo hi : Int) : State :=
  let r := s.loopReg hub i
  let b := r.bounds i
  let n := (max lo b.1, min hi b.2)
  if 147 < i ∨ n.2 < n.1 then s else s.setLoop hub i (LoopReg.inside { r with limits := some n } i)

/-- One more trigger, saturating. -/
def LoopReg.trigger (r : LoopReg) : LoopReg := { r with events := BitVec.ofNat 14 (Nat.min 16383 (r.events.toNat + 1)) }

/-- The hub and the number among its rails of a location: chiplets 0 to 15, hubs 16 and 17. -/
def railOf (loc : Nat) : Nat × Nat := if loc < 16 then (chipHub loc, chipPort loc) else (loc - 16, 8)

/-- DROOP_RESPONSE: the supply loop moves its rail's set point within its bounds (Table 14.7). -/
def execDroopResponse (loc : Nat) (mv : Int) (s : State) : Out :=
  if 18 ≤ loc then .next s
  else
    let rail := railOf loc
    let r := (s.loopReg rail.1 (loopSupply rail.2)).trigger
    let b := r.bounds (loopSupply rail.2)
    let v := clampI b.1 b.2 (r.setting.toInt + mv)
    .next (s.setLoop rail.1 (loopSupply rail.2) { r with
      setting := BitVec.ofInt 16 v, active := decide (v ≠ 0), bound := r.bound || decide (v = b.1) || decide (v = b.2) })

/-- FREQUENCY_STEP: above the temperature limit or the power limit of its hub a loop steps its clock down, otherwise up (Table 14.7,
R445). Temperature and module power are free values. -/
def execFrequencyStep (loc : Nat) (s : State) : Out :=
  if 18 ≤ loc then .next s
  else
    let rail := railOf loc
    let f := s.takeFree
    let s : State := { f.2 with modulePower := BitVec.ofNat 16 (Config.freeNat f.1) }
    let r := s.loopReg rail.1 (loopFrequency rail.2)
    let hot := decide ((s.hub rail.1).tempLimit.toNat < Config.freeNat f.1 / 2 ^ 16)
    let over' := decide ((s.hub rail.1).powerLimit.toNat < s.modulePower.toNat) || hot
    let b := r.bounds (loopFrequency rail.2)
    let v := clampI b.1 b.2 (if over' then r.setting.toInt - 1 else r.setting.toInt + 1)
    let r := if over' then r.trigger else r
    .next (s.setLoop rail.1 (loopFrequency rail.2) { r with
      setting := BitVec.ofInt 16 v, active := decide (v ≠ 16),
      bound := r.bound || decide ((v = b.1 ∨ v = b.2) ∧ (over' = true ∨ BitVec.ofInt 16 v ≠ r.setting)) })

/-- EQUALISATION_PASS: a pass starts on a module that counted more than four failures in a millisecond; before the bound on
the time since the one before (100 ms unless narrowed; the time is a free value) it is put off, a bound reached (Table 14.7). -/
def execEqualisationPass (hub port m : Nat) (s : State) : Out :=
  let p := s.port hub port
  let r := (s.loopReg hub (loopEqual port m)).trigger
  if !p.up || decide (p.modules port ≤ m) || p.retrain.getLsbD m || decide (Table.get 0 m p.crcWindow ≤ 4) then .next s
  else if decide (r.setting ≠ 0) && decide ((Config.freeNat s.takeFree.1 : Int) < (r.bounds (loopEqual port m)).1) then
    .next (s.takeFree.2.setLoop hub (loopEqual port m) { r with bound := true })
  else
    let s := if r.setting ≠ 0 then s.takeFree.2 else s
    .next ((s.setLoop hub (loopEqual port m) { r with active := true, setting := r.setting + 1 }).modPort hub port (fun p =>
      { p with retrain := p.retrain ||| BitVec.ofNat 16 (2 ^ m) }))

/-- EQUALISATION_END: the pass ends; a failure narrows the module (R439, R478). -/
def execEqualisationEnd (hub port m : Nat) (ok : Bool) (s : State) : Out :=
  let p := s.port hub port
  if !p.retrain.getLsbD m then .next s
  else
    let s := s.setLoop hub (loopEqual port m) { (s.loopReg hub (loopEqual port m)) with active := false }
    let s := s.modPort hub port (fun p => { p with
      retrain := p.retrain &&& ~~~(BitVec.ofNat 16 (2 ^ m)), crcWindow := Table.put 0 m 0 p.crcWindow })
    .next (if ok then s else s.fallback hub port m)

/-- SCRUB_PERIOD_ADJUST: a window with more than 16 corrections halves the period, one with none doubles it (Table 14.7). -/
def execScrubPeriodAdjust (hub : Nat) (kind : Bool) (corrections : Nat) (s : State) : Out :=
  if 0 < corrections ∧ corrections ≤ 16 then .next s
  else
    let r := (s.loopReg hub (loopScrub kind)).trigger
    let b := r.bounds (loopScrub kind)
    let v := clampI b.1 b.2 (if 16 < corrections then r.setting.toInt / 2 else 2 * r.setting.toInt)
    .next (s.setLoop hub (loopScrub kind) { r with
      setting := BitVec.ofInt 16 v, active := decide (v ≠ 1440), bound := r.bound || decide (v = b.1) || decide (v = b.2) })

/-- The physical sector that a location of a cache-mode bank holds for its cluster, none where it holds none: the line's way, and the
sector in it (R177, R178). -/
def State.bankSector (s : State) (loc : Nat) : Option (Nat × CacheLine × Nat) :=
  let b := (loc - 2 ^ 56) / 2 ^ 17
  if loc < 2 ^ 56 ∨ 2 ^ 57 ≤ loc ∨ (s.bank b).mode ≠ 0 then none
  else (Table.find (b * 512 + loc % 2 ^ 17 / 256) s.clines).bind (fun c =>
    let sector := c.line * 4 + loc % 256 / 64
    if c.filled.getLsbD (sector % 4) || c.dirtySectors.contains sector then some (b / 256, c, sector) else none)

/-- A sector is poisoned where it stands: in the cluster cache that holds it, and, where that holds the line Modified or Owned, with the
memory that the model keeps its bytes in; else in memory (R441). -/
def State.poisonPlace (s : State) (loc : Nat) : State :=
  match s.bankSector loc with
  | none => s.setPoison (loc / 64) true
  | some (cl, c, sector) =>
    match Table.find (c.line * 128 + cl) s.dir with
    | some .modified | some .owned => s.setPoison sector true
    | _ =>
      let place := (loc - 2 ^ 56) / 2 ^ 17 * 512 + loc % 2 ^ 17 / 256
      { s with clines := Table.modify place (fun (x : CacheLine) => { x with bad := x.bad ||| sectorBit sector }) s.clines }

/-- PATROL_SCRUB: a sector is read; a corrected error is logged, an uncorrectable one poisons it (R440, R441). The entry names the sector's
physical address, which a sector that a cluster cache holds has too; else its offset in its cluster's banks (R484). -/
def execPatrolScrub (hub sector : Nat) (found : ScrubResult) (s : State) : Out :=
  let at_ : Nat × Nat := if isPhys (64 * sector) then (64 * sector, 0)
    else match s.bankSector (64 * sector) with | some x => (64 * x.2.2, 0) | none => (0, 64 * sector % 2 ^ 25)
  let e := fun (cls : Nat) => { LogEntry.mk0 cls 0 with kind := 0, unit := 128 * hub, pa := at_.1, va := at_.2 }
  .next (match found with
    | .clean => s
    | .corrected => s.logEvent hub (e 1)
    | .uncorrectable => (s.poisonPlace (64 * sector)).logEvent hub (e 2))

/-! ## Errors that the checks of a core and of the directory find (R440, Table 14.6a) -/

/-- An error in storage of a workgroup's core is logged: corrected, or as poison met in core-private storage (R484). -/
def State.errLog (s : State) (g : Wg) (va : Nat) (bad : Bool) : State :=
  s.logEvent (coreHub g.core) { LogEntry.mk0 (if bad then 2 else 1) (coreChip g.core) with
    gen := g.gen, asid := g.asid, vdev := g.vdev, world := g.world, va := if bad then va else 0, detail := if bad then 2 ^ 31 else 0 }

/-- An error in a word of a warp's register slot: an uncorrectable one marks the lane (R191, R440). -/
def State.errRegister (s : State) (id slot lane : Nat) (bad : Bool) : State :=
  s.withWarp id fun w g =>
    let v := w.reg slot
    let s := s.errLog g 0 bad
    if bad then s.modWarp id (fun w => w.setReg slot { v with poison := v.poison ||| BitVec.ofNat 32 (2 ^ (lane % 32)) }) else s

/-- An error in an entry of a warp's landing buffer. -/
def State.errLanding (s : State) (id i lane : Nat) (bad : Bool) : State :=
  s.withWarp id fun w g =>
    match w.landing[i]? with
    | none => s
    | some e =>
      let s := s.errLog g 0 bad
      if bad then s.modWarp id (fun w => { w with landing := listSet i { e with poison := e.poison ||| BitVec.ofNat 32 (2 ^ (lane % 32)) } w.landing })
      else s

/-- An error in a workgroup's private scratchpad: an uncorrectable one poisons the sector. -/
def State.errPrivate (s : State) (gid off : Nat) (bad : Bool) : State :=
  match Table.find gid s.wgs with
  | none => s
  | some g =>
    if g.scratch ≤ off then s
    else
      let s := s.errLog g (off / 64 * 64) bad
      if bad then s.setPoison (locPriv gid off / 64) true else s

/-- An error in the accumulator memory of a workgroup: an uncorrectable one marks the sixteen elements of its sector. -/
def State.errTile (s : State) (gid elem : Nat) (bad : Bool) : State :=
  match Table.find gid s.wgs with
  | none => s
  | some g =>
    let s := s.errLog g 0 bad
    if bad then s.modWg gid (fun g => { g with
      accMarks := (List.range 16).foldl (fun t i => Table.put false (elem / 16 * 16 + i) true t) g.accMarks }) else s

/-- An error in a weight buffer of a mill: an uncorrectable one marks the column. -/
def State.errMill (s : State) (gid buf col : Nat) (bad : Bool) : State :=
  match Table.find gid s.wgs with
  | none => s
  | some g =>
    let s := s.errLog g 0 bad
    let mark := fun (m : MillBuf) => match m.cols[col]? with
      | some c => { m with cols := listSet col { c with marked := true } m.cols }
      | none => m
    if bad then s.modWg gid (fun g => { g with mills := Table.modify buf mark g.mills }) else s

/-- An error in a Millpond entry: an uncorrectable one marks the sixteen saved words of its sector. -/
def State.errPond (s : State) (gid i reg : Nat) (bad : Bool) : State :=
  match Table.find gid s.wgs with
  | none => s
  | some g => match g.pond[i]? with
    | none => s
    | some p =>
      let s := s.errLog g 0 bad
      let hit := fun (e : Nat × Nat × Word × Bool) => if e.1 / 16 = reg / 16 then (e.2.1, e.2.2.1, true) else e.2
      if bad then s.modWg gid (fun g => { g with pond := listSet i { p with regs := ((List.range p.regs.length).zip p.regs).map hit } g.pond }) else s

/-- An error in a directory entry: an uncorrectable one poisons the line, which nobody holds any longer (R435, R440). -/
def State.errDirectory (s : State) (line : Nat) (bad : Bool) : State :=
  match localHome (line * 256) with
  | none => s
  | some hub =>
    let e := fun (cls : Nat) => { LogEntry.mk0 cls 0 with kind := 0, unit := 128 * hub }
    if bad then
      let owned := s.cacheOwns line
      (State.settle { s with dir := s.dir.filter (fun e => decide (e.1 / 128 ≠ line)) } line owned).poisonLine hub (e 2) line
    else s.logEvent hub { e 1 with pa := line * 256 }

/-! ## Responses that never come (R440, R452) -/

/-- A request of a warp that has not been answered: a load of an outstanding result, a lane of a synchronisation access, an element of a
load stream, a write, an element of an engine operation that is under way. -/
inductive Asked where
  | load (i : Nat)
  | lane (lane : Nat)
  | elem (slot k : Nat)
  | write (i : Nat)
  | op (id k : Nat)
deriving DecidableEq, Repr

/-- The places that a request asks for. -/
abbrev Places := List (Nat × Nat)

/-- The requests of a warp that have not been answered, with the location and address of each place they ask for. -/
def State.asked (s : State) (id : Nat) (w : Warp) (g : Wg) : List (Asked × Places) :=
  let c := s.core g.core
  (List.range w.pend.length).map (fun i => (.load i, (match w.pend[i]? with | some p => p.loads | none => []).map (fun (l : LaneLoad) => (l.loc, l.addr))))
    ++ (match w.sync with | some r => r.lanes.map (fun l => (.lane l.lane, [(l.loc, l.addr)])) | none => [])
    ++ (g.streams.filter (fun e => decide (e.2.owner = id))).flatMap (fun e =>
      (List.range e.2.queue.length).filterMap (fun k => match e.2.queue[k]? with
        | some x => if x.ready then none else x.loc.map (fun loc => (.elem e.1 k, [(loc, x.addr)]))
        | none => none))
    ++ ((List.range c.writes.length).filterMap (fun i => match c.writes[i]? with
      | some p => if p.warp = id then some (.write i, p.pieces.map (fun x => (x.1, 0))) else none
      | none => none))
    ++ ((c.copyQ ++ c.drainQ).filter (fun o => decide (o.warp = id) && o.started && decide (o.next < o.count))).map (fun o =>
      let t := s.opTouch g.core o o.next
      (.op o.id o.next, (t.1 ++ t.2).map (fun x => (x.1, 0))))

/-- The response to a request of a warp arrives as poison; with `payload` the request has been made, and it is its data that were lost: a
write then leaves poison (R440, R452; log entry 30, DESIGN CHOICE). `far` tells the places concerned. -/
def State.loseAsked (s : State) (id : Nat) (w : Warp) (g : Wg) (far : Nat → Bool) (payload : Bool) : Asked → State
  | .load i =>
    (s.modWarp id (fun w => { w with pend := w.pend.modify i (fun p => { p with
      loads := p.loads.map (fun l => if far l.loc then { l with lost := true } else l) }) })).landAt id i
      (match w.pend[i]? with | some p => p.token.isSome | none => false)
  | .lane l => match w.sync with
    | none => s
    | some r =>
      let hit := r.lanes.filter (fun x => decide (x.lane = l))
      if r.kind = .jwait then s.raise id (r.cause 0x28 1 [l])
      else
        let left := { r with lanes := r.lanes.filter (fun x => decide (x.lane ≠ l)) }
        let s := s.syncResults id { r with lanes := hit } (hit.map (fun x => (x.lane, [0, 0], x.loc / 64, true)))
        if left.lanes.isEmpty then s.endSync ⟨id, w, g, w.exm⟩ left
        else s.modWarp id (fun w => { w with sync := some left })
  | .elem n k => match s.stream w.wg n with
    | none => s
    | some x => s.setStream w.wg n { x with
      queue := x.queue.modify k (fun e => { e with ready := true, bytes := List.replicate x.record.size 0, poison := true }) }
  | .write i =>
    let ws := (s.core g.core).writes
    match ws[i]? with
    | none => s
    | some p =>
      if payload then
        let t := s.performAt g.core i
        if (t.core g.core).writes = ws then t else (piecesSectors p.pieces).foldl (fun t x => t.setPoison x true) t
      else s.modCore g.core (fun c => { c with writes := listDel i c.writes })
  | .op o k =>
    let mark := fun (x : LeatOp) => if x.id = o then { x with lost := (k, payload) :: x.lost } else x
    s.modCore g.core (fun c => { c with copyQ := c.copyQ.map mark, drainQ := c.drainQ.map mark })

/-- The response to request n of a warp arrives as poison if one of its places is far; answers the first of these. -/
def State.loseRequest (s : State) (id : Nat) (w : Warp) (g : Wg) (far : Nat → Bool) (payload : Bool) (n : Nat) :
    Option ((Nat × Nat) × State) :=
  match (s.asked id w g)[n]? with
  | none => none
  | some (a, ps) => (ps.find? (fun p => far p.1)).map (fun p => (p, s.loseAsked id w g far payload a))

/-- Whether a request of a core reaches its home over the hub ring: its home is the other hub's (R13, R440). -/
def overRing (core loc : Nat) : Bool :=
  isPhys loc && !isRemote loc && (match paHome loc with | some h => decide (h ≠ coreHub core) | none => false)

/-- A payload is lost on the ring: its data are delivered as poison (Table 14.6a). -/
def State.errPayload (s : State) (id n : Nat) : State :=
  s.withWarp id fun w g => match s.loseRequest id w g (overRing g.core) true n with | some r => r.2 | none => s

/-- RING_RESPONSE_TIMEOUT: a hub-ring message was dropped; the response to it arrives as poison (Table 14.6a). -/
def execRingResponseTimeout (id i : Nat) (s : State) : Out :=
  onWarp id s fun w g => match s.loseRequest id w g (overRing g.core) false i with | some r => r.2 | none => s

/-- REMOTE_ROUTE_TIMEOUT: a remote access without a route is answered with poison, and logged as class 6 (R452). -/
def execRemoteRouteTimeout (id i : Nat) (s : State) : Out :=
  onWarp id s fun w g =>
    match s.loseRequest id w g isRemote false i with
    | none => s
    | some (p, t) =>
      let hub := coreHub g.core
      t.logEvent hub { LogEntry.mk0 6 (14 + hub) with
        pa := p.1, va := p.2 % 2 ^ 57, gen := g.gen, asid := g.asid, vdev := g.vdev, world := g.world
        detail := (s.port hub 7).status.toNat % 2 ^ 32 }

/-- Whether a remote operation synchronises, so that its line's checker sees it (R217, R237). -/
def RemoteOp.syncs : RemoteOp → Bool
  | .load | .store => false
  | _ => true

/-- Whether a remote operation is refused by poison in its target: an atomic and a reduction (R236). -/
def RemoteOp.rmw : RemoteOp → Bool
  | .atom _ | .red _ => true
  | _ => false

/-- What a remote request writes, none when it writes nothing (R250, R452). -/
def remoteApply (r : RemoteReq) (old : Nat) : Option Nat :=
  let d := r.data.toNat % 2 ^ (8 * r.size)
  match r.op with
  | .load | .ldaq => none
  | .store | .strl => some d
  | .atom op | .red op => AtomOp.apply op r.size old d (r.compare.toNat % 2 ^ (8 * r.size))

/-- The party that a remote request names; its world's tenant is not known here (R237; log entry 28, DEDUCED). -/
def RemoteReq.party (r : RemoteReq) (m : Nat) : Party :=
  ⟨chipHub r.chip, r.chip, r.chip * 8 + r.cluster, r.core, r.wg, r.warp, r.lane, r.group, 32, 0, some m⟩

/-- The sizes an operation of another module may have. -/
def RemoteReq.fits (r : RemoteReq) : Bool :=
  (decide (r.size = 4) || decide (r.size = 8) || (!RemoteOp.syncs r.op && (decide (r.size = 1) || decide (r.size = 2))))
    && decide (r.pa % r.size = 0)

/-- REMOTE_REQUEST: a request of another module is executed once at its home slice, and its response kept; a duplicate is answered from
the cached response (R452): 0 and the value, 1 for poison, 2 and the detail of the record met for a scope failure. The message's clock
raises the home's, which the write carries (R219, R221); an access that synchronises is presented to the line's checker (R237, R238); an
atomic or reduction that finds poison is not performed, and a reduction's is logged (R236). -/
def execRemoteRequest (m seq : Nat) (req : RemoteReq) (s : State) : Out :=
  let key := m * 2 ^ 64 + seq
  let answer := fun (s : State) (kind value : Nat) => Host.Outcome.next { s with remote := Table.ins key (kind, BitVec.ofNat 64 value) s.remote }
  match localHome req.pa with
  | none => .next s
  | some hub =>
    if (Table.find key s.remote).isSome || !RemoteReq.fits req then .next s
    else
      let s := (s.raiseClock hub req.clock).homeTake hub req.pa 32
      match (if RemoteOp.syncs req.op then s.partyCheck (RemoteReq.party req m) req.scope req.pa else Except.ok s) with
      | .error r =>
        answer (s.logEvent hub { LogEntry.mk0 4 (14 + hub) with cause := 0x20, pa := req.pa, detail := partyDetail r }) 2 (partyDetail r)
      | .ok s =>
        let old := leNat (s.bytesAt 0 req.pa req.size)
        let bad := s.poisonAt req.pa req.size
        if bad && RemoteOp.rmw req.op then
          let isRed := match req.op with | .red _ => true | _ => false
          answer (if isRed then s.logEvent hub { LogEntry.mk0 2 (14 + hub) with pa := req.pa / 64 * 64 } else s) 1 0
        else
          let s := match remoteApply req old with
            | some x => s.homeWrite hub 0 32 (s.hub hub).clock req.pa (leBytes req.size x)
            | none => s
          answer s (bad && (decide (req.op = .load) || decide (req.op = .ldaq))).toNat (if bad then 0 else old)

/-! ## Power (R429, R446 to R448) -/

/-- Whether a core has nothing resident and no engine operation. -/
def State.coreIdle (s : State) (core : Nat) : Bool :=
  (s.resident core).isEmpty && (s.core core).ops.isEmpty && (s.core core).matQ.isEmpty && (s.core core).writes.isEmpty
    && (s.core core).followWait.isEmpty

/-- A core on its way into C2 loses its SRAM, not its registers (Table 14.8). -/
def Core.loseSram (c : Core) : Core := { c with dtlb := [], dwalk := [], ftlb := [], fwalk := [], copies := [] }

/-- Foulo spills the shadow storage of an enumerated chiplet to its HBM4 region (R447). -/
def State.spill (s : State) (hub port : Nat) : State :=
  let chip := portChip hub port
  match (s.port hub port).state with
  | .assigned | .running => s.spillChip chip
  | _ => s

/-- POWER_WAKE_P0: a core, or with 0xFF a whole chiplet, wakes (R429, Table 14.8). -/
def execPowerWakeP0 (hub port core : Nat) (s : State) : Out :=
  let chip := portChip hub port
  .next (if core = 0xFF then s.setChip chip { (s.chip chip) with power := .p0 }
    else if core < kindCores (chipKind chip) then s.modCore (chip * 32 + core) (fun c => { c with power := .p0 })
    else s)

/-- Whether nothing stands in a chiplet's shadow storage alone: every saved context in it has been spilled (R447). -/
def State.shadowClear (s : State) (chip : Nat) : Bool :=
  s.wgs.all (fun e => match e.2.image with | some im => decide (im.chip ≠ chip) || im.out.isSome | none => true)

/-- POWER_ENTER_C2: an idle core, or a whole chiplet once its shadow storage has been spilled, enters C2; a command that breaks the
entry condition has no effect (R429, R447, Table 14.8). -/
def execPowerEnterC2 (hub port core : Nat) (s : State) : Out :=
  let chip := portChip hub port
  let cores := chipCores chip
  .next (if core = 0xFF then
      if !cores.all s.coreIdle || !s.shadowClear chip then s
      else
        let s := (List.range 8).foldl (fun s u => s.emptyCache (chip * 8 + u)) s
        let s := cores.foldl (fun s c => s.modCore c Core.loseSram) s
        s.setChip chip { (s.chip chip) with power := .c2 }
    else if core < kindCores (chipKind chip) ∧ s.coreIdle (chip * 32 + core) = true then
      s.modCore (chip * 32 + core) (fun c => { c.loseSram with power := .c2 })
    else s)

/-- POWER_LIMIT_WRITE: clamped to 4,400 W (R429). -/
def execPowerLimitWrite (hub : Nat) (value : Word) (s : State) : Out :=
  .next (s.modHub hub (fun h => { h with powerLimit := BitVec.ofNat 16 (Nat.min 4400 (value.toNat % 2 ^ 16)) }))

/-- TEMPERATURE_LIMIT_WRITE: clamped to 105 degrees (R429). -/
def execTemperatureLimitWrite (hub : Nat) (value : Word) (s : State) : Out :=
  .next (s.modHub hub (fun h => { h with tempLimit := BitVec.ofNat 8 (Nat.min 105 (value.toNat % 2 ^ 8)) }))

/-- Whether no warp is resident on a core. -/
def State.noWarps (s : State) (core : Nat) : Bool := (s.resident core).all (fun e => (s.wgWarps e.1).isEmpty)

/-- C1_ENTRY: a core with no warp resident, or (from 512 on) a hart that waits for an interrupt, enters C1 (R413, R446). -/
def execC1Entry (core : Nat) (s : State) : Out :=
  .next (if core < 512 then
      if (s.core core).power = .p0 ∧ s.noWarps core = true then s.modCore core (fun c => { c with power := .c1 }) else s
    else
      let h := s.hartOf (core - 512)
      if h.power = .p0 ∧ h.waiting = true ∧ h.pending = [] then s.setHart (core - 512) { h with power := .c1 } else s)

/-- C1_WAKE: a core leaves C1 when a workgroup has been placed, a hart when an interrupt has arrived or its wait is over (R446). -/
def execC1Wake (core : Nat) (s : State) : Out :=
  .next (if core < 512 then
      if (s.core core).power = .c1 ∧ s.noWarps core = false then s.modCore core (fun c => { c with power := .p0 }) else s
    else
      let h := s.hartOf (core - 512)
      if h.power = .c1 ∧ (h.waiting = false ∨ h.pending ≠ []) then s.setHart (core - 512) { h with power := .p0 } else s)

/-- What a hub keeps through S3: the slots of packets under way, without which no saved context could resume, and the incarnations of its
ports, which advance on wake, with the places of their shadow regions, where the saved contexts stand (Table 14.8, R437, R447, R448; log
entry 31, DEDUCED). -/
def Hub.asleep (x : Hub) (busy : Nat → Bool) : Hub :=
  { bootFailed := x.bootFailed, slots := x.slots.filter (fun e => decide (e.2.state ≠ .free) && busy e.2.pkt)
    ports := Table.mapVals (fun (p : Port) => { inc := p.inc, shadow := p.shadow }) x.ports }

/-- The way into S3 (R448): caches written back, every context sealed to HBM4, and what is not kept lost (Table 14.8; log entry 31,
DEDUCED). -/
def State.enterS3 (s : State) : State :=
  let s := (List.range 128).foldl (fun s cl => s.emptyCache cl) s
  let s := (List.range 16).foldl (fun s c => s.spillChip c) s
  let banks := s.banks.map Prod.fst
  let s := banks.foldl (fun s b => s.clearRange (2 ^ 56 + b * 2 ^ 17) (2 ^ 17)) s
  let busy := fun (p : Nat) => (Table.find p s.pkts).isSome
  { s with
    dir := [], recs := [], recOrder := [], banks := [], clines := [], cways := [], llc := [], lways := [], ccopies := [], harts := []
    lines := [], remote := [], roots := [], lastWriter := [], asleep := true, dbgOut := [], lambda := 1024, cores := [], partsOwner := []
    engine := { s.engine with wrapped := true, gathering := none, answers := [] }
    chips := Table.mapVals (fun (c : Chip) => { c with power := .s3, cyc := 0 }) s.chips
    hubs := Table.mapVals (fun h => h.asleep busy) s.hubs }

/-- DEEP_SLEEP: every workgroup is halted and saved, and once nothing is under way the module enters S3; hub 1's register has no effect
(R429, R448). -/
def execDeepSleep (hub : Nat) (s : State) : Out :=
  if hub ≠ 0 ∨ s.asleep = true then .next s
  else
    let s := s.modHub 0 (fun h => { h with deepSleep := 0x8000000000000000#64 })
    let live := (s.wgs.filter (fun e => e.2.stands && e.2.status != .retiring)).map Prod.fst
    let s := live.foldl (fun s g => s.urgentHalt g) s
    let s := s.saveDone live
    if s.wgs.any (fun e => e.2.stands) || !((s.cores.map Prod.fst).all s.coreIdle) then .next s else .next s.enterS3

/-- S3_WAKE: every port trains again, the keys are unwrapped, protected worlds are held and the epoch advances (R448, R461, R463). -/
def execS3Wake (s : State) : Out :=
  if !s.asleep then .next s
  else
    let s := { s with
      asleep := false, worlds := Table.mapVals (fun w => { w with held := true }) s.worlds
      engine := { s.engine with wrapped := false, epoch := s.engine.epoch + 1 }
      chips := s.chips.map (fun e => (e.1, { e.2 with power := .p0 })) }
    .next ([0, 1].foldl (fun s h => if (s.hub h).bootFailed = true then s else
      (List.range 8).foldl (fun s p => s.modPort h p (fun x => { x with state := .training })) s) s)

/-! ## Block-table and pool descriptors (R430) -/

/-- A block-table descriptor of a hub. -/
def State.btDesc (s : State) (hub t : Nat) : BtDesc := Table.get {} t (s.hub hub).btDescs

/-- Write a word of a descriptor that is not valid (Table 14.1d). -/
def BtDesc.write (d : BtDesc) (word : Nat) (v : DWord) : BtDesc :=
  let x := v.toNat
  match word with
  | 0 => { d with valid := v.getLsbD 63, entries := bits x 56 32, world := bits x 23 16, vdev := bits x 5 0 }
  | 1 => { d with array := bits x 51 12 * 4096 }
  | 2 => { d with lpool := bits x 43 32, hpool := bits x 11 0 }
  | _ => d

/-- BT_DESCRIPTOR_WRITE: ignored while valid, but for clearing valid, which is refused while an entry has V = 1 (R430). -/
def execBtDescriptorWrite (hub t word : Nat) (value : DWord) (s : State) : Out :=
  let d := s.btDesc hub t
  let put := fun (d : BtDesc) => s.modHub hub (fun h => { h with btDescs := Table.put {} t d h.btDescs })
  .next (if 65536 ≤ t then s
    else if !d.valid then put (d.write word value)
    else if word = 0 ∧ value.getLsbD 63 = false ∧ (List.range d.entries).all (fun i => !(s.btEntry d i).v) = true then
      put { d with valid := false }
    else s)

/-- Write a word of a pool descriptor that is not valid (Table 14.1e). -/
def PoolDesc.write (d : PoolDesc) (word : Nat) (v : DWord) : PoolDesc :=
  let x := v.toNat
  match word with
  | 0 => { d with valid := v.getLsbD 0, tier := bits x 1 1, stack := bits x 51 3 * 8 }
  | 1 => { d with capacity := bits x 63 32, count := bits x 31 0 }
  | _ => d

/-- POOL_DESCRIPTOR_WRITE: ignored while valid, but for clearing valid (R430). -/
def execPoolDescriptorWrite (hub n word : Nat) (value : DWord) (s : State) : Out :=
  let d := Table.get {} n (s.hub hub).pools
  .next (if 4096 ≤ n then s
    else if !d.valid then (s.setPool hub n (d.write word value)).retryReturns hub
    else if word = 0 ∧ value.getLsbD 0 = false then (s.setPool hub n { d with valid := false }).retryReturns hub
    else s)

/-- The result register of the pool commands. -/
def State.poolAnswer (s : State) (hub : Nat) (cmd res : Nat) : State :=
  s.modHub hub (fun h => { h with poolCommand := BitVec.ofNat 64 cmd, poolResult := BitVec.ofNat 64 res })

/-- POOL_PUSH: a block enters a pool; a full or invalid one takes none (R430). -/
def execPoolPush (hub n block : Nat) (s : State) : Out :=
  let d := Table.get {} n (s.hub hub).pools
  let cmd := 2 ^ 61 + block % 2 ^ 36 * 2 ^ 16 + n % 4096
  .next (match (if d.valid then s.poolGive hub n d (block % 2 ^ 36) else none) with
    | some s => (s.poolAnswer hub cmd (2 ^ 63)).retryReturns hub
    | none => s.poolAnswer hub cmd 0)

/-- POOL_POP: the block on top of a pool leaves it; an empty or invalid one gives none (R430). -/
def execPoolPop (hub n : Nat) (s : State) : Out :=
  let d := Table.get {} n (s.hub hub).pools
  let cmd := 2 ^ 62 + n % 4096
  .next (match (if d.valid then s.poolTake hub n d else none) with
    | some (b, s) => (s.poolAnswer hub cmd (2 ^ 63 + b * 2 ^ 16)).retryReturns hub
    | none => s.poolAnswer hub cmd 0)

end Sys2Proof.Machine
end

