-- ==== Sys2Proof/Machine/Trust.lean ====
section
/-! DEFINITION. The commands of the security engine, measured boot, the gathering of pod evidence and its check (R453 to R465). -/

namespace Sys2Proof.Machine

/-- The engine answers a command with a status and data (R460). -/
def State.reply (s : State) (status : Nat) (data : List Byte) : State :=
  { s with engine := { s.engine with answer := (status, data) } }

/-- Whether a wrap or a pod gathering is in progress: every command then answers status 2 (R460; log entry 32, DEDUCED). -/
def Engine.busy (e : Engine) : Bool := e.wrapped || e.gathering.isSome

/-- A security command: malformed, busy, or carried out. -/
def command (bad : Bool) (s : State) (body : State → State) : Out :=
  .next (if bad then s.reply 1 [] else if s.engine.busy then s.reply 2 [] else body s)

/-! ## Identity and worlds (R453 to R455, R463) -/

/-- The identity certificate, written at production (Table 15.1). -/
def certificate : List Byte :=
  let body := leBytes 4 0x43444947 ++ leBytes 2 1 ++ leBytes 2 0 ++ leBytes 8 Config.serial ++ padTo 32 Config.identityKey
    ++ padTo 32 (Config.sha512 Config.productionKey)
  body ++ padTo 64 (Config.productionSign body)

/-- IDCERT: the identity certificate (R453). -/
def execIdcert (s : State) : Out := command false s (fun s => s.reply 0 certificate)

/-- Whether a number names a protected world. -/
def worldNo (w : Nat) : Bool := decide (1 ≤ w) && decide (w ≤ 255)

/-- WCREATE: a world gets fresh keys at every install point, and its owner; one that exists is refused (R454). `keyCount` counts the draws
of the engine's bit generator for each world. -/
def execWcreate (w vdev : Nat) (owner : List Byte) (s : State) : Out :=
  command (!worldNo w || decide (32 < vdev) || decide (owner.length ≠ 32)) s fun s =>
    if (Table.find w s.worlds).isSome then s.reply 3 []
    else State.reply { s with
      worlds := Table.ins w ⟨vdev, owner, false⟩ s.worlds
      keyCount := Table.put 0 w (Table.get 0 w s.keyCount + 1) s.keyCount } 0 []

/-- Whether anything of a world remains: a workgroup with its allocations or saved context, a bank, a block table, a connection
(R455). -/
def State.worldUsed (s : State) (w : Nat) : Bool :=
  s.wgs.any (fun e => decide (e.2.world = w)) || s.banks.any (fun e => decide (e.2.mode ≠ 0) && decide (e.2.world.toNat = w))
    || [0, 1].any (fun h => (s.hub h).btDescs.any (fun e => e.2.valid && decide (e.2.world = w))
      || (s.hub h).conns.any (fun e => decide (e.2.world = w)))

/-- What the install points hold under the keys of a world that is destroyed: dirty bytes of cluster caches go home while its keys are there,
and copies are forgotten (R455). -/
def State.clearWorld (s : State) (w : Nat) : State :=
  let s := (s.clines.filter (fun e => decide (e.2.world = w))).foldl (fun s e => s.evict (e.1 / 512 / 256) e.2) s
  { s with
    clines := s.clines.filter (fun e => decide (e.2.world ≠ w))
    ccopies := s.ccopies.filter (fun e => decide (e.1 % 256 ≠ w))
    cores := Table.mapVals (fun (c : Core) => { c with copies := c.copies.filter (fun e => decide (e.1 % 256 ≠ w)) }) s.cores }

/-- WDESTROY: a world of which nothing remains loses its keys (R455). -/
def execWdestroy (w : Nat) (s : State) : Out :=
  command (!worldNo w) s fun s =>
    if (Table.find w s.worlds).isNone || s.worldUsed w then s.reply 3 []
    else State.reply { s.clearWorld w with worlds := Table.del w s.worlds } 0 []

/-- WRELEASE: the owner's signature over the current epoch and the world lifts a hold (R463). -/
def execWrelease (w : Nat) (sig : List Byte) (s : State) : Out :=
  command (!worldNo w || decide (sig.length ≠ 64)) s fun s =>
    match Table.find w s.worlds with
    | none => s.reply 3 []
    | some x =>
      if Config.verifies x.owner (leBytes 8 s.engine.epoch.toNat ++ [BitVec.ofNat 8 w]) sig then
        State.reply { s with worlds := Table.ins w { x with held := false } s.worlds } 0 []
      else s.reply 6 []

/-! ## Measurement (R457, R459) -/

/-- EXTEND: platform register 7 alone, until it is locked (R457); a label that is no ASCII, or too long, is malformed (R459; log entry 32,
DEDUCED). -/
def execExtend (r : Nat) (item label : List Byte) (s : State) : Out :=
  command (decide (48 < label.length) || !asciiLabel label) s fun s =>
    if r ≠ 7 ∨ s.engine.locked = true then s.reply 4 []
    else State.reply { s with engine := s.engine.measure 7 item label } 0 []

/-- LOCK (R457). -/
def execLock (s : State) : Out := command false s (fun s => State.reply { s with engine := { s.engine with locked := true } } 0 [])

/-- A measurement log entry (R459). -/
def logBytes (e : Nat × Nat × Nat × List Byte × List Byte) : List Byte :=
  leBytes 8 e.1 ++ leBytes 1 e.2.1 ++ leBytes 1 e.2.2.1 ++ List.replicate 6 0 ++ padTo 64 e.2.2.2.1 ++ padTo 48 e.2.2.2.2

/-- READLOG: the entry of a sequence number (R459). -/
def execReadlog (seq : Nat) (s : State) : Out :=
  command (decide (s.engine.log.length ≤ seq)) s fun s =>
    match s.engine.log[seq]? with | some e => s.reply 0 (logBytes e) | none => s.reply 1 []

/-! ## Evidence (R461, R462) -/

/-- The sixteen incarnations of an evidence record. -/
def State.incarnations (s : State) : List Byte :=
  [0, 1].flatMap (fun h => (List.range 8).flatMap (fun p => leBytes 2 (s.port h p).inc))

/-- The flags of an evidence record for a virtual device, 0xFF for the platform alone (Table 15.3, R462). -/
def State.evidenceFlags (s : State) (v : Nat) : Nat :=
  let mine := v ≠ 0xFF
  let resident := s.wgs.any (fun e => decide (e.2.vdev = v) && e.2.stands)
  let parts := (s.partsOwner.filter (fun e => decide (e.2 = v))).map Prod.fst
  let gated := parts.any (fun p =>
    let cs := s.cores.filter (fun e => decide (e.2.part = some p))
    !cs.isEmpty && cs.all (fun e => e.2.power == .c2 || (s.chip (coreChip e.1)).power == .c2))
  let asids := [0, 1].flatMap (fun h => (s.hub h).queues.filterMap (fun q => if q.2.vdev = v then some q.2.asid else none))
    ++ s.wgs.filterMap (fun e => if e.2.vdev = v then some e.2.asid else none)
  let debug := [0, 1].any (fun h => (s.hub h).trapDescs.any (fun d => d.2.dbg && asids.contains d.1))
  (decide mine && !resident).toNat + (decide mine && gated).toNat * 2 + s.engine.overflow.toNat * 4 + (decide mine && debug).toNat * 8

/-- The body of an evidence record (Table 15.3). -/
def State.evidenceBody (s : State) (kind v present : Nat) (nonce platform tenant : List Byte) : List Byte :=
  leBytes 4 0x4F455644 ++ leBytes 2 1 ++ leBytes 1 kind ++ leBytes 1 (s.evidenceFlags v) ++ leBytes 2 s.engine.module
    ++ leBytes 1 v ++ [0] ++ leBytes 2 (if v = 0xFF then 0 else s.gen v) ++ leBytes 2 present ++ padTo 32 nonce
    ++ padTo 32 Config.identityKey ++ padTo 64 platform ++ padTo 64 tenant ++ s.incarnations
    ++ leBytes 8 s.engine.epoch.toNat ++ List.replicate 8 0

/-- An evidence record with its signature (Table 15.3). -/
def State.evidence (s : State) (kind v present : Nat) (nonce platform tenant : List Byte) : List Byte :=
  let body := s.evidenceBody kind v present nonce platform tenant
  body ++ padTo 64 (Config.identitySign body)

/-- The digest of the platform registers. -/
def Engine.platformDigest (e : Engine) : List Byte := Config.sha512 (e.platform.flatMap (padTo 64))

/-- EVIDENCE: a snapshot of the registers, signed (R461). -/
def execEvidence (vdev : Nat) (nonce : List Byte) (s : State) : Out :=
  command (decide (nonce.length ≠ 32) || !(decide (vdev ≤ 32) || decide (vdev = 0xFF))) s fun s =>
    s.reply 0 (s.evidence 1 vdev 0 nonce s.engine.platformDigest
      (if vdev = 0xFF then List.replicate 64 0 else (s.tenant vdev).reg))

/-! ## Pod attestation (R464) -/

/-- The nonce of a pod member. -/
def memberNonce (n : List Byte) (m : Nat) : List Byte := (Config.sha512 (n ++ leBytes 2 m)).take 32

/-- The requests that a gathering sends: each module's member nonce (R464). -/
def memberRequests (n : List Byte) : Table (List Byte) := (List.range 576).map (fun m => (m, memberNonce n m))

/-- This module's engine answers a member nonce with platform-only evidence under its number in the pod (R464). -/
def State.memberEvidence (s : State) (nonce : List Byte) : State :=
  { s with engine := { s.engine with member := s.evidence 1 0xFF 0 nonce s.engine.platformDigest (List.replicate 64 0) } }

/-- Foulo's pod policy gives this module its number in the pod, and says whether it leads it (R464). -/
def State.podPolicy (s : State) (leader : Bool) (module : Nat) : State :=
  if module ≤ 575 then { s with engine := { s.engine with leader := leader, module := module } } else s

/-- PODEVIDENCE: the leader begins to gather: it sends every module its nonce (R464). -/
def execPodevidence (nonce : List Byte) (s : State) : Out :=
  .next (if nonce.length ≠ 32 then s.reply 1 []
    else if !s.engine.leader then s.reply 5 []
    else if s.engine.busy then s.reply 2 []
    else { s with engine := { s.engine with gathering := some nonce, answers := [], sent := memberRequests nonce } })

/-- POD_MEMBER_ANSWER: an answer whose signature and nonce verify becomes a leaf (R464). -/
def execPodMemberAnswer (m : Nat) (record : List Byte) (s : State) : Out :=
  .next (match s.engine.gathering with
    | none => s
    | some n =>
      let ok := decide (m ≤ 575) && decide (record.length = 320) && decide ((record.drop 0x10).take 32 = memberNonce n m)
        && Config.verifies ((record.drop 0x30).take 32) (record.take 0x100) (record.drop 0x100)
      if ok && (Table.find m s.engine.sent).isSome && (Table.find m s.engine.answers).isNone then
        { s with engine := { s.engine with answers := Table.ins m (Config.sha512 (0 :: record)) s.engine.answers } }
      else s)

/-- One level of the tree. -/
def treeLevel : List (List Byte) → List (List Byte)
  | l :: r :: rest => Config.sha512 (1 :: (l ++ r)) :: treeLevel rest
  | rest => rest

/-- Several levels of the tree. -/
def treeUp (leaves : List (List Byte)) : Nat → List (List Byte)
  | 0 => leaves
  | n + 1 => treeUp (treeLevel leaves) n

/-- The root over the leaves that have answered and the absent ones (R464). -/
def podRoot (answers : Table (List Byte)) : List Byte :=
  (treeUp ((List.range 1024).map (fun m => (Table.find m answers).getD (Config.sha512 (2 :: leBytes 2 m)))) 10).headD []

/-- POD_GATHER_TIMEOUT: the root record is signed and answered (R464). -/
def execPodGatherTimeout (s : State) : Out :=
  .next (match s.engine.gathering with
    | none => s
    | some n =>
      let r := s.evidence 2 0xFF s.engine.answers.length n (podRoot s.engine.answers) (List.replicate 64 0)
      State.reply { s with engine := { s.engine with gathering := none, answers := [], sent := [] } } 0 r)

/-! ## What a tenant checks (R465) -/

/-- Fold a path of sibling hashes from a leaf up: bit i of m says on which side the running hash stands at level i. -/
def foldPath (m i : Nat) (h : List Byte) : List (List Byte) → List Byte
  | [] => h
  | x :: rest => foldPath m (i + 1) (Config.sha512 (1 :: (if m.testBit i then x ++ h else h ++ x))) rest

/-- Whether a certificate of Table 15.1 is the production key's and certifies the key of a record, which has signed the record. -/
def certified (cert record : List Byte) : Bool :=
  let key := (record.drop 0x30).take 32
  Config.verifies Config.productionKey (cert.take 0x50) (cert.drop 0x50) && decide ((cert.drop 0x10).take 32 = key)
    && Config.verifies key (record.take 0x100) (record.drop 0x100)

/-- The tenant's check of pod member m: its record, the path from leaf 0 upward and the root record under the tenant's nonce. -/
def memberChecks (n : List Byte) (m : Nat) (cert record : List Byte) (path : List (List Byte)) (rootCert root : List Byte) : Bool :=
  let nonce := fun (r : List Byte) => (r.drop 0x10).take 32
  certified rootCert root && decide (nonce root = n) && certified cert record && decide (nonce record = memberNonce n m)
    && decide (path.length = 10) && decide (foldPath m 0 (Config.sha512 (0 :: record)) path = (root.drop 0x50).take 64)

/-! ## Module reset (R457) -/

/-- The platform registers that a boot image is measured into; 0 and 2 hold what is no image. -/
def bootImage (r : Nat) : Bool := decide (r = 1 ∨ r = 3 ∨ r = 4 ∨ r = 5)

/-- Measure the boot items of a hub whose signature verifies (R457); hub 1's engine serves its measurements to hub 0's (R453). -/
def State.measureBoot (s : State) (hub : Nat) : State :=
  [0, 1, 2, 3, 4, 5].foldl (fun s r =>
    if bootImage r && !Config.bootVerified hub r then s else s.measure r (Config.bootItem hub r)) s

/-- A hub boots: with every image verified its ports train; else they stay down, and class 3 is logged (R457). -/
def State.bootHub (s : State) (h : Nat) : State :=
  let s := s.measureBoot h
  if [1, 3, 4, 5].all (Config.bootVerified h) then (List.range 8).foldl (fun s p => s.modPort h p (fun x => { x with state := .training })) s
  else (s.modHub h (fun x => { x with bootFailed := true })).logEvent h { LogEntry.mk0 3 0 with kind := 0, unit := 128 * h }

/-- MODULE_RESET: every register takes its reset value, the epoch advances, and each hub verifies and measures its boot images and boots
(R457, R461). Memory outside the chiplets keeps its bytes (log entry 3, DESIGN CHOICE). -/
def execModuleReset (s : State) : Out :=
  let keep := fun (loc : Nat) => isPhys loc
  let r := State.reset
  let s' := { r with
    mem := s.mem.filter (fun e => keep e.1), seals := s.seals.filter (fun e => keep (16 * e.1))
    poisoned := s.poisoned.filter (fun e => keep (64 * e.1)), keyCount := s.keyCount, free := s.free, agenda := s.agenda
    engine := { epoch := s.engine.epoch + 1, leader := s.engine.leader, module := s.engine.module } }
  .next ((s'.bootHub 0).bootHub 1)

end Sys2Proof.Machine
end

