-- ==== Sys2Proof/Machine/Manage.lean ====
section
/-! DEFINITION. The management window of a hub, register by register, and the RISC-V accesses of a Kudu hart (R216, R347 to R352, R361,
R377, R406, R426 to R430, R439, R442 to R444, R451). -/

namespace Sys2Proof.Machine

/-! ## The registers of the window (Table 14.1, R427 to R430) -/

/-- A register of a hub's management window; `i` and `r` number the words of a structure. -/
inductive MReg where
  | cap (p i : Nat) | assign (p i : Nat) | link (p : Nat)
  | logWrite | logRead | lost | modPower | powLimit | tempLimit | powCommand | sleep
  | loop (i : Nat) | invalidate | invalidateAsid
  | preempt | completion | resume | kill
  | queue (q i : Nat) | slot (n i : Nat) | weir (k : Nat) | llcWay (slice v r : Nat) | conn (word : Nat)
  | pool (n i : Nat) | poolCommand | poolResult | logEntry (k i : Nat) | sluice (arb v r : Nat)
  | bank (b : Nat) | bankWay (b v r : Nat) | trap (asid i : Nat) | table (t i : Nat)
deriving DecidableEq, Repr

/-- Whether a register is 8 bytes wide; the others are 4. -/
def MReg.wide : MReg → Bool
  | .lost | .modPower | .powLimit | .tempLimit | .loop _ | .slot _ _ | .weir _ | .llcWay _ _ _ | .sluice _ _ _ | .bank _
  | .bankWay _ _ _ => false
  | _ => true

/-- The bank, 256 a cluster of the package, of bank block j of a hub (R427). -/
def blockBank (hub j : Nat) : Nat :=
  let e := j - 2304
  if j < 2304 then ((portChip hub (j / 768 + 1)) * 8 + j % 768 / 128) * 256 + j % 128
  else ((portChip hub (e / 512 + 4)) * 8 + e % 512 / 256) * 256 + e % 256

/-- The per-device register at an offset in a way block: device and register (R427, R451). -/
def wayAt (x : Nat) : Option (Nat × Nat) :=
  if 0x10 ≤ x ∧ (x - 0x10) / 16 ≤ 32 then some ((x - 0x10) / 16, (x - 0x10) % 16 / 4) else none

/-- The Sluice register at an offset of its region (R427). -/
def sluiceAt (s : State) (hub x : Nat) : Option MReg :=
  let set := x / 32
  if x % 32 < 20 ∧ s.arbGrants hub (set / 33) ≠ 0 then some (.sluice (set / 33) (set % 33) (x % 32 / 4)) else none

/-- The register that holds the 4 bytes at an offset of the first pages (Tables 14.1, 14.1b, 14.1c; log entry 33 places the link
status, loop and invalidation registers). -/
def lowRegAt (off : Nat) : Option MReg :=
  if off < 0x100 then some (.cap (off / 32) (off % 32 / 8))
  else if off < 0x200 then some (.assign ((off - 0x100) / 32) (off % 32 / 8))
  else if off < 0x1000 then none
  else if off < 0x2000 then (if off % 512 < 8 then some (.link ((off - 0x1000) / 512)) else none)
  else if off < 0x3000 then
    (match off - 0x2000 with
      | 0 => some .logWrite | 4 => some .logWrite | 8 => some .logRead | 12 => some .logRead | 0x10 => some .lost
      | 0x100 => some .modPower | 0x104 => some .powLimit | 0x108 => some .tempLimit
      | 0x110 => some .powCommand | 0x114 => some .powCommand | 0x118 => some .sleep | 0x11C => some .sleep
      | _ => none)
  else if off < 0x3000 + 592 then some (.loop ((off - 0x3000) / 4))
  else if 0x3800 ≤ off ∧ off < 0x3808 then some .invalidate
  else if 0x3808 ≤ off ∧ off < 0x3810 then some .invalidateAsid
  else if off < 0x4000 then none
  else if off < 0x4008 then some .preempt
  else if off < 0x4010 then some .completion
  else if off < 0x4018 then some .resume
  else if off < 0x4020 then some .kill
  else none

/-- The register that holds the 4 bytes at an offset of a hub's window (Table 14.1, R427). -/
def mregAt (s : State) (hub off : Nat) : Option MReg :=
  if off < 0x10000 then lowRegAt off
  else if off < 0x18000 then some (.queue ((off - 0x10000) / 32) (off % 32 / 8))
  else if off < 0x18800 then some (.slot ((off - 0x18000) / 32) (off % 32 / 4))
  else if 0x19000 ≤ off ∧ off < 0x19400 then some (.weir ((off - 0x19000) / 4))
  else if 0x20000 ≤ off ∧ off < 0x28000 then
    (wayAt ((off - 0x20000) % 1024)).map (fun v => .llcWay ((off - 0x20000) / 1024) v.1 v.2)
  else if 0x100000 ≤ off ∧ off < 0x300000 then some (.conn (off / 8))
  else if 0x300000 ≤ off ∧ off < 0x310000 then some (.pool ((off - 0x300000) / 16) (off % 16 / 8))
  else if 0x3FFF00 ≤ off ∧ off < 0x3FFF08 then some .poolCommand
  else if 0x3FFF08 ≤ off ∧ off < 0x3FFF10 then some .poolResult
  else if 0x400000 ≤ off ∧ off < 0x420000 then some (.logEntry ((off - 0x400000) / 32) (off % 32 / 8))
  else if 0x500000 ≤ off ∧ off < 0x700000 then sluiceAt s hub (off - 0x500000)
  else if 0x700000 ≤ off ∧ off < 0x700000 + 1024 * 3840 then
    let b := blockBank hub ((off - 0x700000) / 1024)
    if (off - 0x700000) % 1024 < 4 then some (.bank b) else (wayAt ((off - 0x700000) % 1024)).map (fun v => .bankWay b v.1 v.2)
  else if 0xB00000 ≤ off ∧ off < 0xD00000 then some (.trap ((off - 0xB00000) / 32) (off % 32 / 8))
  else if 0xD00000 ≤ off ∧ off < 0xF00000 then some (.table ((off - 0xD00000) / 32) (off % 32 / 8))
  else none

/-! ## Reading -/

/-- The code of a port state (Table 14.4). -/
def portCode : PortState → Nat
  | .down => 0 | .training => 1 | .capable => 2 | .assigned => 3 | .running => 4 | .isolating => 5 | .isolated => 6 | .refused => 7

/-- The code of a slot state (Table 11.5). -/
def slotCode : SlotState → Nat | .free => 0 | .active => 1 | .held => 2 | .done => 3 | .rejected => 4

/-- A word of an assignment record (Table 14.3). -/
def Port.assignWord (p : Port) (i : Nat) : Nat :=
  match i with
  | 0 => p.inc % 2 ^ 16 * 2 ^ 48 + portCode p.state * 2 ^ 40 + p.cls % 4 * 2 ^ 32 + p.qbase % 2 ^ 16 * 2 ^ 16 + p.qcount % 2 ^ 16
  | 1 => p.regbase.toNat
  | 2 => p.shadow.toNat
  | _ => p.resets.toNat * 2 ^ 32

/-- A word of a queue descriptor (Table 11.1). -/
def Queue.word (q : Queue) (i : Nat) : Nat :=
  match i with
  | 0 => q.ring
  | 1 => q.asid % 2 ^ 16 + q.vdev % 256 * 2 ^ 16 + (q.enabled.toNat + 2 * q.error.toNat) * 2 ^ 24 + q.log2size % 256 * 2 ^ 32
  | 2 => q.read % 2 ^ 64
  | _ => q.write % 2 ^ 64

/-- A word of a slot: its bind record and its status (Tables 11.4, 11.5). -/
def Slot.word (x : Slot) (i : Nat) : Nat :=
  match i with
  | 0 => x.w0.toNat / 2 ^ 29 * 2 ^ 29 + x.w0.toNat % 2 ^ 26
  | 1 => x.w1.toNat / 2 ^ 24 * 2 ^ 24 + bits x.w1.toNat 21 16 * 2 ^ 16 + x.w1.toNat % 2 ^ 5
  | 2 => x.w2.toNat
  | 3 => x.w3.toNat
  | 4 => slotCode x.state * 2 ^ 28 + x.error % 16 * 2 ^ 24
  | 5 => x.placed
  | 6 => x.retired
  | _ => x.saved

/-- A word of an error log entry (Table 14.6). -/
def LogEntry.word (e : LogEntry) (i : Nat) : Nat :=
  match i with
  | 0 => e.cls * 2 ^ 56 + e.kind * 2 ^ 48 + e.unit * 2 ^ 40 + e.cause * 2 ^ 32 + e.inc * 2 ^ 16 + e.gen
  | 1 => e.pa
  | 2 => e.va
  | _ => e.asid * 2 ^ 48 + e.vdev * 2 ^ 40 + e.world * 2 ^ 32 + e.detail

/-- A word of a trap descriptor (Table 12.1). -/
def TrapDesc.word (d : TrapDesc) (i : Nat) : Nat :=
  match i with
  | 0 => d.valid.toNat * 2 ^ 63 + d.tbase
  | 1 => d.deleg % 2 ^ 64
  | 2 => d.deleg / 2 ^ 64
  | _ => d.stall + d.oplim * 2 ^ 16 + d.notice.toNat * 2 ^ 33 + d.dbg.toNat * 2 ^ 32

/-- A word of a block-table descriptor (Table 14.1d). -/
def BtDesc.word (d : BtDesc) (i : Nat) : Nat :=
  match i with
  | 0 => d.valid.toNat * 2 ^ 63 + d.entries * 2 ^ 32 + d.world * 2 ^ 16 + d.vdev
  | 1 => d.array
  | 2 => d.lpool * 2 ^ 32 + d.hpool
  | _ => 0

/-- A word of a pool descriptor (Table 14.1e). -/
def PoolDesc.word (d : PoolDesc) (i : Nat) : Nat :=
  match i with
  | 0 => d.stack + d.tier * 2 + d.valid.toNat
  | _ => d.capacity * 2 ^ 32 + d.count

/-- A loop status register (Table 14.7). -/
def LoopReg.word (r : LoopReg) : Nat := r.active.toNat * 2 ^ 31 + r.bound.toNat * 2 ^ 30 + r.events.toNat * 2 ^ 16 + r.setting.toNat

/-- A way register (Table 06.4). -/
def WayRegs.word (w : WayRegs) (r : Nat) : Nat :=
  match r with | 0 => w.fill.toNat | 1 => w.occ | 2 => w.hits.toNat | _ => w.misses.toNat

/-- The key of a home slice's way registers. -/
def llcWayKey (hub slice v : Nat) : Nat := (hub * 32 + slice) * 64 + v

/-- The key of a bank's way registers. -/
def bankWayKey (b v : Nat) : Nat := b * 64 + v

/-- What a register reads as. -/
def State.mpeek (s : State) (hub : Nat) : MReg → Nat
  | .cap p i => fieldAt (s.port hub p).cap (8 * i) 8
  | .assign p i => (s.port hub p).assignWord i
  | .link p => (s.port hub p).status.toNat
  | .logWrite => (s.hub hub).logWrite
  | .logRead => (s.hub hub).logRead
  | .lost => (s.hub hub).lost.toNat
  | .modPower => s.modulePower.toNat
  | .powLimit => (s.hub hub).powerLimit.toNat
  | .tempLimit => (s.hub hub).tempLimit.toNat
  | .powCommand => (s.hub hub).powerCommand.toNat
  | .sleep => (s.hub hub).deepSleep.toNat
  | .loop i => (s.loopReg hub i).word
  | .invalidate => (s.hub hub).invalidate.toNat
  | .invalidateAsid => (s.hub hub).invalidateAsid.toNat
  | .preempt => (s.hub hub).preempt.toNat
  | .completion => (s.hub hub).saved.toNat
  | .resume => (s.hub hub).resume.toNat
  | .kill => (s.hub hub).kill.toNat
  | .queue q i => (s.queue hub q).word i
  | .slot n i => (s.slot hub n).word i
  | .weir k => leNat ((List.range 4).map (fun i => Table.get 0xFF (4 * k + i) (s.hub hub).weir))
  | .llcWay sl v r => (Table.get WayRegs.reset (llcWayKey hub sl v) s.lways).word r
  | .conn w => if w % 8 < 4 then (Table.get 0 w (s.hub hub).misc).toNat else 0
  | .pool n i => (Table.get {} n (s.hub hub).pools).word i
  | .poolCommand => (s.hub hub).poolCommand.toNat
  | .poolResult => (s.hub hub).poolResult.toNat
  | .logEntry k i => (Table.get (LogEntry.mk 0 0 0 0 0 0 0 0 0 0 0 0) k (s.hub hub).log).word i
  | .sluice a v r =>
    let b := s.bucket hub a v
    (match r with | 0 => b.guarantee | 1 => b.depth | 2 => b.level | 3 => b.lent.toNat | _ => b.borrowed.toNat)
  | .bank b => (s.bank b).word.toNat
  | .bankWay b v r => (Table.get WayRegs.reset (bankWayKey b v) s.cways).word r
  | .trap a i => (Table.get {} a (s.hub hub).trapDescs).word i
  | .table t i => (s.btDesc hub t).word i

/-- What a read of a register changes: the link status forgets its counts, a loop status its events (R439, R444); module power is
measured anew, a free value (R445). -/
def State.mtouch (s : State) (hub : Nat) (r : MReg) : State :=
  match r with
  | .link p => s.modPort hub p (fun p => { p with crc := 0, replays := 0 })
  | .loop i => s.setLoop hub i { (s.loopReg hub i) with events := 0 }
  | _ => s

/-- The power register is measured before it is read. -/
def State.measurePower (s : State) (r : MReg) : State :=
  match r with
  | .modPower => let f := s.takeFree; { f.2 with modulePower := BitVec.ofNat 16 (Config.freeNat f.1) }
  | _ => s

/-! ## Writing -/

/-- What an access to the window comes to: an access fault, a wait, or a value and a state. -/
inductive MOut where
  | fault
  | wait (s : State)
  | ok (v : DWord) (s : State)

/-- The state a meaning answers, as an access sees it. -/
def doneBy (o : Out) : MOut := match o with | .next s => .ok 0 s | _ => .fault

/-- Write word 1 of a queue descriptor; the doorbell error is set by the hub alone (Table 11.1). -/
def Queue.setWord1 (q : Queue) (v : DWord) : Queue :=
  { q with asid := bits v.toNat 15 0, vdev := bits v.toNat 23 16, enabled := v.getLsbD 24, error := q.error && v.getLsbD 25
           log2size := bits v.toNat 39 32 }

/-- Write a word of a slot: word 0 binds, words 1 to 3 are kept while the slot may be written (R351). -/
def slotWrite (hub n i : Nat) (v : Word) (s : State) : Out :=
  let x := s.slot hub n
  let open' := x.state ≠ .active ∧ x.state ≠ .held
  match i with
  | 0 => execBindRecordWrite hub n v x.w1 x.w2 x.w3 s
  | 1 => .next (if open' then s.modSlot hub n (fun x => { x with w1 := v }) else s)
  | 2 => .next (if open' then s.modSlot hub n (fun x => { x with w2 := v }) else s)
  | 3 => .next (if open' then s.modSlot hub n (fun x => { x with w3 := v }) else s)
  | _ => .next s

/-- Write a word of a trap descriptor (Table 12.1). -/
def TrapDesc.write (d : TrapDesc) (i : Nat) (v : DWord) : TrapDesc :=
  let x := v.toNat
  match i with
  | 0 => { d with valid := v.getLsbD 63, tbase := bits x 56 3 * 8 }
  | 1 => { d with deleg := d.deleg / 2 ^ 64 * 2 ^ 64 + x }
  | 2 => { d with deleg := d.deleg % 2 ^ 64 + x * 2 ^ 64 }
  | _ => { d with stall := bits x 15 0, oplim := bits x 31 16, notice := v.getLsbD 33, dbg := v.getLsbD 32 }

/-- Write a word of the connection table of a Saiga (R417; log entry 27, DEDUCED): a store to the last word of a free slot opens the
connection whose descriptor stands there, one to the first word of an open connection closes it, and no other store changes an
open one. -/
def connStore (hub k : Nat) (v : DWord) (s : State) : State :=
  let n := (k - 0x20000) / 8
  let put := fun (s : State) => s.modHub hub (fun h => { h with misc := Table.put 0 k v h.misc })
  match s.conn hub n with
  | some _ => if k % 8 = 0 then put (s.dropConn hub n) else s
  | none => if k % 8 = 7 then (put s).openConn hub n ((List.range 8).flatMap (fun i => leBytes 8 (Table.get 0 (connWord n i) ((put s).hub hub).misc).toNat))
      else put s

/-- The command registers (R428 to R430): a write that sets busy while busy reads 1 has no effect; one that leaves it clear keeps the
fields and starts nothing, and while busy reads 1 changes nothing. -/
def commandWrite (hub : Nat) (r : MReg) (v : DWord) (s : State) : Out :=
  let x := v.toNat
  let busy := v.getLsbD 63
  if (BitVec.ofNat 64 (s.mpeek hub r)).getLsbD 63 = true then .next s
  else match r with
    | .preempt =>
      if !busy then .next (s.modHub hub (fun h => { h with preempt := BitVec.ofNat 64 (bits x 62 61 * 2 ^ 61 + bits x 5 0) }))
      else if v.getLsbD 62 then execPreemptUrgentHalt hub (v.getLsbD 61) (bits x 5 0) s
      else execPreemptSliceEnd hub (v.getLsbD 61) (bits x 5 0) s
    | .resume => if busy then execSlotResume hub (bits x 5 0) s
      else .next (s.modHub hub (fun h => { h with resume := BitVec.ofNat 64 (bits x 5 0) }))
    | .kill => if busy ∧ hub = 0 then execContextKill (bits x 5 0) s
      else .next (s.modHub hub (fun h => { h with kill := BitVec.ofNat 64 (bits x 5 0) }))
    | .powCommand =>
      let s := s.modHub hub (fun h => { h with powerCommand := BitVec.ofNat 64 (bits x 55 40 * 2 ^ 40 + bits x 1 0) })
      if busy ∧ bits x 1 0 = 0 then execPowerWakeP0 hub (bits x 55 48 % 8) (bits x 47 40) s
      else if busy ∧ bits x 1 0 = 2 then execPowerEnterC2 hub (bits x 55 48 % 8) (bits x 47 40) s
      else .next s
    | .sleep => if busy then execDeepSleep hub s else .next s
    | .invalidate =>
      if busy then execTlbInvalidate hub (bits x 62 61) (s.hub hub).invalidateAsid.toNat (bits x 56 0) s
      else .next (s.modHub hub (fun h => { h with invalidate := BitVec.ofNat 64 (bits x 62 61 * 2 ^ 61 + bits x 56 0) }))
    | .poolCommand =>
      if !busy then
        .next (s.modHub hub (fun h => { h with poolCommand := BitVec.ofNat 64 (bits x 62 61 * 2 ^ 61 + bits x 51 16 * 2 ^ 16 + bits x 11 0) }))
      else if bits x 62 61 = 1 then execPoolPush hub (bits x 11 0) (bits x 51 16) s
      else if bits x 62 61 = 2 then execPoolPop hub (bits x 11 0) s
      else .next s
    | _ => .next s

/-- Write a register; a read-only one is left as it is (R4). -/
def State.mwrite (s : State) (hub : Nat) (r : MReg) (v : DWord) : MOut :=
  let x := v.toNat
  let w : Word := v.setWidth 32
  match r with
  | .assign p 0 =>
    let st := (s.port hub p).state
    if st = .assigned ∨ st = .running ∨ st = .isolating then .ok 0 s
    else .ok 0 (s.modPort hub p (fun q => { q with demote := if bits x 33 32 = 2 then some 2 else none }))
  | .logRead => .ok 0 (s.modHub hub (fun h => { h with logRead := x }))
  | .lost => .ok 0 (if x = 0 then s.modHub hub (fun h => { h with lost := 0 }) else s)
  | .powLimit => doneBy (execPowerLimitWrite hub w s)
  | .tempLimit => doneBy (execTemperatureLimitWrite hub w s)
  | .loop i => .ok 0 (if x.testBit 30 then s.setLoop hub i { (s.loopReg hub i) with bound := false } else s)
  | .invalidateAsid => .ok 0 (s.modHub hub (fun h => { h with invalidateAsid := BitVec.ofNat 64 (bits x 15 0) }))
  | .queue q 0 => .ok 0 (s.modQueue hub q (fun k => { k with ring := bits x 56 0 }))
  | .queue q 1 => .ok 0 (s.modQueue hub q (fun k => k.setWord1 v))
  | .queue q 3 => doneBy (execDoorbellWrite hub q x s)
  | .slot n i => doneBy (slotWrite hub n i w s)
  | .weir k => .ok 0 (s.modHub hub (fun h => { h with weirNext := (List.range 4).foldl (fun t i =>
      Table.put 0xFF (4 * k + i) (BitVec.ofNat 8 (x / 256 ^ i)) t) h.weirNext }))
  | .llcWay sl d 0 =>
    let w := { (Table.get WayRegs.reset (llcWayKey hub sl d) s.lways) with fill := v.setWidth 16 }
    .ok 0 { s with lways := Table.put WayRegs.reset (llcWayKey hub sl d) w s.lways }
  | .conn k => .ok 0 (connStore hub k v s)
  | .pool n i => doneBy (execPoolDescriptorWrite hub n i v s)
  | .sluice a d 0 => doneBy (execSluiceGuaranteeWrite hub a d w s)
  | .sluice a d 1 => .ok 0 (if bits x 15 0 = 0 then s else s.modBucket hub a d (fun b => { b with depth := bits x 15 0 }))
  | .bank b =>
    let s := if (s.bank b).switching.getLast? = some (bankTarget w) then s.endSwitch b else s.writeBank b w
    if (s.bank b).switching.isEmpty then .ok 0 s else .wait s
  | .bankWay b d 0 =>
    let w := { (Table.get WayRegs.reset (bankWayKey b d) s.cways) with fill := v.setWidth 16 }
    .ok 0 { s with cways := Table.put WayRegs.reset (bankWayKey b d) w s.cways }
  | .trap a i => .ok 0 (s.modHub hub (fun h => { h with trapDescs := Table.put {} a ((Table.get {} a h.trapDescs).write i v) h.trapDescs }))
  | .table t i => doneBy (execBtDescriptorWrite hub t i v s)
  | r => doneBy (commandWrite hub r v s)

/-! ## Accesses to the window (R426) -/

/-- A read of 4 or 8 bytes at an offset, aligned. -/
def State.mload (s : State) (hub off size : Nat) : MOut :=
  if !((size = 4 ∨ size = 8) ∧ off % size = 0) then .fault
  else match mregAt s hub off with
    | none => .fault
    | some r =>
      let s := s.measurePower r
      let x := s.mpeek hub r
      if r.wide then
        .ok (BitVec.ofNat 64 (if size = 8 then x else if off % 8 = 0 then x % 2 ^ 32 else x / 2 ^ 32 % 2 ^ 32)) (s.mtouch hub r)
      else if size = 4 then .ok (BitVec.ofNat 64 (x % 2 ^ 32)) (s.mtouch hub r)
      else match mregAt s hub (off + 4) with
        | none => .fault
        | some r' => .ok (BitVec.ofNat 64 (x % 2 ^ 32 + s.mpeek hub r' * 2 ^ 32)) ((s.mtouch hub r).mtouch hub r')

/-- A write of 4 or 8 bytes at an offset, aligned: half of an 8-byte register keeps the other half; of two 4-byte registers the upper
is written first, so that a bind record activates with the words beside it. -/
def State.mstore (s : State) (hub off size : Nat) (v : DWord) : MOut :=
  if !((size = 4 ∨ size = 8) ∧ off % size = 0) then .fault
  else match mregAt s hub off with
    | none => .fault
    | some r =>
      let lo := v.toNat % 2 ^ 32
      if r.wide then
        let old := s.mpeek hub r
        s.mwrite hub r (if size = 8 then v else if off % 8 = 0 then BitVec.ofNat 64 (old / 2 ^ 32 * 2 ^ 32 + lo)
          else BitVec.ofNat 64 (old % 2 ^ 32 + lo * 2 ^ 32))
      else if size = 4 then s.mwrite hub r (BitVec.ofNat 64 lo)
      else match mregAt s hub (off + 4) with
        | none => .fault
        | some r' => match s.mwrite hub r' (v >>> 32) with
          | .ok _ s => s.mwrite hub r (BitVec.ofNat 64 lo)
          | o => o

/-- MANAGEMENT_REGISTER_WRITE: a write that the window accepts takes effect; any other has none (R426). -/
def execManagementRegisterWrite (hub off size : Nat) (value : DWord) (s : State) : Out :=
  .next (match s.mstore hub off size value with | .ok _ s => s | .wait s => s | .fault => s)

/-- MANAGEMENT_REGISTER_READ (R426, R439, R444). -/
def execManagementRegisterRead (hub off size : Nat) (s : State) : Out :=
  .next (match s.mload hub off size with | .ok _ s => s | _ => s)

/-! ## RISC-V accesses of a hart (R216, R406, R426, R442) -/

/-- The access kind of a hart's access for translation. -/
def hartAcc (k : HartAccess) : AccessKind :=
  match k with | .load | .loadU | .lr => .load | .store | .sc => .store | _ => .rmw

/-- The value an AMO writes. -/
def amoValue (k : HartAccess) (n old v : Nat) : Nat :=
  let a := sextN old (8 * n)
  let b := sextN v (8 * n)
  match k with
  | .amoAdd => (old + v) % 2 ^ (8 * n)
  | .amoAnd => old &&& v
  | .amoOr => old ||| v
  | .amoXor => old ^^^ v
  | .amoMin => if a ≤ b then old else v
  | .amoMax => if a ≤ b then v else old
  | .amoMinu => Nat.min old v
  | .amoMaxu => Nat.max old v
  | _ => v

/-- A hart's result of n bytes: sign-extended, but for an unsigned load. -/
def hartResult (k : HartAccess) (n x : Nat) : DWord := if k = .loadU then BitVec.ofNat 64 x else BitVec.ofInt 64 (sextN x (8 * n))

/-- A hart is the last writer of a line (R442). -/
def State.lastWrote (s : State) (n pa : Nat) : State := { s with lastWriter := Table.ins (pa / 256) n s.lastWriter }

/-- A hart writes memory through its Kudu's caches (R12). -/
def State.hartStore (s : State) (n pa size v : Nat) : State :=
  (s.kuduWrite (hartKudu n) s.hostClock pa (leBytes size v)).lastWrote n pa

/-- A hart writes memory at the home slice, as its atomics do (log entry 26, DEDUCED), and is its line's last writer (R442). -/
def State.hartWrite (s : State) (n pa size v : Nat) : State :=
  (s.homeWrite (hartKudu n) 0 32 s.hostClock pa (leBytes size v)).lastWrote n pa

/-- An access of a hart to memory at its physical address; `virt` says that it is made as a virtual machine's. -/
def State.hartMem (s : State) (n : Nat) (virt : Bool) (k : HartAccess) (rd : XReg) (va pa size : Nat) (value : DWord) : State :=
  let v := value.toNat % 2 ^ (8 * size)
  let bad := s.poisonAt pa size
  let poisoned := fun (s : State) => (s.kuduPoison (hartKudu n)).hartFault n { code := 19, virt := virt } (BitVec.ofNat 64 va)
  let read := fun (s : State) => s.hostSide pa size ({ bytes := s.bytesAt 0 pa size, poison := false, wv := 0 }, s)
  match k with
  | .load | .loadU =>
    if bad then poisoned s
    else
      let s := s.kuduTake (hartKudu n) pa
      let r := read s
      r.2.hartDone n rd (hartResult k size (leNat r.1.bytes))
  | .store => let s := s.hartStore n pa size v; s.setHart n (s.hartOf n).advance
  | k =>
    match s.hostCheck (hartParty n) pa with
    | .error r => (s.logScope (12 + hartKudu n) pa va r).hartFault n { code := 7, virt := virt } (BitVec.ofNat 64 va)
    | .ok kept =>
      if bad && decide (k ≠ .sc) then poisoned s
      else
        let r := read (kept.homeTake (hartKudu n) pa 32)
        let s := r.2
        let old := leNat r.1.bytes
        match k with
        | .lr => (s.setHart n { (s.hartOf n) with reserved := some (pa, (s.line (pa / 256)).wv) }).hartDone n rd (hartResult k size old)
        | .sc =>
          let ok := decide ((s.hartOf n).reserved = some (pa, (s.line (pa / 256)).wv))
          let s := if ok then s.hartWrite n pa size v else s
          (s.setHart n { (s.hartOf n) with reserved := none }).hartDone n rd (if ok then 0 else 1)
        | k => (s.hartWrite n pa size (amoValue k size old v)).hartDone n rd (hartResult k size old)

/-- The hub and offset of an address in a management window (R426). -/
def windowOf (pa : Nat) : Option (Nat × Nat) :=
  if 0x7FF0000000000 ≤ pa ∧ pa < 0x7FF0000000000 + 0x2000000 then
    some ((pa - 0x7FF0000000000) / 0x1000000, (pa - 0x7FF0000000000) % 0x1000000)
  else none

/-- Whether a hart may reach the management windows by an access: in M-mode or HS-mode, untranslated (R426). -/
def Hart.manages (h : Hart) (who : Nat × Bool) : Bool :=
  !h.virt && (decide (h.mode = 3) || decide (h.mode = 1)) && h.untranslated who

/-- An access of a hart, made at a privilege, whose address has been translated, or the exception: an access to a management window that is not an aligned
one of 4 or 8 bytes is an access fault, any other misaligned access an address misaligned exception (R406, R426). -/
def State.hartAccess (s : State) (hart : Nat) (who : Nat × Bool) (x : Except RvExc Nat) (kind : HartAccess) (rd : XReg) (va size : Nat) (value : DWord) : State :=
  let h := s.hartOf hart
  let isLoad := decide (hartAcc kind = .load)
  let fault := if isLoad then 5 else 7
  let exc := fun (s : State) (c : Nat) => s.hartFault hart { code := c, virt := who.2 } (BitVec.ofNat 64 va)
  let amo := !(kind == .load || kind == .loadU || kind == .store)
  let window := match x with | .ok pa => windowOf pa | .error _ => none
  match window with
  | some (hub, off) =>
    if !h.manages who || amo then exc s fault
    else match (if isLoad then s.mload hub off size else s.mstore hub off size value) with
      | .fault => exc s fault
      | .wait s => s
      | .ok v s => if isLoad then s.hartDone hart rd (hartResult kind size v.toNat) else s.setHart hart (s.hartOf hart).advance
  | none =>
    if !(size = 4 ∨ size = 8 ∨ ((size = 1 ∨ size = 2) ∧ amo = false)) ∨ va % size ≠ 0 then exc s (if isLoad then 4 else 6)
    else match x with
      | .error e => s.hartFault hart e (BitVec.ofNat 64 va)
      | .ok pa => if (paHome pa).isNone then exc s fault else s.hartMem hart who.2 kind rd va pa size value

/-- KUDU_HART_ACCESS: the checks of a hart's access in order, then the access (R216, R406, R426, R442). -/
def execKuduHartAccess (hart : Nat) (kind : HartAccess) (rd : XReg) (va size : Nat) (value : DWord) (s : State) : Out :=
  if 80 ≤ hart then .fault .noHart
  else
    let h := s.hartOf hart
    .next (if kind = .fence then s.setHart hart h.advance
      else s.hartAccess hart (h.accessAs (hartAcc kind)) (rvXlate s h (hartAcc kind) (va % 2 ^ 64)) kind rd va size value)

end Sys2Proof.Machine
end

