-- ==== Sys2Proof/Machine/Sync.lean ====
section
/-! DEFINITION. Named barriers, queue ports and join counters (R255 to R282). -/

namespace Sys2Proof.Machine

/-! ## Barriers (R273 to R277) -/

/-- When an update that a warp issues now is performed: in a window 12 or 14 cycles later (R272). -/
def Ctx.barDue (c : Ctx) : Nat :=
  match c.g.win with
  | some x => if c.w.inWindow then x.clock + c.lat 12 14 else 0
  | none => 0

/-- Queue a warp's barrier update on its way to the word. -/
def State.sendBar (s : State) (c : Ctx) (bar : BitVec 4) (k : BarChange) : State :=
  s.modWg c.w.wg (fun g => { g with barPend := g.barPend ++ [⟨bar.toNat, k, c.id, c.barDue⟩] })

/-- A barrier update of a warp (R273): an arrival makes the waits of a release at wg scope first (R259). -/
def barOp (h : Hdr) (bar : BitVec 4) (srcs : List Src) (release : Bool) (k : Ctx → BarChange) (s : State) : Out :=
  issue h { srcs := srcs, meld := false } s fun c s =>
    if release && !s.released c.id c.g c.w 2 then .wait .fence s else .done none (s.sendBar c bar (k c))

/-- BINIT: initialise a barrier (R274). -/
def execBinit (h : Hdr) (bar : BitVec 4) (a : Reg) (s : State) : Out :=
  issue h { srcs := [src0 a], meld := false } s fun c s =>
    let n := (c.lane0 a).toNat
    if n = 0 ∨ 255 < n then .trap (causeVal 0x41 0 (bar.setWidth 32)) s else .done none (s.sendBar c bar (.init n))

/-- BARV: arrive (R273). -/
def execBarv (h : Hdr) (bar : BitVec 4) (s : State) : Out := barOp h bar [] true (fun _ => .arrive) s

/-- BARV.EXP: arrive and expect bytes (R273). -/
def execBarvExp (h : Hdr) (bar : BitVec 4) (a : Reg) (s : State) : Out :=
  barOp h bar [src0 a] true (fun c => .arriveExp (c.lane0 a).toInt) s

/-- BEXP: expect bytes (R273). -/
def execBexp (h : Hdr) (bar : BitVec 4) (a : Reg) (s : State) : Out :=
  barOp h bar [src0 a] false (fun c => .expect (c.lane0 a).toInt) s

/-- BDROP: leave (R273). -/
def execBdrop (h : Hdr) (bar : BitVec 4) (s : State) : Out := barOp h bar [] false (fun _ => .drop) s

/-- A barrier word into a pair, in every lane. -/
def State.putWord (s : State) (c : Ctx) (dst : Reg) (x : DWord) (lat : Nat) : State :=
  (s.putAll c dst.toNat (x.setWidth 32) lat).putAll c (dst.toNat + 1) ((x >>> 32).setWidth 32) lat

/-- BWAIT: wait for a phase (R277); in a window the warp's own updates are performed first, each at its time (R272). The acquire waits for
the warp's loads (R259). R272 gives its result no latency: the pair lands 4 or 5 window cycles after the issue, as a `QMOV` pop's result
does (log entry 45, DESIGN CHOICE). -/
def execBwait (h : Hdr) (dst : Reg) (bar : BitVec 4) (a : Reg) (s : State) : Out :=
  issue h { srcs := [src0 a], dsts := [(dst.toNat, 2)], meld := false } s fun c s =>
    let p := (c.lane0 a).getLsbD 0
    if c.w.inWindow && c.g.barPend.any (fun u => decide (u.warp = c.id)) then .wait .barrier s else
    let s := s.settleBars c.w.wg c.id
    let now := s.barWord c.w.wg c.g bar.toNat
    let seen := match (match Table.find c.id s.warps with | some w => w.barWait | none => none) with
      | some (n, q, some x) => if n = bar.toNat ∧ q = p then some x else none
      | _ => none
    match (match seen with | some x => some x | none => if now.getLsbD 63 ≠ p then some now else none) with
    | none => .wait .barrier (s.modWarp c.id (fun w => { w with barWait := some (bar.toNat, p, none) }))
    | some x =>
      if !c.w.loaded then .wait .fence (s.modWarp c.id (fun w => { w with barWait := some (bar.toNat, p, some x) }))
      else .done none (((s.acquire c.id c.g 2).modWarp c.id (fun w => { w with barWait := none })).putWord c dst x (c.lat 4 5))

/-- BTEST: read a barrier word; the warp's own updates are in it (R189, R276). In a window the read goes to the word behind the updates
issued before it, and its result lands 12 or 14 cycles after the issue with what the read then finds (R272). -/
def execBtest (h : Hdr) (dst : Reg) (bar : BitVec 4) (s : State) : Out :=
  issue h { dsts := [(dst.toNat, 2)], meld := false } s fun c s =>
    if c.w.inWindow then
      .done none ((s.sendBar c bar (.test dst.toNat (c.wc + c.lat 12 14))).putWord c dst (s.barWord c.w.wg c.g bar.toNat) (c.lat 12 14))
    else
      let s := s.settleBars c.w.wg c.id
      .done none (s.putWord c dst (s.barWord c.w.wg c.g bar.toNat) (c.lat 12 14))

/-- BSYNC: arrive, and wait for the phase the arrival read to end; the update that ends it ends the wait, whatever follows (R275,
R277). -/
def execBsync (h : Hdr) (bar : BitVec 4) (s : State) : Out :=
  issue h { meld := false } s fun c s =>
    match c.w.bsync with
    | none =>
      if !s.released c.id c.g c.w 2 then .wait .fence s
      else .wait .barrier ((s.sendBar c bar .sync).modWarp c.id (fun w => { w with bsync := some none }))
    | some none => .wait .barrier s
    | some (some p) =>
      let ended := match c.w.barWait with | some (_, _, some _) => true | _ => decide ((s.barWord c.w.wg c.g bar.toNat).getLsbD 63 ≠ p)
      if !ended then .wait .barrier (s.modWarp c.id (fun w => { w with barWait := some (bar.toNat, p, none) }))
      else if !c.w.loaded then .wait .fence s
      else .done none ((s.acquire c.id c.g 2).modWarp c.id (fun w => { w with bsync := none, barWait := none }))

/-- BARRIER_UPDATE: a warp's update is performed at its word (R256, R257). -/
def execBarrierUpdate (gid i : Nat) (s : State) : Out := .next (s.performBarAt gid i)

/-! ## Queue ports (R264 to R267, R281, R282) -/

/-- The entries of a queue. -/
def Wg.queue (g : Wg) (q : Nat) : List QEntry := g.queues.getD q []

/-- Change a queue. -/
def State.setQueue (s : State) (gid q : Nat) (es : List QEntry) : State :=
  s.modWg gid (fun g => { g with queues := listSet q es g.queues })

/-- QMOV push (R264 to R266, R281). -/
def execQmovPush (h : Hdr) (q : BitVec 3) (a : Reg) (s : State) : Out :=
  issue h { srcs := [srcA a], meld := false } s fun c s =>
    let es := c.g.queue q.toNat
    if 4 ≤ es.length then .wait .queue s
    else if !s.released c.id c.g c.w 2 then .wait .fence s
    else
      let e : QEntry := ⟨laneBuild (fun l => if bitOf c.act l then c.w.rd a.toNat l else 0), c.act⟩
      .done none (s.setQueue c.w.wg q.toNat (es ++ [e]))

/-- QMOV pop: the oldest entry into the active lanes, then the acquire (R264 to R266, R281). -/
def execQmovPop (h : Hdr) (dst : Reg) (q : BitVec 3) (s : State) : Out :=
  issue h { dsts := [(dst.toNat, 1)], meld := false } s fun c s =>
    match c.g.queue q.toNat with
    | [] => .wait .queue s
    | e :: rest =>
      if !c.w.loaded then .wait .fence s
      else .done none (((s.setQueue c.w.wg q.toNat rest).acquire c.id c.g 2).put c dst.toNat c.act e.vals .general (c.lat 4 5))

/-- QMOV.PEEK: the oldest entry, which stays (R281). -/
def execQmovPeek (h : Hdr) (dst : Reg) (q : BitVec 3) (s : State) : Out :=
  issue h { dsts := [(dst.toNat, 1)], meld := false } s fun c s =>
    match c.g.queue q.toNat with
    | [] => .wait .queue s
    | e :: _ => .done none (s.put c dst.toNat c.act e.vals .general (c.lat 4 5))

/-- QMOV.STAT: the count of a queue (R282). -/
def execQmovStat (h : Hdr) (dst : Reg) (q : BitVec 3) (s : State) : Out :=
  issue h { dsts := [(dst.toNat, 1)], meld := false } s fun c s =>
    .done none (s.putAll c dst.toNat (BitVec.ofNat 32 (c.g.queue q.toNat).length) (c.lat 4 5))

/-! ## Join counters (R268, R269, R278 to R280) -/

/-- The address source of a join counter: lane 0's value (R271). -/
def joinSrc (sp : Space) (a : Reg) : Src := src0 a (if sp = .glob then 2 else 1)

/-- A join instruction: one access to the counter at lane 0's address (R268, R269, R271). -/
def joinOp (h : Hdr) (sc : BitVec 4) (sp : Space) (kind : SyncKind) (acc : AccessKind) (a : Reg) (srcs : List Src)
    (dst : Option Reg) (value : Ctx → Nat) (s : State) : Out :=
  issue h { srcs := joinSrc sp a :: srcs, dsts := (match dst with | some d => [(d.toNat, 1)] | none => []),
            window := false, meld := false, scope := some sc.toNat } s fun c s =>
    if c.w.sync.isSome then .wait c.w.wait s
    else
      let addr := c.w.addr sp a.toNat 0 0
      if s.bankHeld c.g.core sp [(0, addr)] then .wait .bank s else
      let r := checkLanes s c.g c.w.wg (spCode sp) 4 4 false acc (decide (sp = .priv)) [(0, addr)]
      match r.1 with
      | .bad x => .trap x r.2
      | .ok locs =>
        let req : SyncReq := {
          kind := kind, scope := sc.toNat, bytes := 4, space := spCode sp,
          lanes := locs.map (fun e => ⟨0, e.2.1, addr, e.2.2, value c, 0,
            (match dst with | some d => [c.w.slot d.toNat 0] | none => [])⟩) }
        if s.syncOrder c sc.toNat 4 locs then .wait .landing s
        else if kind.releases && !s.released c.id c.g c.w sc.toNat then .wait .fence s
        else (r.2.settleOver c 4 locs).present c req

/-- JADD: add to a join counter (R278). -/
def execJadd (h : Hdr) (sc : BitVec 4) (sp : Space) (a b : Reg) (s : State) : Out :=
  joinOp h sc sp .jadd .rmw a [src0 b] none (fun c => (c.lane0 b).toNat) s

/-- JARR: arrive on a join counter: subtract the enabled lanes (R278). -/
def execJarr (h : Hdr) (sc : BitVec 4) (sp : Space) (a : Reg) (s : State) : Out :=
  joinOp h sc sp .jadd .rmw a [] none (fun c => wrapI (-(maskCount c.w.exm : Int)) 32) s

/-- JWAIT: wait for a join counter to reach 0 (R280). -/
def execJwait (h : Hdr) (sc : BitVec 4) (sp : Space) (a : Reg) (s : State) : Out :=
  joinOp h sc sp .jwait .load a [] none (fun _ => 0) s

/-- JPOLL: read a join counter (R279). -/
def execJpoll (h : Hdr) (sc : BitVec 4) (sp : Space) (dst a : Reg) (s : State) : Out :=
  joinOp h sc sp .jpoll .load a [] (some dst) (fun _ => 0) s

end Sys2Proof.Machine
end

