-- ==== Sys2Proof/Machine/Dispatch.lean ====
section
/-! DEFINITION. The dispatch of an instruction or event to its meaning: one arm for each constructor of `Instr`. -/

namespace Sys2Proof.Machine

/-- What an instruction or event does to a state. -/
def exec (i : Instr) (s : State) : Host.Outcome State Fault Refusal :=
  match i with
  | .abs h dst a => Sys2Proof.Machine.execAbs h dst a s
  | .add h dst a b => Sys2Proof.Machine.execAdd h dst a b s
  | .addImm h dst a imm => Sys2Proof.Machine.execAddImm h dst a imm s
  | .sub h dst a b => Sys2Proof.Machine.execSub h dst a b s
  | .addSat h ty dst a b => Sys2Proof.Machine.execAddSat h ty dst a b s
  | .subSat h ty dst a b => Sys2Proof.Machine.execSubSat h ty dst a b s
  | .add64 h dst a b => Sys2Proof.Machine.execAdd64 h dst a b s
  | .sub64 h dst a b => Sys2Proof.Machine.execSub64 h dst a b s
  | .adda h sc dst a imm => Sys2Proof.Machine.execAdda h sc dst a imm s
  | .addx h ty sc dst a b => Sys2Proof.Machine.execAddx h ty sc dst a b s
  | .aff h dst a b => Sys2Proof.Machine.execAff h dst a b s
  | .andR h dst a b => Sys2Proof.Machine.execAndR h dst a b s
  | .andImm h dst a imm => Sys2Proof.Machine.execAndImm h dst a imm s
  | .orR h dst a b => Sys2Proof.Machine.execOrR h dst a b s
  | .orImm h dst a imm => Sys2Proof.Machine.execOrImm h dst a imm s
  | .xorR h dst a b => Sys2Proof.Machine.execXorR h dst a b s
  | .xorImm h dst a imm => Sys2Proof.Machine.execXorImm h dst a imm s
  | .andn h dst a b => Sys2Proof.Machine.execAndn h dst a b s
  | .bfi h dst a b c => Sys2Proof.Machine.execBfi h dst a b c s
  | .bfx h ty dst a b => Sys2Proof.Machine.execBfx h ty dst a b s
  | .brev h dst a => Sys2Proof.Machine.execBrev h dst a s
  | .clz h dst a => Sys2Proof.Machine.execClz h dst a s
  | .ctz h dst a => Sys2Proof.Machine.execCtz h dst a s
  | .popc h dst a => Sys2Proof.Machine.execPopc h dst a s
  | .form h dst a => Sys2Proof.Machine.execForm h dst a s
  | .li h dst imm => Sys2Proof.Machine.execLi h dst imm s
  | .mul h dst a b => Sys2Proof.Machine.execMul h dst a b s
  | .mulImm h dst a imm => Sys2Proof.Machine.execMulImm h dst a imm s
  | .mad h dst a b c => Sys2Proof.Machine.execMad h dst a b c s
  | .min h ty dst a b => Sys2Proof.Machine.execMin h ty dst a b s
  | .max h ty dst a b => Sys2Proof.Machine.execMax h ty dst a b s
  | .mulhi h ty dst a b => Sys2Proof.Machine.execMulhi h ty dst a b s
  | .mulw h ty dst a b => Sys2Proof.Machine.execMulw h ty dst a b s
  | .shl h dst a b => Sys2Proof.Machine.execShl h dst a b s
  | .shlImm h dst a n => Sys2Proof.Machine.execShlImm h dst a n s
  | .shr h dst a b => Sys2Proof.Machine.execShr h dst a b s
  | .shrImm h dst a n => Sys2Proof.Machine.execShrImm h dst a n s
  | .sra h dst a b => Sys2Proof.Machine.execSra h dst a b s
  | .sraImm h dst a n => Sys2Proof.Machine.execSraImm h dst a n s
  | .rol h dst a b => Sys2Proof.Machine.execRol h dst a b s
  | .rolImm h dst a n => Sys2Proof.Machine.execRolImm h dst a n s
  | .sel h dst a b c => Sys2Proof.Machine.execSel h dst a b c s
  | .set h cc dst a b => Sys2Proof.Machine.execSet h cc dst a b s
  | .rcp h dst a => Sys2Proof.Machine.execRcp h dst a s
  | .rsq h dst a => Sys2Proof.Machine.execRsq h dst a s
  | .ex2 h dst a => Sys2Proof.Machine.execEx2 h dst a s
  | .lg2 h dst a => Sys2Proof.Machine.execLg2 h dst a s
  | .sin h dst a => Sys2Proof.Machine.execSin h dst a s
  | .cos h dst a => Sys2Proof.Machine.execCos h dst a s
  | .tanh h dst a => Sys2Proof.Machine.execTanh h dst a s
  | .cvtF32Si32 h m dst a => Sys2Proof.Machine.execCvtF32Si32 h m dst a s
  | .cvtF32Ui32 h m dst a => Sys2Proof.Machine.execCvtF32Ui32 h m dst a s
  | .cvtSi32F32 h m dst a => Sys2Proof.Machine.execCvtSi32F32 h m dst a s
  | .cvtUi32F32 h m dst a => Sys2Proof.Machine.execCvtUi32F32 h m dst a s
  | .cvtBf16F32 h m dst a b c => Sys2Proof.Machine.execCvtBf16F32 h m dst a b c s
  | .cvtF16F32 h m dst a b c => Sys2Proof.Machine.execCvtF16F32 h m dst a b c s
  | .cvtE4m3F32 h half m dst a b c => Sys2Proof.Machine.execCvtE4m3F32 h half m dst a b c s
  | .cvtE5m2F32 h half m dst a b c => Sys2Proof.Machine.execCvtE5m2F32 h half m dst a b c s
  | .cvtF32Bf16 h half dst a => Sys2Proof.Machine.execCvtF32Bf16 h half dst a s
  | .cvtF32F16 h half dst a => Sys2Proof.Machine.execCvtF32F16 h half dst a s
  | .cvtF32E4m3 h byte dst a => Sys2Proof.Machine.execCvtF32E4m3 h byte dst a s
  | .cvtF32E5m2 h byte dst a => Sys2Proof.Machine.execCvtF32E5m2 h byte dst a s
  | .fabs h dst a => Sys2Proof.Machine.execFabs h dst a s
  | .fneg h dst a => Sys2Proof.Machine.execFneg h dst a s
  | .fadd h m dst a b => Sys2Proof.Machine.execFadd h m dst a b s
  | .fsub h m dst a b => Sys2Proof.Machine.execFsub h m dst a b s
  | .fmul h m dst a b => Sys2Proof.Machine.execFmul h m dst a b s
  | .ffma h m dst a b c => Sys2Proof.Machine.execFfma h m dst a b c s
  | .fclass h dst a => Sys2Proof.Machine.execFclass h dst a s
  | .fmin h dst a b => Sys2Proof.Machine.execFmin h dst a b s
  | .fmax h dst a b => Sys2Proof.Machine.execFmax h dst a b s
  | .frnd h m dst a => Sys2Proof.Machine.execFrnd h m dst a s
  | .fset h cc dst a b => Sys2Proof.Machine.execFset h cc dst a b s
  | .padd h f m dst a b => Sys2Proof.Machine.execPadd h f m dst a b s
  | .pmul h f m dst a b => Sys2Proof.Machine.execPmul h f m dst a b s
  | .pfma h f m dst a b c => Sys2Proof.Machine.execPfma h f m dst a b c s
  | .pmin h f dst a b => Sys2Proof.Machine.execPmin h f dst a b s
  | .pmax h f dst a b => Sys2Proof.Machine.execPmax h f dst a b s
  | .pdot h f m dst a b c => Sys2Proof.Machine.execPdot h f m dst a b c s
  | .qnt h q m dst a b c => Sys2Proof.Machine.execQnt h q m dst a b c s
  | .qpk h q dst a => Sys2Proof.Machine.execQpk h q dst a s
  | .qunpk h q dst a => Sys2Proof.Machine.execQunpk h q dst a s
  | .spmk h dst a => Sys2Proof.Machine.execSpmk h dst a s
  | .spcmp h dst a b => Sys2Proof.Machine.execSpcmp h dst a b s
  | .bra h off => Sys2Proof.Machine.execBra h off s
  | .braAll h off => Sys2Proof.Machine.execBraAll h off s
  | .braNone h off => Sys2Proof.Machine.execBraNone h off s
  | .brs h live off => Sys2Proof.Machine.execBrs h live off s
  | .call h link off => Sys2Proof.Machine.execCall h link off s
  | .endmeld h => Sys2Proof.Machine.execEndmeld h s
  | .exit h => Sys2Proof.Machine.execExit h s
  | .jmp h a => Sys2Proof.Machine.execJmp h a s
  | .jmpl h dst a => Sys2Proof.Machine.execJmpl h dst a s
  | .ret h a => Sys2Proof.Machine.execRet h a s
  | .loop h n off => Sys2Proof.Machine.execLoop h n off s
  | .mand h dst a => Sys2Proof.Machine.execMand h dst a s
  | .mandn h dst a => Sys2Proof.Machine.execMandn h dst a s
  | .meld h vp => Sys2Proof.Machine.execMeld h vp s
  | .melse h a => Sys2Proof.Machine.execMelse h a s
  | .mset h a => Sys2Proof.Machine.execMset h a s
  | .mvote h dst a => Sys2Proof.Machine.execMvote h dst a s
  | .nop h => Sys2Proof.Machine.execNop h s
  | .rnm h idx x y => Sys2Proof.Machine.execRnm h idx x y s
  | .align h a => Sys2Proof.Machine.execAlign h a s
  | .unalign h => Sys2Proof.Machine.execUnalign h s
  | .ld h sp k dst a imm => Sys2Proof.Machine.execLd h sp k dst a imm s
  | .st h sp k d a imm => Sys2Proof.Machine.execSt h sp k d a imm s
  | .flushG h a imm => Sys2Proof.Machine.execFlushG h a imm s
  | .invalG h a imm => Sys2Proof.Machine.execInvalG h a imm s
  | .lda h sp w dst a tok => Sys2Proof.Machine.execLda h sp w dst a tok s
  | .sopenLd h slot rec coord => Sys2Proof.Machine.execSopenLd h slot rec coord s
  | .sopenSt h slot rec coord => Sys2Proof.Machine.execSopenSt h slot rec coord s
  | .sclose h slot => Sys2Proof.Machine.execSclose h slot s
  | .sld h w dst slot => Sys2Proof.Machine.execSld h w dst slot s
  | .sst h w slot a => Sys2Proof.Machine.execSst h w slot a s
  | .sstat h dst slot => Sys2Proof.Machine.execSstat h dst slot s
  | .sstatStall h dst slot => Sys2Proof.Machine.execSstatStall h dst slot s
  | .sstatPoison h dst slot => Sys2Proof.Machine.execSstatPoison h dst slot s
  | .bankmode h dst a b => Sys2Proof.Machine.execBankmode h dst a b s
  | .bankq h dst a b => Sys2Proof.Machine.execBankq h dst a b s
  | .ldaq h sc sp w64 dst a => Sys2Proof.Machine.execLdaq h sc sp w64 dst a s
  | .strl h sc sp w64 a b => Sys2Proof.Machine.execStrl h sc sp w64 a b s
  | .atomAdd h sc sp w64 dst a b => Sys2Proof.Machine.execAtomAdd h sc sp w64 dst a b s
  | .atomAddF32 h sc sp dst a b => Sys2Proof.Machine.execAtomAddF32 h sc sp dst a b s
  | .atomMin h ty sc sp dst a b => Sys2Proof.Machine.execAtomMin h ty sc sp dst a b s
  | .atomMax h ty sc sp dst a b => Sys2Proof.Machine.execAtomMax h ty sc sp dst a b s
  | .atomAnd h sc sp w64 dst a b => Sys2Proof.Machine.execAtomAnd h sc sp w64 dst a b s
  | .atomOr h sc sp w64 dst a b => Sys2Proof.Machine.execAtomOr h sc sp w64 dst a b s
  | .atomXor h sc sp w64 dst a b => Sys2Proof.Machine.execAtomXor h sc sp w64 dst a b s
  | .atomExch h sc sp w64 dst a b => Sys2Proof.Machine.execAtomExch h sc sp w64 dst a b s
  | .atomCas h sc sp w64 dst a b => Sys2Proof.Machine.execAtomCas h sc sp w64 dst a b s
  | .atomInc h sc sp dst a b => Sys2Proof.Machine.execAtomInc h sc sp dst a b s
  | .redAdd h sc sp w64 a b => Sys2Proof.Machine.execRedAdd h sc sp w64 a b s
  | .redAddF32 h sc sp a b => Sys2Proof.Machine.execRedAddF32 h sc sp a b s
  | .redMin h ty sc sp a b => Sys2Proof.Machine.execRedMin h ty sc sp a b s
  | .redMax h ty sc sp a b => Sys2Proof.Machine.execRedMax h ty sc sp a b s
  | .redAnd h sc sp w64 a b => Sys2Proof.Machine.execRedAnd h sc sp w64 a b s
  | .redOr h sc sp w64 a b => Sys2Proof.Machine.execRedOr h sc sp w64 a b s
  | .redXor h sc sp w64 a b => Sys2Proof.Machine.execRedXor h sc sp w64 a b s
  | .fenceRel h sc => Sys2Proof.Machine.execFenceRel h sc s
  | .fenceAcq h sc => Sys2Proof.Machine.execFenceAcq h sc s
  | .fenceAr h sc => Sys2Proof.Machine.execFenceAr h sc s
  | .binit h bar a => Sys2Proof.Machine.execBinit h bar a s
  | .barv h bar => Sys2Proof.Machine.execBarv h bar s
  | .barvExp h bar a => Sys2Proof.Machine.execBarvExp h bar a s
  | .bexp h bar a => Sys2Proof.Machine.execBexp h bar a s
  | .bdrop h bar => Sys2Proof.Machine.execBdrop h bar s
  | .bwait h dst bar a => Sys2Proof.Machine.execBwait h dst bar a s
  | .btest h dst bar => Sys2Proof.Machine.execBtest h dst bar s
  | .bsync h bar => Sys2Proof.Machine.execBsync h bar s
  | .qmovPush h q a => Sys2Proof.Machine.execQmovPush h q a s
  | .qmovPop h dst q => Sys2Proof.Machine.execQmovPop h dst q s
  | .qmovPeek h dst q => Sys2Proof.Machine.execQmovPeek h dst q s
  | .qmovStat h dst q => Sys2Proof.Machine.execQmovStat h dst q s
  | .jadd h sc sp a b => Sys2Proof.Machine.execJadd h sc sp a b s
  | .jarr h sc sp a => Sys2Proof.Machine.execJarr h sc sp a s
  | .jwait h sc sp a => Sys2Proof.Machine.execJwait h sc sp a s
  | .jpoll h sc sp dst a => Sys2Proof.Machine.execJpoll h sc sp dst a s
  | .cpyG2p h bar rec coord follow => Sys2Proof.Machine.execCpyG2p h bar rec coord follow s
  | .cpyP2g h bar rec coord follow => Sys2Proof.Machine.execCpyP2g h bar rec coord follow s
  | .cpyC2p h bar rec coord follow => Sys2Proof.Machine.execCpyC2p h bar rec coord follow s
  | .cpyP2c h bar rec coord follow => Sys2Proof.Machine.execCpyP2c h bar rec coord follow s
  | .cpyG2c h bar rec coord follow => Sys2Proof.Machine.execCpyG2c h bar rec coord follow s
  | .cpylG h bar va vd => Sys2Proof.Machine.execCpylG h bar va vd s
  | .drnSt h bar rec coord => Sys2Proof.Machine.execDrnSt h bar rec coord s
  | .drnAdd h bar rec coord => Sys2Proof.Machine.execDrnAdd h bar rec coord s
  | .cperr h dst => Sys2Proof.Machine.execCperr h dst s
  | .btalloc h dst a b c => Sys2Proof.Machine.execBtalloc h dst a b c s
  | .btshare h dst a b c => Sys2Proof.Machine.execBtshare h dst a b c s
  | .btcow h dst a b => Sys2Proof.Machine.execBtcow h dst a b s
  | .btfree h dst a b => Sys2Proof.Machine.execBtfree h dst a b s
  | .btmove h dst a b c => Sys2Proof.Machine.execBtmove h dst a b c s
  | .btrd h dst a b => Sys2Proof.Machine.execBtrd h dst a b s
  | .btstat h dst a => Sys2Proof.Machine.execBtstat h dst a s
  | .mma h af wf rec coord => Sys2Proof.Machine.execMma h af wf rec coord s
  | .mmaSp h af wf rec coord => Sys2Proof.Machine.execMmaSp h af wf rec coord s
  | .mlw h wf rec coord => Sys2Proof.Machine.execMlw h wf rec coord s
  | .mlwSp h wf rec coord => Sys2Proof.Machine.execMlwSp h wf rec coord s
  | .aclr h a => Sys2Proof.Machine.execAclr h a s
  | .ard h dst a b => Sys2Proof.Machine.execArd h dst a b s
  | .awr h a b c => Sys2Proof.Machine.execAwr h a b c s
  | .mstat h dst => Sys2Proof.Machine.execMstat h dst s
  | .mstatClr h dst => Sys2Proof.Machine.execMstatClr h dst s
  | .sacc h init sf mode a b c => Sys2Proof.Machine.execSacc h init sf mode a b c s
  | .opb h a => Sys2Proof.Machine.execOpb h a s
  | .taskend h => Sys2Proof.Machine.execTaskend h s
  | .prio h a => Sys2Proof.Machine.execPrio h a s
  | .wgq h dst a => Sys2Proof.Machine.execWgq h dst a s
  | .pktst h a => Sys2Proof.Machine.execPktst h a s
  | .srd h dst sr => Sys2Proof.Machine.execSrd h dst sr s
  | .swr h a sr => Sys2Proof.Machine.execSwr h a sr s
  | .tret h => Sys2Proof.Machine.execTret h s
  | .tretNext h => Sys2Proof.Machine.execTretNext h s
  | .brk h imm => Sys2Proof.Machine.execBrk h imm s
  | .trapi h imm => Sys2Proof.Machine.execTrapi h imm s
  | .xrd h dst n => Sys2Proof.Machine.execXrd h dst n s
  | .xwr h a n => Sys2Proof.Machine.execXwr h a n s
  | .cxrd h dst item => Sys2Proof.Machine.execCxrd h dst item s
  | .cxwr h a item => Sys2Proof.Machine.execCxwr h a item s
  | .pmrd h dst a => Sys2Proof.Machine.execPmrd h dst a s
  | .pmrst h => Sys2Proof.Machine.execPmrst h s
  | .genwait h dst a => Sys2Proof.Machine.execGenwait h dst a s
  | .wgabort h a => Sys2Proof.Machine.execWgabort h a s
  | .vspawn rd rs1 rs2 rs3 => Sys2Proof.Machine.execVspawn rd rs1 rs2 rs3 s
  | .vjoin rd rs1 => Sys2Proof.Machine.execVjoin rd rs1 s
  | .vpoll rd rs1 => Sys2Proof.Machine.execVpoll rd rs1 s
  | .vjadd rd rs1 rs2 => Sys2Proof.Machine.execVjadd rd rs1 rs2 s
  | .vqbind rd rs1 rs2 => Sys2Proof.Machine.execVqbind rd rs1 rs2 s
  | .vqwait rd => Sys2Proof.Machine.execVqwait rd s
  | .spawnCsrAccess hart csr write value rd => Sys2Proof.Machine.execSpawnCsrAccess hart csr write value rd s
  | .trapEntry w c => Sys2Proof.Machine.execTrapEntry w c s
  | .fouloReport w c => Sys2Proof.Machine.execFouloReport w c s
  | .fouloResume w => Sys2Proof.Machine.execFouloResume w s
  | .fouloDeliver w => Sys2Proof.Machine.execFouloDeliver w s
  | .fouloSave w => Sys2Proof.Machine.execFouloSave w s
  | .fouloTerminate w => Sys2Proof.Machine.execFouloTerminate w s
  | .fouloKill w => Sys2Proof.Machine.execFouloKill w s
  | .asyncEventDelivery w => Sys2Proof.Machine.execAsyncEventDelivery w s
  | .referenceTick chip => Sys2Proof.Machine.execReferenceTick chip s
  | .watchdogStall w => Sys2Proof.Machine.execWatchdogStall w s
  | .watchdogOperator g => Sys2Proof.Machine.execWatchdogOperator g s
  | .resultLanding w idx => Sys2Proof.Machine.execResultLanding w idx s
  | .ldaLanding w idx => Sys2Proof.Machine.execLdaLanding w idx s
  | .windowStart g => Sys2Proof.Machine.execWindowStart g s
  | .windowResume g => Sys2Proof.Machine.execWindowResume g s
  | .windowEnd g => Sys2Proof.Machine.execWindowEnd g s
  | .binTimeout g bin => Sys2Proof.Machine.execBinTimeout g bin s
  | .warpForm core => Sys2Proof.Machine.execWarpForm core s
  | .streamElementForm core => Sys2Proof.Machine.execStreamElementForm core s
  | .streamDataReturn g slot => Sys2Proof.Machine.execStreamDataReturn g slot s
  | .translationWalk core fetch asid va acc => Sys2Proof.Machine.execTranslationWalk core fetch asid va acc s
  | .writeAtOwner core idx => Sys2Proof.Machine.execWriteAtOwner core idx s
  | .scopeCheckerAnswer w => Sys2Proof.Machine.execScopeCheckerAnswer w s
  | .barrierUpdate g idx => Sys2Proof.Machine.execBarrierUpdate g idx s
  | .leatOperationStart core drain => Sys2Proof.Machine.execLeatOperationStart core drain s
  | .leatLanding core idx n => Sys2Proof.Machine.execLeatLanding core idx n s
  | .leatArrival core idx => Sys2Proof.Machine.execLeatArrival core idx s
  | .followOnDelivery core idx => Sys2Proof.Machine.execFollowOnDelivery core idx s
  | .followOnEnterQueue core => Sys2Proof.Machine.execFollowOnEnterQueue core s
  | .blockCopyDone core idx => Sys2Proof.Machine.execBlockCopyDone core idx s
  | .blockReclaim hub idx => Sys2Proof.Machine.execBlockReclaim hub idx s
  | .poolReturnRetry hub => Sys2Proof.Machine.execPoolReturnRetry hub s
  | .matrixCommandStart core idx => Sys2Proof.Machine.execMatrixCommandStart core idx s
  | .matrixCommandComplete core idx => Sys2Proof.Machine.execMatrixCommandComplete core idx s
  | .doorbellWrite hub q value => Sys2Proof.Machine.execDoorbellWrite hub q value s
  | .packetTake hub q => Sys2Proof.Machine.execPacketTake hub q s
  | .packetCompletion p => Sys2Proof.Machine.execPacketCompletion p s
  | .bindRecordWrite hub slot w0 w1 w2 w3 => Sys2Proof.Machine.execBindRecordWrite hub slot w0 w1 w2 w3 s
  | .dispatchPlace hub => Sys2Proof.Machine.execDispatchPlace hub s
  | .workgroupRetire g => Sys2Proof.Machine.execWorkgroupRetire g s
  | .operatorBoundaryReached g => Sys2Proof.Machine.execOperatorBoundaryReached g s
  | .cooperativeHold p => Sys2Proof.Machine.execCooperativeHold p s
  | .workgroupResume g core => Sys2Proof.Machine.execWorkgroupResume g core s
  | .sluiceGrant hub arb reqs => Sys2Proof.Machine.execSluiceGrant hub arb reqs s
  | .sluiceGuaranteeWrite hub arb vdev value => Sys2Proof.Machine.execSluiceGuaranteeWrite hub arb vdev value s
  | .weirRotation hub => Sys2Proof.Machine.execWeirRotation hub s
  | .admissionLimitWrite core limit => Sys2Proof.Machine.execAdmissionLimitWrite core limit s
  | .partitionChange part vdev cores => Sys2Proof.Machine.execPartitionChange part vdev cores s
  | .preemptSliceEnd hub isPart target => Sys2Proof.Machine.execPreemptSliceEnd hub isPart target s
  | .preemptUrgentHalt hub isPart target => Sys2Proof.Machine.execPreemptUrgentHalt hub isPart target s
  | .preemptComplete hub => Sys2Proof.Machine.execPreemptComplete hub s
  | .slotResume hub slot => Sys2Proof.Machine.execSlotResume hub slot s
  | .contextKill vdev => Sys2Proof.Machine.execContextKill vdev s
  | .killAck vdev unit => Sys2Proof.Machine.execKillAck vdev unit s
  | .killDrainComplete vdev => Sys2Proof.Machine.execKillDrainComplete vdev s
  | .bankControlWrite chip cluster bank value => Sys2Proof.Machine.execBankControlWrite chip cluster bank value s
  | .tlbInvalidate hub scope asid va => Sys2Proof.Machine.execTlbInvalidate hub scope asid va s
  | .powerWakeP0 hub port core => Sys2Proof.Machine.execPowerWakeP0 hub port core s
  | .powerEnterC2 hub port core => Sys2Proof.Machine.execPowerEnterC2 hub port core s
  | .powerLimitWrite hub value => Sys2Proof.Machine.execPowerLimitWrite hub value s
  | .temperatureLimitWrite hub value => Sys2Proof.Machine.execTemperatureLimitWrite hub value s
  | .c1Entry core => Sys2Proof.Machine.execC1Entry core s
  | .c1Wake core => Sys2Proof.Machine.execC1Wake core s
  | .deepSleep hub => Sys2Proof.Machine.execDeepSleep hub s
  | .s3Wake => Sys2Proof.Machine.execS3Wake s
  | .btDescriptorWrite hub t word value => Sys2Proof.Machine.execBtDescriptorWrite hub t word value s
  | .poolDescriptorWrite hub n word value => Sys2Proof.Machine.execPoolDescriptorWrite hub n word value s
  | .poolPush hub n block => Sys2Proof.Machine.execPoolPush hub n block s
  | .poolPop hub n => Sys2Proof.Machine.execPoolPop hub n s
  | .managementRegisterWrite hub off size value => Sys2Proof.Machine.execManagementRegisterWrite hub off size value s
  | .linkTrained hub port cap => Sys2Proof.Machine.execLinkTrained hub port cap s
  | .trainingFail hub port => Sys2Proof.Machine.execTrainingFail hub port s
  | .chipletAck hub port => Sys2Proof.Machine.execChipletAck hub port s
  | .isolateCommand hub port => Sys2Proof.Machine.execIsolateCommand hub port s
  | .linkDown hub port => Sys2Proof.Machine.execLinkDown hub port s
  | .chipletFatalError hub port => Sys2Proof.Machine.execChipletFatalError hub port s
  | .isolation hub port => Sys2Proof.Machine.execIsolation hub port s
  | .portResetCommand hub port => Sys2Proof.Machine.execPortResetCommand hub port s
  | .flitReceive hub port dir seq good msg => Sys2Proof.Machine.execFlitReceive hub port dir seq good msg s
  | .flitReplay hub port dir => Sys2Proof.Machine.execFlitReplay hub port dir s
  | .equalisationPass hub port m => Sys2Proof.Machine.execEqualisationPass hub port m s
  | .equalisationEnd hub port m ok => Sys2Proof.Machine.execEqualisationEnd hub port m ok s
  | .laneFallback hub port m => Sys2Proof.Machine.execLaneFallback hub port m s
  | .droopResponse loc mv => Sys2Proof.Machine.execDroopResponse loc mv s
  | .frequencyStep loc => Sys2Proof.Machine.execFrequencyStep loc s
  | .patrolScrub hub sector found => Sys2Proof.Machine.execPatrolScrub hub sector found s
  | .scrubPeriodAdjust hub kind corrections => Sys2Proof.Machine.execScrubPeriodAdjust hub kind corrections s
  | .ringResponseTimeout w idx => Sys2Proof.Machine.execRingResponseTimeout w idx s
  | .remoteRequest m seq req => Sys2Proof.Machine.execRemoteRequest m seq req s
  | .remoteRouteTimeout w idx => Sys2Proof.Machine.execRemoteRouteTimeout w idx s
  | .kuduCachePoisonInterrupt hart line => Sys2Proof.Machine.execKuduCachePoisonInterrupt hart line s
  | .tenantPoisonHold hub vdev => Sys2Proof.Machine.execTenantPoisonHold hub vdev s
  | .eventPost hub q kind detail => Sys2Proof.Machine.execEventPost hub q kind detail s
  | .connectionOpen saiga conn desc => Sys2Proof.Machine.execConnectionOpen saiga conn desc s
  | .sendLineNotify saiga conn n => Sys2Proof.Machine.execSendLineNotify saiga conn n s
  | .segmentReceive saiga conn seq data => Sys2Proof.Machine.execSegmentReceive saiga conn seq data s
  | .ackReceive saiga conn upto => Sys2Proof.Machine.execAckReceive saiga conn upto s
  | .idcert => Sys2Proof.Machine.execIdcert s
  | .wcreate w vdev owner => Sys2Proof.Machine.execWcreate w vdev owner s
  | .wdestroy w => Sys2Proof.Machine.execWdestroy w s
  | .extend r item label => Sys2Proof.Machine.execExtend r item label s
  | .lock => Sys2Proof.Machine.execLock s
  | .readlog seq => Sys2Proof.Machine.execReadlog seq s
  | .evidence vdev nonce => Sys2Proof.Machine.execEvidence vdev nonce s
  | .wrelease w sig => Sys2Proof.Machine.execWrelease w sig s
  | .podevidence nonce => Sys2Proof.Machine.execPodevidence nonce s
  | .podMemberAnswer m record => Sys2Proof.Machine.execPodMemberAnswer m record s
  | .podGatherTimeout => Sys2Proof.Machine.execPodGatherTimeout s
  | .moduleReset => Sys2Proof.Machine.execModuleReset s
  | .managementRegisterRead hub off size => Sys2Proof.Machine.execManagementRegisterRead hub off size s
  | .retransmission saiga conn => Sys2Proof.Machine.execRetransmission saiga conn s
  | .connectionClose saiga conn => Sys2Proof.Machine.execConnectionClose saiga conn s
  | .hartInterrupt hart n => Sys2Proof.Machine.execHartInterrupt hart n s
  | .kuduHartAccess hart kind rd va size value => Sys2Proof.Machine.execKuduHartAccess hart kind rd va size value s

end Sys2Proof.Machine
end

