-- ==== Sys2Proof/Machine/Outside.lean ====
section
/-! DEFINITION. What comes from outside the machine, or from Foulo and the debugger where no register of the spec holds it: the
debugger's settings and its reads and writes of a halted context, settings of Foulo, and the errors that checks find (R220, R391, R392,
R435, R436, R440, R442, R444, R447; log entry 5, DESIGN CHOICE). -/

namespace Sys2Proof.Machine

/-- Whether the debugger may read the context of a workgroup: it is halted, or it has been saved (R387, R391, R392). -/
def Wg.inspected (g : Wg) : Bool :=
  g.status == .reported || g.status == .debug || g.status == .halting || g.status == .saved

/-- Whether the debugger may write the context of a workgroup: it is halted, of world 0 (R391, R392). -/
def Wg.writable (g : Wg) : Bool := (g.status == .reported || g.status == .debug || g.status == .halting) && decide (g.world = 0)

/-- The image of a workgroup's context as the debugger reads it: plain for world 0, sealed for any other (R389, R391). -/
def State.debugImage (s : State) (gid : Nat) (g : Wg) : List Byte := s.contextImage gid g (g.image.getD (s.placeImage gid g))

/-- What is written to `sr.cause`: its reserved bits stay 0 (R4, Table 12.3). -/
def causeWritten (x : Word) : Word := x &&& 0xF000FFFF#32

/-- What is written to a copy error record: its reserved bits stay 0 (R4, Table 09.5). -/
def errWritten (l : List Word) : List Word :=
  let w0 := l.getD 0 0 &&& 0xFFF0FFC0#32
  let code := bits w0.toNat 31 24
  [w0, l.getD 1 0, l.getD 2 0, l.getD 3 0 &&& (if code = 0x18 ∨ code = 0x19 then 0xFFFF#32 else 0x1FFFFFF#32)]

/-- The items of Table 12.5 of a warp take the values that the debugger writes, reserved bits apart (R4); who it is, what it was granted and
what it has outstanding at storage stay. -/
def Warp.rewrite (old new : Warp) : Warp :=
  { new.regs.foldl (fun w e => w.setReg e.1 e.2) old with
    pc := new.pc, exm := new.exm, entryMask := new.entryMask, meldReg := new.meldReg, paths := new.paths, ren0 := new.ren0, ren1 := new.ren1
    loops := new.loops, trap := new.trap, window := new.window, melded := new.melded, cause := causeWritten new.cause, epc := new.epc, epch := new.epch, tval := new.tval, tvalh := new.tvalh
    trapMask := new.trapMask, cych := new.cych, prio := new.prio, step := new.step, landing := new.landing.take 64, lastWc := new.lastWc
    async := new.async, stall := new.stall, pv := (List.range 7).map (fun i => new.pv.getD i 0), floor := new.floor
    ov := new.ov, wmax := new.wmax, unflushed := new.unflushed }

/-- A stream slot takes the record, position and counts that the debugger writes; its elements under way stay. -/
def Stream.rewrite (old new : Stream) : Stream :=
  { old with record := new.record, coords := new.coords, total := new.total, poisoned := new.poisoned, poisonCount := Nat.min (2 ^ 32 - 1) new.poisonCount
             stallCount := Nat.min (2 ^ 32 - 1) new.stallCount }

/-- A Millpond entry takes the contents that the debugger writes; its place, size and world stay. -/
def PondEntry.rewrite (old new : PondEntry) : PondEntry :=
  { new with world := old.world, bytes := old.bytes, inBank := old.inBank, arrival := old.arrival }

/-- The entries of a table whose keys another table has take that table's values through an update. -/
def rewriteTable {α : Type} (f : α → α → α) (old new : Table α) : Table α :=
  old.map (fun e => match Table.find e.1 new with | some x => (e.1, f e.2 x) | none => e)

/-- The items of Table 12.5 that a workgroup holds outside its warps and its scratchpad take the values that the debugger writes, each
within its bounds; who it is, what it was granted and what it has outstanding stay. -/
def Wg.rewrite (old new : Wg) : Wg :=
  { old with
    queues := (List.range 8).map (fun q => (new.queues.getD q []).take 4)
    streams := rewriteTable Stream.rewrite old.streams new.streams
    pond := old.pond.zipIdx.map (fun e => match new.pond[e.2]? with | some x => e.1.rewrite x | none => e.1)
    win := match old.win, new.win with
      | some a, some b => some { b with frozen := a.frozen, startIn := a.startIn }
      | a, _ => a
    opCount := new.opCount, binWait := new.binWait, mstat := new.mstat &&& 0xF#32, acc := new.acc, accMarks := new.accMarks, mills := new.mills
    errRec := errWritten new.errRec, opb := new.opb, perf := (List.range 16).map (fun i => new.perf.getD i 0) }

/-- Put bytes into a workgroup's private scratchpad, no further than it reaches. -/
def State.writeScratch (s : State) (gid : Nat) (g : Wg) (off : Nat) (bs : List Byte) : State :=
  if g.scratch ≤ off then s else s.putPieces 0 [(locPriv gid off, bs.take (g.scratch - off))]

/-- A Kudu writes a line back: poison found in it goes to the hart that wrote it last (R442). -/
def State.kuduWriteback (s : State) (kudu line : Nat) : State :=
  let held := (Table.find (line * 128 + kuduCluster kudu) s.dir).isSome
  let s := s.release (kuduCluster kudu) line
  match Table.find line s.lastWriter with
  | some h => if held && decide (hartKudu h = kudu) && s.poisonAt (line * 256) 256 then (s.raiseIrq h 16).kuduPoison kudu else s
  | none => s

/-- What comes from outside takes effect. -/
def State.outside (s : State) : Outside → State
  | .breakpoints core l => s.modCore core (fun c => { c with brk := (l.take 4).map (· % 2 ^ 57) })
  | .watchpoints core l => s.modCore core (fun c => { c with watch := l.take 2 })
  | .stepBit id on => s.withWarp id fun _ g => if g.world = 0 then s.modWarp id (fun w => { w with step := on }) else s
  | .readContext gid off n => match Table.find gid s.wgs with
    | some g => if g.inspected then { s with dbgOut := ((s.debugImage gid g).drop off).take n } else s
    | none => s
  | .writeWarp id new => s.withWarp id fun _ g => if g.writable then s.modWarp id (fun w => w.rewrite new) else s
  | .writeGroup gid new => match Table.find gid s.wgs with
    | some g => if g.writable then s.modWg gid (fun g => g.rewrite new) else s
    | none => s
  | .writeScratch gid off bs => match Table.find gid s.wgs with
    | some g => if g.writable then s.writeScratch gid g off bs else s
    | none => s
  | .leaseLength n => if 16 ≤ n ∧ n ≤ 65536 then { s with lambda := n } else s
  | .loopBounds hub loop lo hi => s.narrowLoop hub loop lo hi
  | .recovery hub slot on => s.modSlot hub slot (fun x => { x with recover := on })
  | .rebind hub queue hart => if hart < 80 ∧ queue < 1024 then s.bindQueues hart hub [queue] else s
  | .errRegister id slot lane bad => s.errRegister id slot lane bad
  | .errLanding id i lane bad => s.errLanding id i lane bad
  | .errPrivate gid off bad => s.errPrivate gid off bad
  | .errTile gid elem bad => s.errTile gid elem bad
  | .errMill gid buf col bad => s.errMill gid buf col bad
  | .errPond gid i reg bad => s.errPond gid i reg bad
  | .errDirectory line bad => s.errDirectory line bad
  | .errPayload id i => s.errPayload id i
  | .kuduWriteback kudu line => s.kuduWriteback kudu line
  | .spill hub port => s.spill hub port
  | .podPolicy leader module => s.podPolicy leader module
  | .podRequest nonce => s.memberEvidence nonce

end Sys2Proof.Machine
end

