-- ==== Sys2Proof/Machine/RiscV.lean ====
section
/-! DEFINITION. The RISC-V base of a Kudu hart: RV64I with multiplication, atomics, CSRs, the supervisor levels and the hypervisor
extension. R406 has the harts follow the RISC-V specifications and lays none of it down; it is written from general knowledge of them
(log entry 10, PRESUMED). -/

namespace Sys2Proof.Machine

/-! ## Arithmetic -/

/-- A double word as a signed number. -/
def sgn (x : DWord) : Int := x.toInt

/-- A 32-bit result, sign-extended. -/
def word32 (x : Nat) : DWord := BitVec.ofInt 64 (sextN (x % 2 ^ 32) 32)

/-- Division of two numbers of some width: by zero it gives all ones, and the most negative number by -1 gives itself. -/
def rvDiv (signed : Bool) (w a b : Nat) : Nat :=
  if b = 0 then 2 ^ w - 1 else if signed then wrapI (Int.tdiv (sextN a w) (sextN b w)) w else a / b

/-- Remainder of two numbers of some width: by zero it gives the dividend. -/
def rvRem (signed : Bool) (w a b : Nat) : Nat :=
  if b = 0 then a else if signed then wrapI (Int.tmod (sextN a w) (sextN b w)) w else a % b

/-- The operations of OP and OP-IMM by funct7 and funct3. -/
def rvOp (f7 f3 : Nat) (a b : DWord) : Option DWord :=
  let sh := b.toNat % 64
  match f7, f3 with
  | 0, 0 => some (a + b)
  | 0, 1 => some (a <<< sh)
  | 0, 2 => some (if sgn a < sgn b then 1 else 0)
  | 0, 3 => some (if a.toNat < b.toNat then 1 else 0)
  | 0, 4 => some (a ^^^ b)
  | 0, 5 => some (a >>> sh)
  | 0, 6 => some (a ||| b)
  | 0, 7 => some (a &&& b)
  | 0x20, 0 => some (a - b)
  | 0x20, 5 => some (a.sshiftRight sh)
  | 1, 0 => some (a * b)
  | 1, 1 => some (BitVec.ofInt 64 (sgn a * sgn b / 2 ^ 64))
  | 1, 2 => some (BitVec.ofInt 64 (sgn a * b.toNat / 2 ^ 64))
  | 1, 3 => some (BitVec.ofNat 64 (a.toNat * b.toNat / 2 ^ 64))
  | 1, 4 => some (BitVec.ofNat 64 (rvDiv true 64 a.toNat b.toNat))
  | 1, 5 => some (BitVec.ofNat 64 (rvDiv false 64 a.toNat b.toNat))
  | 1, 6 => some (BitVec.ofNat 64 (rvRem true 64 a.toNat b.toNat))
  | 1, 7 => some (BitVec.ofNat 64 (rvRem false 64 a.toNat b.toNat))
  | _, _ => none

/-- The operations of OP-32 and OP-IMM-32 by funct7 and funct3. -/
def rvOpW (f7 f3 : Nat) (a b : DWord) : Option DWord :=
  let x := a.toNat % 2 ^ 32
  let y := b.toNat % 2 ^ 32
  let sh := y % 32
  match f7, f3 with
  | 0, 0 => some (word32 (x + y))
  | 0, 1 => some (word32 (x * 2 ^ sh))
  | 0, 5 => some (word32 (x / 2 ^ sh))
  | 0x20, 0 => some (word32 (x + 2 ^ 32 - y))
  | 0x20, 5 => some (BitVec.ofInt 64 (sextN x 32 / 2 ^ sh))
  | 1, 0 => some (word32 (x * y))
  | 1, 4 => some (word32 (rvDiv true 32 x y))
  | 1, 5 => some (word32 (rvDiv false 32 x y))
  | 1, 6 => some (word32 (rvRem true 32 x y))
  | 1, 7 => some (word32 (rvRem false 32 x y))
  | _, _ => none

/-- The condition of a branch, none where funct3 names none. -/
def rvBranch (f3 : Nat) (a b : DWord) : Option Bool :=
  match f3 with
  | 0 => some (decide (a = b))
  | 1 => some (decide (a ≠ b))
  | 4 => some (decide (sgn a < sgn b))
  | 5 => some (decide (sgn b ≤ sgn a))
  | 6 => some (decide (a.toNat < b.toNat))
  | 7 => some (decide (b.toNat ≤ a.toNat))
  | _ => none

/-! ## Immediates -/

/-- The immediate of an I-format word. -/
def immI (w : Nat) : Int := sextN (bits w 31 20) 12

/-- The immediate of an S-format word. -/
def immS (w : Nat) : Int := sextN (bits w 31 25 * 32 + bits w 11 7) 12

/-- The immediate of a B-format word. -/
def immB (w : Nat) : Int := sextN (bits w 31 31 * 2 ^ 12 + bits w 7 7 * 2 ^ 11 + bits w 30 25 * 32 + bits w 11 8 * 2) 13

/-- The immediate of a U-format word. -/
def immU (w : Nat) : Int := sextN (bits w 31 12 * 2 ^ 12) 32

/-- The immediate of a J-format word. -/
def immJ (w : Nat) : Int := sextN (bits w 31 31 * 2 ^ 20 + bits w 19 12 * 2 ^ 12 + bits w 20 20 * 2 ^ 11 + bits w 30 21 * 2) 21

/-! ## CSRs -/

/-- The sum of some bits. -/
def bitMask (l : List Nat) : Nat := l.foldl (fun n k => n + 2 ^ k) 0

/-- The bits of `sstatus` and `vsstatus` that can be written. -/
def sstatusMask : Nat := bitMask [1, 5, 8, 18, 19]

/-- The bits of a CSR that software can write; none where the CSR does not exist or is another's view. -/
def csrMask (n : Nat) : Option Nat :=
  if n ∈ [0x105, 0x205, 0x305] then some (2 ^ 64 - 3)
  else if n ∈ [0x141, 0x241, 0x341] then some (2 ^ 64 - 4)
  else if n ∈ [0x140, 0x142, 0x143, 0x240, 0x242, 0x243, 0x340, 0x342, 0x343, 0x34A, 0x34B, 0x643, 0x64A, 0x605, 0x180, 0x280] then some (2 ^ 64 - 1)
  else if n = 0x680 then some (2 ^ 64 - 4)
  else if n ∈ [0x106, 0x306, 0x606] then some (2 ^ 32 - 1)
  else if n = 0x300 then some (bitMask [1, 3, 5, 7, 8, 11, 12, 17, 18, 19, 20, 21, 22, 38, 39])
  else if n = 0x200 then some sstatusMask
  else if n = 0x302 then some (bitMask [0, 1, 2, 3, 4, 5, 6, 7, 8, 9, 10, 12, 13, 15, 19, 20, 21, 22, 23])
  else if n = 0x602 then some (bitMask [0, 1, 2, 3, 4, 5, 6, 7, 8, 12, 13, 15])
  else if n = 0x303 then some (bitMask [1, 5, 9, 16])
  else if n = 0x603 then some (bitMask [2, 6, 10])
  else if n = 0x304 then some (bitMask [1, 2, 3, 5, 6, 7, 9, 10, 11, 12, 16])
  else if n = 0x344 then some (bitMask [1, 5, 9])
  else if n = 0x645 then some (bitMask [2, 6, 10])
  else if n = 0x600 then some (bitMask [6, 7, 8, 9, 20, 21, 22])
  else if n ∈ [0x301, 0x30A, 0x10A, 0x60A, 0x320, 0x607, 0xE12, 0xF11, 0xF12, 0xF13, 0xF14, 0xF15] then some 0
  else if (0xB00 ≤ n ∧ n ≤ 0xB1F ∧ n ≠ 0xB01) ∨ (0x323 ≤ n ∧ n ≤ 0x33F) ∨ (0xC00 ≤ n ∧ n ≤ 0xC1F) then some 0
  else if (0x3A0 ≤ n ∧ n ≤ 0x3AF ∧ n % 2 = 0) ∨ (0x3B0 ≤ n ∧ n ≤ 0x3EF) then some 0
  else none

/-- The CSR that another is a view of, the bits it shows, and by how many places they are moved down. -/
def Hart.csrView (h : Hart) (n : Nat) : Option (Nat × Nat × Nat) :=
  let vs := bits (h.csr 0x603).toNat 63 0 &&& bitMask [2, 6, 10]
  if n = 0x100 then some (0x300, sstatusMask, 0)
  else if n = 0x104 then some (0x304, (h.csr 0x303).toNat, 0)
  else if n = 0x144 then some (0x344, (h.csr 0x303).toNat, 0)
  else if n = 0x604 then some (0x304, bitMask [2, 6, 10, 12], 0)
  else if n = 0x644 then some (0x344, bitMask [2, 6, 10, 12], 0)
  else if n = 0x204 then some (0x304, vs, 1)
  else if n = 0x244 then some (0x344, vs, 1)
  else none

/-- The CSR a number names for a hart: in VS-mode and VU-mode a supervisor CSR stands for the virtual supervisor's. -/
def Hart.csrName (h : Hart) (n : Nat) : Nat := if h.virt && decide (n ∈ [0x100, 0x104, 0x105, 0x140, 0x141, 0x142, 0x143, 0x144, 0x180]) then n + 0x100 else n

/-- What a CSR that is no view holds: the pending interrupts, the fixed fields of status registers, and what is written. -/
def Hart.csrBase (h : Hart) (hart n : Nat) : Nat :=
  let x := (h.csr n).toNat
  if n = 0x300 then x + 10 * 2 ^ 32
  else if n = 0x200 ∨ n = 0x600 then x + 2 * 2 ^ 32
  else if n = 0x301 then 2 * 2 ^ 62 + 0x141181
  else if n = 0x303 then x ||| bitMask [2, 6, 10, 12]
  else if n = 0x344 then bitMask (dedup h.irqs)
  else if n = 0xF14 then hart
  else x

/-- What a CSR reads as. -/
def Hart.csrRead (h : Hart) (hart n : Nat) : Nat :=
  match h.csrView n with
  | some (m, mask, k) => (h.csrBase hart m &&& mask) / 2 ^ k + (if n = 0x100 then 2 * 2 ^ 32 else 0)
  | none => h.csrBase hart n

/-- Whether a CSR exists. -/
def Hart.csrThere (h : Hart) (n : Nat) : Bool := (h.csrView n).isSome || (csrMask n).isSome

/-- Write a CSR: a field that cannot hold the value written keeps its own; a write of a virtual software interrupt goes to `hvip`. -/
def Hart.csrWrite (h : Hart) (n v : Nat) : Hart :=
  let put := fun (h : Hart) (m mask x : Nat) => match csrMask m with
    | none => h
    | some w =>
      let keep := mask &&& w
      h.setCsr m (BitVec.ofNat 64 (((h.csr m).toNat &&& (2 ^ 64 - 1 - keep)) ||| (x &&& keep)))
  match h.csrView n with
  | some (m, mask, k) =>
    let h := if n = 0x644 ∨ n = 0x244 then put h 0x645 (mask &&& bitMask [2]) (v * 2 ^ k) else h
    put h m (if n = 0x144 then mask &&& bitMask [1] else mask) (v * 2 ^ k)
  | none =>
    if n = 0x300 ∧ bits v 12 11 = 2 then put h n (2 ^ 64 - 1 - bitMask [11, 12]) v
    else if (n = 0x180 ∨ n = 0x280 ∨ n = 0x680) ∧ bits v 63 60 ∉ [0, 8, 9, 10] then h
    else put h n (2 ^ 64 - 1) v

/-- The exception of an access to a CSR by its number, none where the hart may make it. -/
def Hart.csrExc (h : Hart) (n : Nat) (write : Bool) : Option Nat :=
  let level := bits n 9 8
  let m := h.csrName n
  let counter := decide (0xC00 ≤ n) && decide (n ≤ 0xC1F)
  let off := fun (k : Nat) => !(h.csr k).getLsbD (n % 32)
  if write && decide (bits n 11 10 = 3) then some 2
  else if !h.csrThere m then some 2
  else if h.virt then
    (if level = 3 then some 2
      else if level = 2 ∨ (level = 1 ∧ h.mode = 0) then some 22
      else if n = 0x180 ∧ (h.csr 0x600).getLsbD 20 = true then some 22
      else if counter && off 0x306 then some 2
      else if counter && (off 0x606 || (decide (h.mode = 0) && off 0x106)) then some 22
      else none)
  else if (level = 3 ∧ h.mode ≠ 3) ∨ (1 ≤ level ∧ h.mode = 0) then some 2
  else if (n = 0x180 ∨ n = 0x680) ∧ h.mode = 1 ∧ (h.csr 0x300).getLsbD 20 = true then some 2
  else if counter && decide (h.mode ≠ 3) && (off 0x306 || (decide (h.mode = 0) && off 0x106)) then some 2
  else none

/-- Whether a CSR counts cycles, time or instructions: its value is free (log entry 10, PRESUMED). -/
def countsTime (n : Nat) : Bool := decide (n ∈ [0xB00, 0xB02, 0xC00, 0xC01, 0xC02])

/-- A CSR instruction: the old value to rd, and the new one unless it sets or clears by x0. -/
def State.rvCsr (s : State) (n : Nat) (h : Hart) (w : Nat) : State :=
  let f3 := bits w 14 12
  let rd := bits w 11 7
  let src : Nat := if 4 ≤ f3 then bits w 19 15 else (h.x (bits w 19 15)).toNat
  let write := decide (f3 % 4 = 1) || decide (bits w 19 15 ≠ 0)
  let num := bits w 31 20
  let new := fun (old : Nat) => match f3 % 4 with | 1 => src | 2 => old ||| src | _ => old &&& (2 ^ 64 - 1 - src)
  let exc := fun (c : Nat) => s.hartExc n c (BitVec.ofNat 64 w)
  let spawn : Option CsrName := if num = 0x5C0 then some .vspq else if num = 0x5C1 then some .vhasid else none
  match spawn with
  | some c => match h.denied with
    | some e => exc e
    | none =>
      let h' := if write then h.setSpawnCsr c (BitVec.ofNat 64 (new (h.spawnCsr c).toNat)) else h
      s.setHart n ((h'.setX rd (h.spawnCsr c)).advance)
  | none => match h.csrExc num write with
    | some e => exc e
    | none =>
      let m := h.csrName num
      let f := if countsTime m then s.takeFree else (0, s)
      let old := if countsTime m then Config.freeNat f.1 % 2 ^ 64 else h.csrRead n m
      let h' := if write then h.csrWrite m (new old % 2 ^ 64) else h
      f.2.setHart n ((h'.setX rd (BitVec.ofNat 64 old)).advance)

/-! ## System instructions -/

/-- MRET. -/
def Hart.mret (h : Hart) : Hart :=
  let st := h.csr 0x300
  let mpp := bits st.toNat 12 11
  let st' := dwField (dwField (dwField (dwField st 3 1 (st.getLsbD 7).toNat) 7 1 1) 11 2 0) 39 1 0
  { (h.setCsr 0x300 (if mpp = 3 then st' else dwField st' 17 1 0)) with
    mode := BitVec.ofNat 2 mpp, virt := st.getLsbD 39 && decide (mpp ≠ 3), pc := h.csr 0x341, waiting := false }

/-- SRET, of HS-mode and M-mode, or of VS-mode. -/
def Hart.sret (h : Hart) : Hart :=
  let back := fun (st : DWord) => dwField (dwField (dwField st 1 1 (st.getLsbD 5).toNat) 5 1 1) 8 1 0
  if h.virt then
    { (h.setCsr 0x200 (back (h.csr 0x200))) with mode := BitVec.ofNat 2 ((h.csr 0x200).getLsbD 8).toNat, pc := h.csr 0x241, waiting := false }
  else
    { ((h.setCsr 0x300 (dwField (back (h.csr 0x300)) 17 1 0)).setCsr 0x600 (dwField (h.csr 0x600) 7 1 0)) with
      mode := BitVec.ofNat 2 ((h.csr 0x300).getLsbD 8).toNat, virt := (h.csr 0x600).getLsbD 7, pc := h.csr 0x141, waiting := false }

/-- The exception of a privileged instruction that needs S-mode: `trap` is the bit of `mstatus` that makes it illegal in HS-mode, and of
`hstatus` that makes it a virtual instruction exception in VS-mode. -/
def Hart.superExc (h : Hart) (trap : Nat) : Option Nat :=
  if h.virt then (if h.mode = 0 ∨ (h.csr 0x600).getLsbD trap = true then some 22 else none)
  else if h.mode = 0 ∨ (h.mode = 1 ∧ (h.csr 0x300).getLsbD trap = true) then some 2
  else none

/-- The exception of `WFI`: below M-mode `mstatus.TW` makes it illegal, in a virtual machine too; else `hstatus.VTW` there, and U-mode. -/
def Hart.wfiExc (h : Hart) : Option Nat :=
  if h.mode = 3 then none else if (h.csr 0x300).getLsbD 21 then some 2 else h.superExc 21

/-- WFI: wait until an interrupt that is enabled for the hart is pending (R413, R446). -/
def Hart.wfi (h : Hart) : Hart := if h.irqs.any (fun k => (h.csr 0x304).getLsbD k) then h.advance else { h with waiting := true }

/-- The SYSTEM instructions of funct3 0, none where the word is no instruction. -/
def Hart.system (h : Hart) (w : Nat) : Option (Nat ⊕ Hart) :=
  let guard := fun (e : Option Nat) (x : Hart) => match e with | some c => some (Sum.inl c) | none => some (Sum.inr x)
  let hyper := fun (trap : Nat) => if h.virt then some 22 else h.superExc trap
  if w = 0x73 then some (.inl (if h.mode = 3 then 11 else if h.mode = 0 then 8 else if h.virt then 10 else 9))
  else if w = 0x100073 then some (.inl 3)
  else if w = 0x30200073 then (if h.mode = 3 then some (.inr h.mret) else some (.inl 2))
  else if w = 0x10200073 then guard (h.superExc 22) h.sret
  else if w = 0x10500073 then guard h.wfiExc h.wfi
  else if bits w 11 7 ≠ 0 then none
  else match bits w 31 25 with
    | 0x09 => guard (h.superExc 20) h.advance
    | 0x11 => guard (hyper 64) h.advance
    | 0x31 => guard (hyper 20) h.advance
    | _ => none

/-- The hypervisor's accesses to a guest's memory, by funct7 and rs2: kind, size, and whether execute permission stands in for read
(HLV, HLVX, HSV). -/
def hyperAccess (f7 rs2 rd : Nat) : Option (HartAccess × Nat × Bool) :=
  let size := 2 ^ ((f7 - 0x30) / 2)
  if f7 < 0x30 ∨ 0x37 < f7 then none
  else if f7 % 2 = 1 then (if rd = 0 then some (.store, size, false) else none)
  else match rs2 with
    | 0 => some (.load, size, false)
    | 1 => if size = 8 then none else some (.loadU, size, false)
    | 3 => if size = 2 ∨ size = 4 then some (.loadU, size, true) else none
    | _ => none

/-! ## One instruction -/

/-- The atomic of a funct5. -/
def amoOf (f5 rs2 : Nat) : Option HartAccess :=
  match f5 with
  | 0 => some .amoAdd | 1 => some .amoSwap | 2 => if rs2 = 0 then some .lr else none | 3 => some .sc
  | 4 => some .amoXor | 8 => some .amoOr | 0xC => some .amoAnd | 0x10 => some .amoMin | 0x14 => some .amoMax
  | 0x18 => some .amoMinu | 0x1C => some .amoMaxu | _ => none

/-- A hart goes to an address with a link; one that is no multiple of 4 is a misaligned address. -/
def State.rvJump (s : State) (n : Nat) (h : Hart) (rd : Nat) (t : DWord) : State :=
  if t.toNat % 4 ≠ 0 then s.hartExc n 0 t
  else s.setHart n { (h.setX rd (h.pc + 4)) with pc := t, waiting := false }

/-- A hart executes a word of the RISC-V base. -/
def State.runRv (s : State) (n : Nat) (word : BitVec 32) : State :=
  let h := s.hartOf n
  let w := word.toNat
  let rd := bits w 11 7
  let f3 := bits w 14 12
  let f7 := bits w 31 25
  let a := h.x (bits w 19 15)
  let b := h.x (bits w 24 20)
  let exc := fun (c : Nat) (v : DWord) => s.hartExc n c v
  let done := fun (r : Option DWord) => match r with
    | some v => s.setHart n ((h.setX rd v).advance)
    | none => exc 2 (BitVec.ofNat 64 w)
  let at_ := fun (i : Int) => a + BitVec.ofInt 64 i
  let mem := fun (k : HartAccess) (va : DWord) (size : Nat) =>
    s.hartAccess n (h.accessAs (hartAcc k)) (rvXlate s h (hartAcc k) va.toNat) k (BitVec.ofNat 5 rd) va.toNat size b
  match bits w 6 0 with
  | 0x37 => done (some (BitVec.ofInt 64 (immU w)))
  | 0x17 => done (some (h.pc + BitVec.ofInt 64 (immU w)))
  | 0x6F => s.rvJump n h rd (h.pc + BitVec.ofInt 64 (immJ w))
  | 0x67 => if f3 = 0 then s.rvJump n h rd (at_ (immI w) &&& ~~~1) else done none
  | 0x63 => match rvBranch f3 a b with
    | some true => s.rvJump n h 0 (h.pc + BitVec.ofInt 64 (immB w))
    | some false => s.setHart n h.advance
    | none => done none
  | 0x03 => if f3 = 7 then done none else mem (if 4 ≤ f3 then .loadU else .load) (at_ (immI w)) (2 ^ (f3 % 4))
  | 0x23 => if 4 ≤ f3 then done none else mem .store (at_ (immS w)) (2 ^ f3)
  | 0x13 =>
    if f3 = 1 ∨ f3 = 5 then
      (if bits w 31 26 = 0 then done (rvOp 0 f3 a (BitVec.ofNat 64 (bits w 25 20)))
        else if bits w 31 26 = 0x10 ∧ f3 = 5 then done (rvOp 0x20 5 a (BitVec.ofNat 64 (bits w 25 20)))
        else done none)
    else done (rvOp 0 f3 a (BitVec.ofInt 64 (immI w)))
  | 0x1B =>
    if f3 = 0 then done (rvOpW 0 0 a (BitVec.ofInt 64 (immI w)))
    else if f7 = 0 ∨ (f7 = 0x20 ∧ f3 = 5) then done (rvOpW f7 f3 a (BitVec.ofNat 64 (bits w 24 20)))
    else done none
  | 0x33 => done (rvOp f7 f3 a b)
  | 0x3B => done (rvOpW f7 f3 a b)
  | 0x0F => if f3 ≤ 1 then s.setHart n h.advance else done none
  | 0x2F => match (if f3 = 2 ∨ f3 = 3 then amoOf (bits w 31 27) (bits w 24 20) else none) with
    | some k => mem k a (2 ^ f3)
    | none => done none
  | 0x73 =>
    if f3 = 0 then match h.system w with
      | none => done none
      | some (.inr h') => s.setHart n h'
      | some (.inl c) => exc c (if c = 2 ∨ c = 22 then BitVec.ofNat 64 w else if c = 3 then h.pc else 0)
    else if f3 = 4 then match hyperAccess f7 (bits w 24 20) rd with
      | none => done none
      | some (k, size, x) =>
        if h.virt then exc 22 (BitVec.ofNat 64 w)
        else if h.mode = 0 ∧ (h.csr 0x600).getLsbD 9 = false then exc 2 (BitVec.ofNat 64 w)
        else s.hartAccess n (((h.csr 0x600).getLsbD 8).toNat, true) (rvXlateAs s h ((h.csr 0x600).getLsbD 8).toNat true x (hartAcc k) a.toNat) k (BitVec.ofNat 5 rd) a.toNat size b
    else s.rvCsr n h w
  | _ => done none

end Sys2Proof.Machine
end

