-- ==== Sys2Proof/Machine/Run.lean ====
section
/-! DEFINITION. Running one agent: a warp issues the word it fetches, the participants of a window issue a window cycle, a
core's group serves one of its warps, a hart executes the word it fetches, an event happens; and whose turn it is (R23, R37, R39, R148
to R153, R362, R366, R483; log entry 5, DESIGN CHOICE). -/

namespace Sys2Proof.Machine

/-- A warp issues its next word: fetch from the code section mapped for its core (R359), the path-select test, a debugger's code
breakpoint, decode, and the meaning of the instruction. -/
def State.issueWord (s : State) (id : Nat) : Out :=
  match Table.find id s.warps with
  | none => .next s
  | some w =>
    match Table.find w.wg s.wgs with
    | none => .next s
    | some g =>
      if !(s.core g.core).tasks.contains g.pkt then .next s
      else
      let r := s.fetchWord w g
      match r.1 with
      | .bad c => .next (r.2.raise id c)
      | .word x =>
        if w.skipsRaw (Raw.ofWord x) then .next (r.2.modWarp id (fun w => { w with pc := w.next, wait := .none }))
        else if r.2.breaks w g then .next (r.2.raise id (fetchCause w 0x48 1 0))
        else match decodeVodon x with
          | .ok i => exec i { r.2 with me := id }
          | .error e => .next (r.2.raise id (decodeCause e))

/-! ## What an issue takes of its core's time (R72, R73, R109, R152, R155, R204) -/

/-- The instruction a warp is due to issue, if its word can be fetched and is one. -/
def State.dueInstr (s : State) (w : Warp) (g : Wg) : Option Instr :=
  match (s.fetchWord w g).1 with
  | .word x => match decodeVodon x with | .ok i => some i | .error _ => none
  | .bad _ => none

/-- The gap of the word a warp is due to issue (R39); 0 where none can be fetched. -/
def State.gapOf (s : State) (w : Warp) (g : Wg) : Nat :=
  match (s.fetchWord w g).1 with
  | .word x => (Raw.ofWord x).gap.toNat
  | .bad _ => 0

/-- Whether the word a warp is due to issue is a command of the matrix queue or orders itself against it: majors 0x3C and 0x3D, and the
drains (R328). -/
def State.matrixNext (s : State) (w : Warp) (g : Wg) : Bool :=
  match (s.fetchWord w g).1 with
  | .word x => let r := Raw.ofWord x; decide (r.major = 0x3C ∨ r.major = 0x3D ∨ (r.major = 0x3A ∧ 0x10 ≤ r.minor.toNat))
  | .bad _ => false

/-- The cycles for which an instruction of the lane datapath occupies it (Tables 03.2, 04.3, 05.9, 12.8). -/
def Instr.occupies : Instr → Nat
  | .mad .. | .mul .. | .mulImm .. | .mulhi .. | .mulw .. => 2
  | .add64 .. | .sub64 .. | .adda .. | .addx .. => 2
  | .qpk .. | .qunpk .. | .spcmp .. | .spmk .. | .brs .. => 2
  | .cos .. | .ex2 .. | .lg2 .. | .rcp .. | .rsq .. | .sin .. | .tanh .. => 4
  | _ => 1

/-- The cycles for which an instruction holds the core's private port (R204). -/
def Instr.portHold (c : Hdr → Ctx) : Instr → Nat
  | .ld h .priv k _ a imm => passes (ldBytes k) ((c h).addrs .priv a imm.toInt)
  | .lda h .priv w _ a _ => passes (widthBytes w) ((c h).addrs .priv a 0)
  | .st h .priv k _ a imm => passes (stBytes k) ((c h).addrs .priv a imm.toInt)
  | _ => 0

/-- The latency of the results that a reader in a window may still miss: 7 or more (R3, R148). -/
def Instr.slowness (c : Hdr → Ctx) (eland : Bool) : Instr → Nat
  | .cos .. | .ex2 .. | .lg2 .. | .rcp .. | .rsq .. | .sin .. | .tanh .. => if eland then 12 else 10
  | .mad .. | .mul .. | .mulImm .. | .mulhi .. | .mulw .. | .qpk .. | .qunpk .. | .spcmp .. | .spmk .. => if eland then 7 else 6
  | .btest .. => if eland then 14 else 12
  | .bankq .. => if eland then 34 else 30
  | .ld h .priv k _ a imm => (if eland then 10 else 8) + (passes (ldBytes k) ((c h).addrs .priv a imm.toInt) - 1)
  | _ => 0

/-- Whether a branch is taken, whatever its target (R131, R152, R163). -/
def Instr.taken (c : Hdr → Ctx) : Instr → Bool
  | .bra h _ => !h.g || decide ((c h).act ≠ 0)
  | .call h _ _ => !h.g || decide ((c h).act ≠ 0)
  | .braAll h _ => !h.g || decide ((c h).act = (c h).w.exm)
  | .braNone h _ => decide ((c h).act = 0)
  | .loop h n _ => decide (((c h).g.loops.getD n.val ⟨0, .absent⟩).mark = .temporal)
      && decide (((c h).w.loops.getD n.val 0).toNat + 1 < ((c h).g.loops.getD n.val ⟨0, .absent⟩).extent)
  | _ => false

/-- The cycles after its issue before which the warp does not issue again (Table 05.9); `spawned` is what a `BRS` has written. -/
def Instr.nextIssue (c : Hdr → Ctx) (spawned : Nat) (i : Instr) : Nat :=
  if Instr.taken c i then 3
  else match i with
    | .jmp .. | .ret .. | .jmpl .. => 6
    | .meld .. | .endmeld .. => 2
    | .brs .. => 3 + (spawned + 255) / 256
    | _ => 1

/-- One issue that a core's slots may make: the warp, its place in its workgroup, its group, what it takes of the lane datapath and of
the private port, and whether it is a matrix command. -/
structure Due where
  id : Nat
  idx : Nat
  group : Nat
  occ : Nat
  port : Nat
  matrix : Bool
deriving DecidableEq, Repr

/-- The cycle from which on a warp may issue (R152, R155, R272). -/
def Pace.open_ (p : Pace) (d : Due) : Bool :=
  decide (Table.get 0 d.id p.notBefore ≤ p.now) && decide (Table.get 0 d.group p.slotFree ≤ p.now)
    && (decide (d.occ = 0) || decide (Table.get 0 d.group p.laneFree ≤ p.now)) && (decide (d.port = 0) || decide (p.portFree ≤ p.now))

/-- The first cycle in which the slot, the datapath and the port that an issue needs are free of those before it (R483). -/
def Pace.place (p : Pace) (d : Due) : Nat :=
  Nat.max p.now (Nat.max (Table.get 0 d.group p.slotFree)
    (Nat.max (if d.occ = 0 then 0 else Table.get 0 d.group p.laneFree) (if d.port = 0 then 0 else p.portFree)))

/-- An issue in a cycle takes its slot, the datapath and the port. -/
def Pace.take (p : Pace) (d : Due) (t : Nat) : Pace :=
  { p with
    slotFree := Table.ins d.group (t + 1) p.slotFree
    laneFree := if d.occ = 0 then p.laneFree else Table.ins d.group (t + d.occ) p.laneFree
    portFree := if d.port = 0 then p.portFree else t + d.port }

/-- The core cycles of the issues of one window cycle, given in ascending `sr.warp` (R483). -/
def Pace.spread (p : Pace) : List Due → List (Due × Nat) × Pace
  | [] => ([], p)
  | d :: ds => let t := p.place d; let r := (p.take d t).spread ds; ((d, t) :: r.1, r.2)

/-- Change what a core keeps of its time. -/
def State.modPace (s : State) (core : Nat) (f : Pace → Pace) : State := s.modCore core (fun c => { c with pace := f c.pace })

/-- A performance counter of a workgroup, for comparison. -/
def State.perfOf (s : State) (gid sel : Nat) : DWord := match Table.find gid s.wgs with | some g => g.perf.getD sel 0 | none => 0

/-- What an issue of a warp would take, judged by the state after it: an instruction occupies the lane datapath if it was issued to
it. -/
def State.dueOf (s t : State) (id : Nat) (w : Warp) (g : Wg) : Due :=
  match s.dueInstr w g with
  | none => ⟨id, w.idx, w.group, 0, 0, false⟩
  | some i => ⟨id, w.idx, w.group, if s.perfOf w.wg 2 = t.perfOf w.wg 2 then 0 else Instr.occupies i,
      Instr.portHold (fun h => ⟨id, w, g, w.active h⟩) i, s.matrixNext w g⟩

/-- What a core notes of an issue made in a cycle: when the warp may issue again, the results that are still on their way, and the bins
that have received entries (R142, R148, R155). -/
def State.noteIssue (s s' : State) (core id : Nat) (w : Warp) (g : Wg) (t : Nat) : State :=
  match s.dueInstr w g with
  | none => s'
  | some i =>
    let c := fun h => (⟨id, w, g, w.active h⟩ : Ctx)
    let spawned := (s'.perfOf w.wg 12 - s.perfOf w.wg 12).toNat
    let slow := if w.inWindow then 0 else Instr.slowness c (coreEland core) i
    let late := match Table.find id s'.warps with
      | some w' => if slow = 0 then [] else (w'.regs.filter (fun e => decide (w.reg e.1 ≠ e.2))).map (fun e =>
          (⟨id, e.1, w.reg e.1, t + slow⟩ : Late))
      | none => []
    let bins : List Nat := match Table.find w.wg s'.wgs with
      | some g' => (g'.pond.drop g.pond.length).map (fun e => binClock w.wg e.bin)
      | none => []
    s'.modPace core (fun p => { p with
      notBefore := Table.ins id (t + Instr.nextIssue c spawned i) p.notBefore
      late := p.late ++ late
      bins := bins.foldl (fun b k => Table.ins k t b) p.bins })

/-! ## A window's cycle (R148 to R153, R483) -/

/-- What a warp waits for after an issue, `none` for a warp that has gone. -/
def State.waitOf (s : State) (id : Nat) : Wait :=
  match Table.find id s.warps with | some w => w.wait | none => .none

/-- Whether a warp stands in a `BSYNC` that it had not yet entered (R275). -/
def State.entersBsync (s s' : State) (id : Nat) : Bool :=
  match Table.find id s.warps, Table.find id s'.warps with
  | some w, some w' => w.bsync.isNone && w'.bsync.isSome
  | _, _ => false

/-- Whether a warp that has just issued waits with nothing done: a `BSYNC` that arrives has issued, though it waits. -/
def State.holdsBack (s s' : State) (id : Nat) : Bool := decide (s'.waitOf id ≠ .none) && !s.entersBsync s' id

/-- The state in which a warp would stand if it issued now. -/
def State.trial (s : State) (id : Nat) : State := match s.issueWord id with | .next s' => s' | _ => s

/-- A warp waits as it would after an issue that was not made; a stalled `SLD` has counted its cycle (R198). -/
def State.waitAs (s s' : State) (id : Nat) : State :=
  match Table.find id s'.warps with
  | some w' =>
    let s := s.modWarp id (fun w => { w with wait := w'.wait, barWait := w'.barWait })
    if w'.wait = .stream then s.modWg w'.wg (fun g => { g with streams := match Table.find w'.wg s'.wgs with
      | some g' => g'.streams
      | none => g.streams }) else s
  | none => s

/-- The participants whose next instruction is due at a window cycle, in ascending `sr.warp` (R39, R483). -/
def State.windowDue (s : State) (gid : Nat) (g : Wg) (cycle : Nat) : List (Nat × Warp) :=
  sortBy (fun a b => decide (a.2.idx ≤ b.2.idx))
    ((s.wgWarps gid).filter (fun e => e.2.inWindow && decide (e.2.lastWc + 1 + s.gapOf e.2 g ≤ cycle)))

/-- A window's cycle is over: the next begins, and the results due in it land (R74, R148). -/
def State.windowAdvance (s : State) (gid : Nat) : State :=
  match Table.find gid s.wgs with
  | none => s
  | some g => match g.win with
    | none => s
    | some x =>
      if x.frozen then s
      else
        let c := x.cycle + 1
        let s := s.modWg gid (fun g => { g with win := some { x with cycle := c } })
        (s.wgWarps gid).foldl (fun s e => s.modWarp e.1 (fun w => w.landDue c)) s

/-- A window stands frozen for some more core cycles (R149). -/
def State.windowStall (s : State) (gid : Nat) (n : Nat := 1) : State :=
  s.modWg gid (fun g => { g with win := g.win.map (fun x => { x with stalls := x.stalls + n }) })

/-- The order of the issues of one window cycle: by core cycle; among those of one cycle the matrix commands come last, in ascending
group (R328, R483). -/
def issueOrder (l : List (Due × Nat)) : List (Due × Nat) :=
  sortBy (fun a b => decide (a.2 * 512 + (if a.1.matrix then 256 + a.1.group else a.1.idx) ≤ b.2 * 512 + (if b.1.matrix then 256 + b.1.group else b.1.idx))) l

/-- Issue the words of several participants, each in its core cycle: the window stands frozen in between (R483). -/
def State.issueSpread (s : State) (core gid at_ : Nat) : List (Due × Nat) → Out
  | [] => .next s
  | (d, t) :: rest =>
    let s := s.windowStall gid (t - at_)
    match Table.find d.id s.warps, Table.find gid s.wgs with
    | some w, some g => match s.issueWord d.id with
      | .next s' => (s.noteIssue s' core d.id w g t).issueSpread core gid t rest
      | o => o
    | _, _ => s.issueSpread core gid t rest

/-- What a window asks of its core in a cycle: nothing (it is frozen, or the issues of its last cycle still go on), to go on with nothing
due, to wait, or the issues of its due participants, each ready but for the grants of their slots (R149). -/
inductive WindowAsk where
  | idle | pass | wait (s : State) | go (due : List Due)

/-- What a window asks in the present cycle of its core (R149, R152, R73, R204). -/
def State.windowAsk (s : State) (core gid : Nat) : WindowAsk :=
  match Table.find gid s.wgs with
  | none => .idle
  | some g => match g.win with
    | none => .idle
    | some x =>
      let p := (s.core core).pace
      if x.frozen || !x.running || decide (g.status ≠ .running) || decide (p.now < Table.get 0 gid p.winNext) then .idle
      else
        let ws := s.windowDue gid g x.cycle
        if ws.isEmpty then .pass
        else
          let held := ws.filter (fun e => s.holdsBack (s.trial e.1) e.1)
          if !held.isEmpty then .wait (held.foldl (fun s' e => s'.waitAs (s.trial e.1) e.1) s)
          else
            let ds := ws.map (fun e => s.dueOf (s.trial e.1) e.1 e.2 g)
            if ds.all p.open_ then .go ds else .wait s

/-- A window's issues are granted: all of them take place, or none where they cannot all (R149, R483). -/
def State.windowGo (s : State) (core gid : Nat) (due : List Due) : Out :=
  let p := (s.core core).pace
  let r := p.spread due
  match s.issueSpread core gid p.now (issueOrder r.1) with
  | .next s' =>
    let left := due.filter (fun d => s.holdsBack s' d.id)
    let last := maxNat (r.1.map Prod.snd)
    .next (if !left.isEmpty then (left.foldl (fun t d => t.waitAs s' d.id) s).windowStall gid
      else
        let s' := s'.modPace core (fun q => { q with
          slotFree := r.2.slotFree, laneFree := r.2.laneFree, portFree := r.2.portFree, winNext := Table.ins gid (last + 1) q.winNext })
        if due.any (fun d => decide (s'.waitOf d.id ≠ .none)) then s' else s'.windowAdvance gid)
  | o => o

/-- Whether a block-table operation of a warp has its status and has still to write it (R302, R304). -/
def Warp.btDone (w : Warp) : Bool := match w.btOp with | some (some _) => true | _ => false

/-- Whether a warp may issue at all: its workgroup runs, or is halting and a block-table operation of the warp completes before the
context is saved (R304); and no synchronisation access of it awaits its answer (R238). -/
def Warp.mayIssue (w : Warp) (g : Wg) : Bool :=
  (decide (g.status = .running) || (decide (g.status = .halting) && w.btDone)) && w.sync.isNone

/-- A warp's turn outside a window: a participant outside trap mode issues only with its window, in a cycle of its core. -/
def State.runWarp (s : State) (id : Nat) : Out :=
  match Table.find id s.warps with
  | none => .next s
  | some w =>
    match Table.find w.wg s.wgs with
    | none => .next s
    | some g => if !w.mayIssue g || w.inWindow then .next s else s.issueWord id

/-! ## A core's cycle (R23, R362, R364, R366) -/

/-- The arbiter of a core's group (Table 14.1a). -/
def slotArb (core group : Nat) : Nat := 128 * (chipPort (coreChip core) - 1) + 4 * (core % 32) + group

/-- The groups of a core. -/
def coreGroups (core : Nat) : List Nat := List.range (kindGroups (chipKind (coreChip core)))

/-- The warps that stand on a core, with their workgroups. -/
def State.coreWarps (s : State) (core : Nat) : List (Nat × Warp × Wg) :=
  s.warps.filterMap (fun e => match Table.find e.2.wg s.wgs with
    | some g => if g.core = core ∧ g.stands = true then some (e.1, e.2, g) else none
    | none => none)

/-- The state after a warp's turn. -/
def State.turnOf (s : State) (id : Nat) : State := match s.runWarp id with | .next s' => s' | _ => s

/-- Whether a warp is eligible to issue: it may, what it needs of its core is free, and its turn changes more than what it is noted to wait
for (R23, R73). -/
def State.eligible (s : State) (core id : Nat) (w : Warp) (g : Wg) : Bool :=
  let t := s.turnOf id
  w.mayIssue g && !w.inWindow && (s.core core).pace.open_ (s.dueOf t id w g) && (!s.holdsBack t id || decide (t ≠ s.waitAs t id))

/-- The priorities in the order in which fifteen grants to a device fall on them: 3 eight times, 2 four times, 1 twice, 0 once (R366). -/
def priorityOrder : List Nat := [3, 2, 3, 1, 3, 2, 3, 0, 3, 2, 3, 1, 3, 2, 3]

/-- The key under which a core keeps what a group served last for a device: a place in `priorityOrder` (4) or the warp of a priority. -/
def servedKey (group vdev k : Nat) : Nat := (group * 64 + vdev) * 8 + k

/-- The next of some warps after the one served last, round robin in the order of their numbers. -/
def nextWarp (last : Option Nat) (ids : List Nat) : Option Nat :=
  match ids.find? (fun i => match last with | some l => decide (l < i) | none => true) with
  | some i => some i
  | none => ids.head?

/-- The warp of a device that a group serves, and the record of it: the next place in `priorityOrder` that has an eligible warp, round
robin within its priority (R23, R366). -/
def Core.choose (c : Core) (group vdev : Nat) (ws : List (Nat × Nat)) : Option (Nat × Core) :=
  let at_ := Table.get 0 (servedKey group vdev 4) c.served
  match ((List.range 15).map (fun i => (at_ + i) % 15)).find? (fun i => ws.any (fun e => decide (e.2 = priorityOrder.getD i 0))) with
  | none => none
  | some i =>
    let p := priorityOrder.getD i 0
    let last := Table.find (servedKey group vdev p) c.served
    (nextWarp last ((ws.filter (fun e => decide (e.2 = p))).map Prod.fst)).map (fun id =>
      (id, { c with served := Table.ins (servedKey group vdev 4) ((i + 1) % 15) (Table.ins (servedKey group vdev p) id c.served) }))

/-- The participants of a window that wait in their workgroup's `ALIGN`s arrive one core cycle nearer to its start (R148). -/
def Window.near (x : Window) : Window :=
  if !x.running && decide (x.arrived = x.mask) then { x with startIn := x.startIn - 1 } else x

/-- Results that dynamic mode has written already and that are still on their way when their warp's window starts go to the landing
buffer: until they land the registers hold what they held before (R3, R148). -/
def State.delayLate (s : State) (core gid : Nat) : State :=
  let now := (s.core core).pace.now
  (s.core core).pace.late.foldl (fun s e => s.modWarp e.warp (fun w =>
    if w.wg = gid ∧ w.inWindow = true ∧ now < e.due then
      let v := w.reg e.slot
      { w.setReg e.slot e.old with landing := w.landing ++ [⟨e.slot, 0xFFFFFFFF#32, v.vals, v.tag, v.poison, 1 + (e.due - now)⟩] }
    else w)) s

/-- The workgroups that stand on a core and have a window. -/
def State.coreWindows (s : State) (core : Nat) : List Nat :=
  (s.wgs.filter (fun e => decide (e.2.core = core) && e.2.stands && e.2.win.isSome)).map Prod.fst

/-- Whether a window of a workgroup runs. -/
def State.windowRuns (s : State) (gid : Nat) : Bool :=
  match Table.find gid s.wgs with | some g => g.win.any Window.running | none => false

/-- A warp that was released from a wait since the last cycle issues again after some cycles: one that a flip has released 4 or 5 after
it, a pop that a push has released so that its result comes 6 or 7 after it (R272). -/
def State.releases (s : State) (core : Nat) : State :=
  let p := (s.core core).pace
  let lag := if coreEland core then 3 else 2
  (s.coreWarps core).foldl (fun s e =>
    let hold := fun (n : Nat) (s : State) => s.modPace core (fun p => { p with notBefore := Table.ins e.1 n p.notBefore })
    if e.2.1.wait == .barrier && (match e.2.1.barWait with | some (_, _, some _) => true | _ => false) then
      hold (p.now + lag) (s.modWarp e.1 (fun w => { w with wait := .none }))
    else if e.2.1.wait == .queue && (match s.dueInstr e.2.1 e.2.2 with | some (.qmovPop ..) => !s.holdsBack (s.trial e.1) e.1 | _ => false) then
      hold (p.now + 1) (s.modWarp e.1 (fun w => { w with wait := .none }))
    else s) s

/-- A core's cycle begins: its time goes on; barrier updates that are due in a window's time are performed (R272); windows whose time has
come start (R148); and those that run are listed in the order of their formation (R364). -/
def State.beginCycle (s : State) (core : Nat) : State :=
  let s := s.modPace core (fun p => { p with now := p.now + 1 })
  let s := s.releases core
  let s := (s.coreWindows core).foldl (fun s gid =>
    let s := (s.settleDue gid).modWg gid (fun g => { g with win := g.win.map Window.near })
    let before := s.windowRuns gid
    let s := s.startWindow gid
    if !before && s.windowRuns gid then s.delayLate core gid else s) s
  let runs := (s.coreWindows core).filter s.windowRuns
  s.modPace core (fun p => { p with
    windows := p.windows.filter runs.contains ++ runs.filter (fun g => !p.windows.contains g)
    late := p.late.filter (fun e => decide (p.now < e.due)) })

/-- The grants that one device needs in some groups of a core, all or none (R364); the groups `used` are held by other windows. -/
def State.grantAll (s : State) (core vdev : Nat) (reqs : Nat → List Nat) (used : List Nat) : List Nat → Option State
  | [] => some s
  | k :: ks =>
    if used.contains k then none
    else
      let r := s.grantOne (coreHub core) (slotArb core k) (reqs k)
      if r.1.contains vdev then none else r.2.grantAll core vdev reqs used ks

/-- The windows of a core have their turn, the one formed earlier first (R364): a window whose issues are all granted goes on a cycle; one
that is held, not granted, or finds a slot taken stands frozen for this cycle (R149). Answers the groups whose slots are taken. -/
def State.runWindows (s : State) (core : Nat) (reqs : Nat → List Nat) (used : List Nat) : List Nat → List Nat × State
  | [] => (used, s)
  | gid :: rest =>
    match s.windowAsk core gid, Table.find gid s.wgs with
    | .pass, _ => (s.windowAdvance gid).runWindows core reqs used rest
    | .wait t, _ => (t.windowStall gid).runWindows core reqs used rest
    | .go ds, some g =>
      let ks := dedup (ds.map Due.group)
      match s.grantAll core g.vdev reqs used ks with
      | none => (s.windowStall gid).runWindows core reqs used rest
      | some t => match t.windowGo core gid ds with
        | .next t => t.runWindows core reqs (used ++ ks) rest
        | _ => s.runWindows core reqs used rest
    | _, _ => s.runWindows core reqs used rest

/-- The warp that a free slot of a core serves: its arbiter gives the cycle's grant to a device with an eligible warp, and that device's
next warp is chosen (R23, R362, R366). -/
def State.serveSlot (s : State) (core group : Nat) (reqs : List Nat) (ready : List (Nat × Warp × Wg)) : Option Nat × State :=
  let r := s.grantOne (coreHub core) (slotArb core group) reqs
  match reqs.filter (fun v => !r.1.contains v) with
  | [] => (none, r.2)
  | v :: _ =>
    match (r.2.core core).choose group v ((ready.filter (fun e => decide (e.2.2.vdev = v))).map (fun e => (e.1, e.2.1.prio.toNat))) with
    | none => (none, r.2)
    | some (id, c) => (some id, r.2.setCore core c)

/-- A warp issues in the present cycle, and its core notes what the issue takes. -/
def State.issueNow (s : State) (core id : Nat) : Out :=
  match Table.find id s.warps with
  | none => .next s
  | some w => match Table.find w.wg s.wgs with
    | none => .next s
    | some g =>
      let d := s.dueOf (s.turnOf id) id w g
      match s.runWarp id with
      | .next s' =>
        .next ((s.noteIssue s' core id w g (s.core core).pace.now).modPace core (fun p => p.take d p.now))
      | o => o

/-- Several warps issue in one core cycle, in the order given. -/
def State.issueSome (s : State) (core : Nat) : List Nat → Out
  | [] => .next s
  | id :: rest => match s.issueNow core id with
    | .next s' => s'.issueSome core rest
    | o => o

/-- One cycle of a core: the arbiters of its groups see the requests of their devices (R361); windows go first, then each free slot serves
a warp, and those chosen issue in ascending `sr.warp` (R23, R139, R364, R470). The warps that are not eligible are noted to wait for
what they wait for. -/
def State.runCycle (s : State) (core : Nat) : Out :=
  let s := s.beginCycle core
  let ws := s.coreWarps core
  let ready := ws.filter (fun e => s.eligible core e.1 e.2.1 e.2.2)
  let asks := (s.core core).pace.windows.filterMap (fun gid => match s.windowAsk core gid, Table.find gid s.wgs with
    | .go ds, some g => some (g.vdev, ds.map Due.group)
    | _, _ => none)
  let reqs := fun (k : Nat) => dedup ((ready.filter (fun e => decide (e.2.1.group = k))).map (fun e => e.2.2.vdev)
    ++ (asks.filter (fun a => a.2.contains k)).map Prod.fst)
  let s := (ws.filter (fun e => e.2.1.mayIssue e.2.2 && !e.2.1.inWindow && !ready.any (fun r => decide (r.1 = e.1)))).foldl
    (fun t e => if s.holdsBack (s.turnOf e.1) e.1 then t.waitAs (s.turnOf e.1) e.1 else t) s
  let s := (coreGroups core).foldl (fun s k => s.refill (coreHub core) (slotArb core k) (reqs k)) s
  let r := s.runWindows core reqs [] (s.core core).pace.windows
  let now := (r.2.core core).pace.now
  let free := (coreGroups core).filter (fun k => !r.1.contains k && decide (Table.get 0 k (r.2.core core).pace.slotFree ≤ now))
  let q := free.foldl (fun (a : List Nat × State) k =>
    let mine := ready.filter (fun e => decide (e.2.1.group = k))
    let o := a.2.serveSlot core k (dedup (mine.map (fun e => e.2.2.vdev))) mine
    (a.1 ++ o.1.toList, o.2)) ([], r.2)
  q.2.issueSome core ((sortBy (fun a b => decide (a.2.1.idx ≤ b.2.1.idx)) (ready.filter (fun e => q.1.contains e.1))).map Prod.fst)

/-- A hart's turn: a pending interrupt that it takes now comes before its next word (R413), and the harts of an isolated Kudu do
nothing (R436), nor do those of one in C2; a hart in C1 wakes when its wait is over (R446). A word that is none of the spec's own is of the RISC-V base (R406; log entry 10,
PRESUMED). -/
def State.runHart (s : State) (n : Nat) : Out :=
  let h := s.hartOf n
  if s.kuduGone (n / 40) || decide ((s.chip (12 + n / 40)).power ≠ .p0) then .next s
  else if h.nextIrq.isSome then .next (s.takeIrq n)
  else if h.power = .c1 ∧ h.waiting = false then .next (s.setHart n { h with power := .p0 })
  else match s.fetchHart h with
    | .error e => .next (s.hartFault n e h.pc)
    | .ok w => match decodeKudu w with
      | .ok i => exec i { s with hart := n }
      | .error .base => .next (s.runRv n w)
      | .error _ => .next (s.hartExc n 2 (w.setWidth 64))

/-- Whether an instruction is a hardware event: no word stands for it. -/
def Instr.isEvent (i : Instr) : Bool := (encodeVodon i).isNone && (encodeKudu i).isNone

/-- Whether an event ends the sleep of the module (R448). -/
def Instr.wakes : Instr → Bool
  | .s3Wake => true
  | .moduleReset => true
  | _ => false

/-- One agent's turn. In S3 nothing happens but what ends it (R448); an event happens if the package has the parts it names. -/
def State.runAgent (s : State) : Agent → Out
  | .warp w => if s.asleep then .next s else s.runWarp w
  | .cycle core => if s.asleep then .next s else s.runCycle core
  | .hart h => if s.asleep ∨ 80 ≤ h then .next s else s.runHart h
  | .bank b => .next (if s.asleep then s else s.endSwitch b)
  | .replay hub port toChip => if s.asleep then .next s else execFlitReplay hub port toChip s
  | .outside x => .next (if s.asleep then s else s.outside x)
  | .event e => if e.wellFormed && Instr.isEvent e && (!s.asleep || Instr.wakes e) then exec e s else .next s

/-! ## The agents that may act next (log entry 5, DESIGN CHOICE) -/

/-- Some events as agents. -/
def happenings (l : List Instr) : List Agent := l.map Agent.event

/-- What may happen to a warp. -/
def warpAgents (id : Nat) (w : Warp) : List Agent :=
  Agent.event (Instr.scopeCheckerAnswer id) :: Agent.event (Instr.asyncEventDelivery id)
    :: (List.range w.pend.length).flatMap (fun i => [Agent.event (Instr.resultLanding id i), Agent.event (Instr.ldaLanding id i)])

/-- The Vodon cores of the module. -/
def allCores : List Nat := (List.range 12).flatMap chipCores

/-- What may happen to a workgroup. -/
def wgAgents (gid : Nat) (g : Wg) : List Agent :=
  happenings ([Instr.windowResume gid, Instr.windowEnd gid, Instr.operatorBoundaryReached gid, Instr.workgroupRetire gid]
    ++ (List.range g.barPend.length).map (Instr.barrierUpdate gid)
    ++ g.streams.map (fun e => Instr.streamDataReturn gid e.1) 
    ++ (dedup (g.pond.map PondEntry.bin)).map (fun b => Instr.binTimeout gid b)
    ++ (if g.status = .saved then allCores.map (Instr.workgroupResume gid) else []))

/-- What may happen on a core. -/
def coreAgents (n : Nat) (c : Core) : List Agent :=
  Agent.cycle n :: happenings ([Instr.warpForm n, Instr.streamElementForm n, Instr.followOnEnterQueue n, Instr.leatOperationStart n false, Instr.leatOperationStart n true]
    ++ (List.range c.writes.length).map (Instr.writeAtOwner n)
    ++ (List.range c.matQ.length).flatMap (fun i => [Instr.matrixCommandStart n i, Instr.matrixCommandComplete n i])
    ++ c.ops.flatMap (fun o => [Instr.leatLanding n o.id 1, Instr.followOnDelivery n o.id, Instr.leatArrival n o.id, Instr.blockCopyDone n o.id]))

/-- The flit of a replay buffer that arrives next arrives, or the sender replays what the receiver has asked for (R438, R478). -/
def linkAgents (hub port : Nat) (p : Port) (toChip : Bool) : List Agent :=
  let d := p.dir toChip
  (match d.buffer.find? (fun f => decide (f.seq = d.next)) with
  | some f => [Agent.event (Instr.flitReceive hub port toChip f.seq true f.msg)]
  | none => [])
    ++ (if d.discarding && decide (p.retrain = 0) then [Agent.replay hub port toChip] else [])

/-- What may happen at a hub. -/
def State.hubAgents (s : State) (n : Nat) (h : Hub) : List Agent :=
  happenings ([Instr.dispatchPlace n, Instr.preemptComplete n]
    ++ h.queues.map (fun q => Instr.packetTake n q.1) ++ (List.range h.loose.length).map (Instr.blockReclaim n)
    ++ (h.ports.filter (fun p => decide (p.2.state = .isolating))).map (fun p => Instr.isolation n p.1)
    ++ h.holdDue.map (Instr.tenantPoisonHold n)
    ++ (h.conns.filter (fun e => s.sendDue e.2)).map (fun e => Instr.sendLineNotify n e.1 (2 ^ 17)))
    ++ h.ports.flatMap (fun e => linkAgents n e.1 e.2 true ++ linkAgents n e.1 e.2 false)

/-- The harts that run: those of a Kudu whose port runs, and any that has run. -/
def State.hartAgents (s : State) : List Agent :=
  ((List.range 80).filter (fun n => decide ((s.port (n / 40) 0).state = .running) || (Table.find n s.harts).isSome)).map Agent.hart

/-- The agents that may act next when the agenda names none: what the machine does of itself. Commands, arrivals from outside and
what only a clock decides come by the agenda. -/
def State.choices (s : State) : List Agent :=
  s.warps.flatMap (fun e => warpAgents e.1 e.2) ++ s.hartAgents ++ s.wgs.flatMap (fun e => wgAgents e.1 e.2)
    ++ s.cores.flatMap (fun e => coreAgents e.1 e.2) ++ s.hubs.flatMap (fun e => s.hubAgents e.1 e.2)
    ++ (s.banks.filter (fun e => !e.2.switching.isEmpty)).map (fun e => Agent.bank e.1)
    ++ s.pkts.flatMap (fun e => [Agent.event (Instr.packetCompletion e.1), Agent.event (Instr.cooperativeHold e.1)])
    ++ (s.tenants.filter (fun e => e.2.killing)).flatMap (fun e =>
      Agent.event (Instr.killDrainComplete e.1) :: (List.range 18).map (fun u => Agent.event (Instr.killAck e.1 u)))

/-- A freely chosen agent of the present round, and the round without it; a new round begins when all have had their turn (R23). -/
def State.pick (s : State) : Option (Agent × State) :=
  let s := if s.round.isEmpty then { s with round := dedup s.choices } else s
  match s.round[Config.freeNat s.free % s.round.length]? with
  | none => none
  | some a => some (a, { s.takeFree.2 with round := s.round.erase a })

/-- How often in a row an agent has been passed over. -/
def State.omitted (s : State) (a : Agent) : Nat := match s.passedOver.find? (fun e => decide (e.1 = a)) with | some e => e.2 | none => 0

/-- Nobody is named to act: an agent of the round acts, or is passed over, no more than some number of rounds in a row (R23); with
nobody to act the machine stands still. -/
def State.freeTurn (s : State) : Out :=
  match s.pick with
  | none => .next s
  | some (a, s) =>
    let n := s.omitted a
    let rest := s.passedOver.filter (fun e => decide (e.1 ≠ a))
    if n < Config.patience ∧ Config.freeBit s.free = true then .next { s.takeFree.2 with passedOver := (a, n + 1) :: rest }
    else State.runAgent { s.takeFree.2 with passedOver := rest } a

end Sys2Proof.Machine
end

