-- ==== Sys2Proof/Machine/Step.lean ====
section
/-! DEFINITION. One step of the machine, and the placing of an instruction where the next step fetches it. -/

namespace Sys2Proof.Machine

/-- One step: the first agent of the agenda acts, or one whose turn it is when the agenda is empty (log entry 5, DESIGN CHOICE). -/
def step (s : State) : Host.Outcome State Fault Refusal :=
  match s.agenda with
  | a :: rest => State.runAgent { s with agenda := rest } a
  | [] => s.freeTurn

/-- Put bytes at a physical address in plain form: unsealed, unpoisoned. -/
def State.placeBytes (s : State) (pa : Nat) (bs : List Byte) : State :=
  { (s.clearRange (pa / 64 * 64) 64) with mem := Table.putBytes (s.clearRange (pa / 64 * 64) 64).mem pa bs }

/-- The workgroup that runs a placed word: world 0, virtual device 0, address space 0, on core 0. -/
def placedWg : Wg :=
  { pkt := 0, hub := 0, core := 0, lin := 0, coords := [], vdev := 0, world := 0, asid := 0, gen := 0, obj := 0, code := 0,
    loops := List.replicate 6 ⟨0, .absent⟩, roles := [⟨1, 256, 0⟩], drain := 31, pool := 0, records := 0, scratch := 4096,
    bar := 0, energy := 0, tileGrant := 16, millGrant := 0, granted := [(0, 256)] }

/-- The warp that runs a placed word. -/
def placedWarp (g : Nat) : Warp := { wg := g, idx := 0, role := 0, roleIdx := 0, budget := 256, group := 0, pc := 0x10000 }

/-- Place a Vodon word: a fresh warp of a fresh workgroup on core 0, whose fetch translation maps the page 0x10000 to
physical address 0x10000, where the word stands; that warp is next. -/
def State.placeVodon (s : State) (w : Nat) : State :=
  let g := Table.nextKey s.wgs
  let id := Table.nextKey s.warps
  let s := s.placeBytes 0x10000 (leBytes 8 w)
  let s := s.modCore 0 (fun c => { c with
    brk := [], tasks := 0 :: c.tasks, ftlb := ⟨0, 0x10000, 4096, 0x10000, true, false, true, 0, 0⟩ :: c.ftlb })
  { s with asleep := false, wgs := Table.ins g placedWg s.wgs, warps := Table.ins id (placedWarp g) s.warps,
           wgSeq := Nat.max s.wgSeq (g + 1), warpSeq := Nat.max s.warpSeq (id + 1), agenda := .warp id :: s.agenda }

/-- Place a Kudu word where hart 8, the first I/O core, fetches: M-mode, at its reset pc, no interrupt pending, its Kudu not
isolated. -/
def State.placeKudu (s : State) (w : Nat) : State :=
  let s := s.placeBytes 0x1000 (leBytes 4 w)
  let s := if s.kuduGone 0 then s.modPort 0 0 (fun p => { p with state := .running }) else s
  let s := s.setChip 12 { (s.chip 12) with power := .p0 }
  { s.setHart 8 { (s.hartOf 8) with pc := 0x1000, mode := 3, virt := false, pending := [], csrs := Table.put 0 0x300 ((s.hartOf 8).csr 0x300 &&& ~~~8) (s.hartOf 8).csrs } with
    asleep := false, agenda := .hart 8 :: s.agenda }

/-- The state with an instruction stored where the next step fetches it (log entry 1, DESIGN CHOICE). -/
def State.withFetchWord (s : State) (nbits w : Nat) : State := if nbits ≤ 32 then s.placeKudu w else s.placeVodon w

end Sys2Proof.Machine
end

