-- ==== Sys2Proof/Safety.lean ====
section
/-! DEFINITION. What counts as a safe run, and the words in which the statements about instructions are made. -/

namespace Sys2Proof.Machine

/-- A state from which the machine goes on: its step answers a next state. -/
def State.goesOn (s : State) : Prop := ∃ t, step s = .next t

/-- The invariant of every run: memory and the keys of its sealed units are in canonical form. -/
def State.inv (s : State) : Prop := Memory.wf s.mem ∧ Table.wf (0 : Nat) s.seals = true

/-- No step event of a debugger follows an instruction issued in a context (R392). -/
def Ctx.calm (c : Ctx) : Prop := (c.w.step && !c.w.trap && decide (c.g.world = 0)) = false

/-- A workgroup with some of its performance counters raised: selector and amount; they count while it is resident (R393). -/
def Wg.counted (g : Wg) (l : List (Nat × Nat)) : Wg :=
  if g.stands then { g with perf := l.foldl (fun p e => listSet e.1 (p.getD e.1 0 + BitVec.ofNat 64 e.2) p) g.perf } else g

/-- The state in which the issuing warp of a context stands as w and its workgroup as g, and everything else as in s. -/
def Ctx.after (c : Ctx) (s : State) (w : Warp) (g : Wg) : State :=
  { s with warps := Table.ins c.id w s.warps, wgs := Table.ins c.w.wg g s.wgs }

/-- An instruction continues at an address: the warp stands there as w, having issued; its workgroup stands as g; and nothing
else of the state changes: no other warp or workgroup, no byte of memory, no special register, no hub, no core. -/
def Continues (i : Instr) (s : State) (c : Ctx) (w : Warp) (g : Wg) (pc : BitVec 57) : Prop :=
  exec i s = .next (c.after s (w.stepTo c.wc pc) g)

/-- An instruction completes: it continues at the next word. -/
def Completes (i : Instr) (s : State) (c : Ctx) (w : Warp) (g : Wg) : Prop := Continues i s c w g c.w.next

/-- The value a register field has for the issuing warp in a lane. -/
def Ctx.val (c : Ctx) (n : Reg) (l : Nat) : Word := c.w.rd n.toNat l

/-- The value a register pair has for the issuing warp in a lane. -/
def Ctx.val64 (c : Ctx) (n : Reg) (l : Nat) : DWord := c.w.rd64 n.toNat l

/-- An arithmetic instruction completes: register field n takes the value f l in each active lane l, with some tag, at once or
through the landing buffer of a window after some latency, and the counters of instructions and of its unit rise (R42, R67 to
R76). -/
def Computes (i : Instr) (s : State) (c : Ctx) (n : Reg) (f : Nat → Word) : Prop :=
  ∃ tag lat u, (u = 2 ∨ u = 3) ∧
    Completes i s c (c.w.put c n.toNat c.act (laneBuild f) tag lat) (c.g.counted [(u, 1), (1, 1)])

/-- An arithmetic instruction with a 64-bit result completes: the pair n takes f l in each active lane (R36). -/
def Computes64 (i : Instr) (s : State) (c : Ctx) (n : Reg) (f : Nat → DWord) : Prop :=
  ∃ tag lat, Completes i s c
    ((c.w.put c n.toNat c.act (laneBuild (fun l => (f l).setWidth 32)) tag lat).put c (n.toNat + 1) c.act
      (laneBuild (fun l => ((f l) >>> 32).setWidth 32)) tag lat)
    (c.g.counted [(2, 1), (1, 1)])

/-- A context in which an instruction with a header and some uses is free to have its own effect: it is the issuing warp's, every
check passes, nothing holds the warp, and no step event follows. -/
def Ctx.ready (c : Ctx) (s : State) (h : Hdr) (u : Use) : Prop := s.ctx h = some c ∧ u.clear h c ∧ c.calm

/-! ## What a matrix command leaves -/

/-- The number that some bytes a command reads hold, least significant first. -/
def MatRead.num (rd : MatRead) (off n : Nat) : Nat := leNat (rd.bytes off n)

/-- Whether one of some bytes a command reads is poisoned. -/
def MatRead.poisoned (rd : MatRead) (off n : Nat) : Bool := (List.range n).any (fun i => (rd (off + i)).2)

/-- Element k of a packed group of weights that holds the number x (R101, R319). -/
def packedAt (wf : WgtFmt) (x k : Nat) : Num :=
  match wf with
  | .q4 => intNum (sextN (x / 2 ^ (4 * k)) 4)
  | .q3 => intNum (sextN (x / 2 ^ (3 * k)) 3)
  | .e4m3 => Fmt.e4m3.value (x / 2 ^ (8 * k) % 256)

/-- The number of positions below k that a mask holds. -/
def heldBelow (mask k : Nat) : Nat := ((List.range k).filter mask.testBit).length

/-- The weight of position k of a group (R321): of a sparse one the element that stands at the number of held positions below it, 0 where
it is not held. -/
def weightAt (wf : WgtFmt) (sparse : Bool) (x mask k : Nat) : Num :=
  if sparse then (if mask.testBit k then packedAt wf x (heldBelow mask k) else .fin false 0 0) else packedAt wf x k

/-- The exact partial sum of 32 products (R320, Table 10.2). -/
def partialSum (a w : Nat → Num) : Num := ((List.range 32).map (fun k => Num.mul (a k) (w k))).foldl (Num.add .rn) (.fin false 0 0)

/-- Whether a finite value overflows when it is rounded to F32. -/
def overflows (x : Num) : Prop := (∃ n m e, x = .fin n m e) ∧ (f32Word .rn x).toNat % 2 ^ 31 = 0x7F800000

/-- A command leaves the workgroup g as y, having written an element `puts k` at each place k that has one: the exact value, and whether
the element is marked (R320, R332, R333). An unmarked element holds its value rounded once, a marked one any value; every other element
and its mark stay; the sticky bits of the status word say whether a mask was bad, whether a buffer mismatched, whether an element was
marked and, unmarked elements alone counting for certain, whether one overflowed. -/
def Wg.elementsWritten (g y : Wg) (puts : Nat → Option (Num × Bool)) (badMask mismatch : Prop) : Prop :=
  (∀ k, match puts k with
    | none => Table.get 0 k y.acc = Table.get 0 k g.acc ∧ Table.get false k y.accMarks = Table.get false k g.accMarks
    | some (x, marked) => Table.get false k y.accMarks = marked ∧ (marked = false → Table.get 0 k y.acc = f32Word .rn x)) ∧
  y.mills = g.mills ∧
  (y.mstat.getLsbD 0 = true ↔ g.mstat.getLsbD 0 = true ∨ badMask) ∧
  (y.mstat.getLsbD 1 = true ↔ g.mstat.getLsbD 1 = true ∨ mismatch) ∧
  (y.mstat.getLsbD 2 = true ↔ g.mstat.getLsbD 2 = true ∨ ∃ k x, puts k = some (x, true)) ∧
  (g.mstat.getLsbD 3 = true ∨ (∃ k x, puts k = some (x, false) ∧ overflows x) → y.mstat.getLsbD 3 = true) ∧
  ((∀ k x marked, puts k = some (x, marked) → marked = false ∧ ¬overflows x) → y.mstat.getLsbD 3 = g.mstat.getLsbD 3) ∧
  (∀ i, 4 ≤ i → y.mstat.getLsbD i = g.mstat.getLsbD i)

end Sys2Proof.Machine
end

