-- ==== Sys2Proof/Certificates/Slice0/Obligations.lean ====
section
/-! DEFINITION. The statements for the provers: what the instructions and the events of the pod do, what they leave, where they
raise a cause or wait, how the instruction words read, and what every step keeps. -/

open Sys2Proof Sys2Proof.Machine

/-! ## Arithmetic -/

/-- R80 to R86, R93, R95: sums and products on single registers wrap, saturate or keep a half as each entry says; the
instruction completes whenever its checks pass and writes its destination register alone. R83 to R85, R95: the 64-bit sums,
addresses and products go to a pair, both halves in each active lane. Completes: abs, add, addImm, sub, addSat, subSat, add64,
sub64, adda, addx, aff, mul, mulImm, mad, mulhi, mulw. -/
def Obligations.IntegerArithmetic : Prop :=
  (∀ (h : Hdr) (dst a b e : Reg) (imm : BitVec 16) (s : State) (c : Ctx),
     (c.ready s h (useA [a] dst) →
       Computes (.abs h dst a) s c dst (fun l =>
         if c.val a l = 0x80000000#32 then 0x7FFFFFFF#32 else if (c.val a l).getLsbD 31 then -(c.val a l) else c.val a l) ∧
       Computes (.addImm h dst a imm) s c dst (fun l => c.val a l + imm.signExtend 32) ∧
       Computes (.mulImm h dst a imm) s c dst (fun l => c.val a l * imm.signExtend 32)) ∧
     (c.ready s h (useA [a, b] dst) →
       Computes (.add h dst a b) s c dst (fun l => c.val a l + c.val b l) ∧
       Computes (.sub h dst a b) s c dst (fun l => c.val a l - c.val b l) ∧
       Computes (.addSat h .si32 dst a b) s c dst (fun l => BitVec.ofInt 32
         (max (-2 ^ 31) (min (2 ^ 31 - 1) ((c.val a l).toInt + (c.val b l).toInt)))) ∧
       Computes (.addSat h .ui32 dst a b) s c dst (fun l => BitVec.ofNat 32
         (min (2 ^ 32 - 1) ((c.val a l).toNat + (c.val b l).toNat))) ∧
       Computes (.subSat h .si32 dst a b) s c dst (fun l => BitVec.ofInt 32
         (max (-2 ^ 31) (min (2 ^ 31 - 1) ((c.val a l).toInt - (c.val b l).toInt)))) ∧
       Computes (.subSat h .ui32 dst a b) s c dst (fun l => BitVec.ofNat 32 ((c.val a l).toNat - (c.val b l).toNat)) ∧
       Computes (.aff h dst a b) s c dst (fun l => c.val a l + c.val b l * BitVec.ofNat 32 l) ∧
       Computes (.mul h dst a b) s c dst (fun l => c.val a l * c.val b l) ∧
       Computes (.mulhi h .si32 dst a b) s c dst (fun l => BitVec.ofInt 32 ((c.val a l).toInt * (c.val b l).toInt / 2 ^ 32)) ∧
       Computes (.mulhi h .ui32 dst a b) s c dst (fun l => BitVec.ofNat 32 ((c.val a l).toNat * (c.val b l).toNat / 2 ^ 32))) ∧
     (c.ready s h (useA [a, b, e] dst) →
       Computes (.mad h dst a b e) s c dst (fun l => c.val a l * c.val b l + c.val e l))) ∧
  (∀ (h : Hdr) (sc : Fin 5) (dst a b : Reg) (imm : BitVec 16) (s : State) (c : Ctx),
     (c.ready s h ⟨[srcA a 2, srcA b 2], [(dst.toNat, 2)], true, true, false, false, 0, false, none, false, none⟩ →
       Computes64 (.add64 h dst a b) s c dst (fun l => c.val64 a l + c.val64 b l) ∧
       Computes64 (.sub64 h dst a b) s c dst (fun l => c.val64 a l - c.val64 b l)) ∧
     (c.ready s h ⟨[srcA a 2], [(dst.toNat, 2)], true, true, false, false, 0, false, none, false, none⟩ →
       Computes64 (.adda h sc dst a imm) s c dst (fun l => c.val64 a l + imm.signExtend 64 * BitVec.ofNat 64 (2 ^ sc.val))) ∧
     (c.ready s h ⟨[srcA a 2, srcA b 1], [(dst.toNat, 2)], true, true, false, false, 0, false, none, false, none⟩ →
       Computes64 (.addx h .si32 sc dst a b) s c dst (fun l => c.val64 a l + (c.val b l).signExtend 64 * BitVec.ofNat 64 (2 ^ sc.val)) ∧
       Computes64 (.addx h .ui32 sc dst a b) s c dst (fun l => c.val64 a l + (c.val b l).setWidth 64 * BitVec.ofNat 64 (2 ^ sc.val))) ∧
     (c.ready s h ⟨[srcA a 1, srcA b 1], [(dst.toNat, 2)], true, true, false, false, 0, false, none, false, none⟩ →
       Computes64 (.mulw h .si32 dst a b) s c dst (fun l => BitVec.ofInt 64 ((c.val a l).toInt * (c.val b l).toInt)) ∧
       Computes64 (.mulw h .ui32 dst a b) s c dst (fun l => BitVec.ofNat 64 ((c.val a l).toNat * (c.val b l).toNat))))

/-- R87 to R90: the bitwise forms, the bit fields, the reversal and the counts, each by its bits or numbers. R96: shifts by 32
or more give 0 or copies of the sign; the rotate takes its count modulo 32; both the register and the immediate forms.
Completes: andR, andImm, orR, orImm, xorR, xorImm, andn, bfi, bfx, brev, clz, ctz, popc, shl, shlImm, shr, shrImm, sra,
sraImm, rol, rolImm. -/
def Obligations.BitsAndShifts : Prop :=
  (∀ (h : Hdr) (dst a b e : Reg) (imm : BitVec 16) (s : State) (c : Ctx),
     let pos := fun l => (c.val b l).toNat % 32
     let wid := fun l => min ((c.val b l).toNat / 2 ^ 8 % 64) (32 - pos l)
     let fld := fun l => (c.val a l).toNat / 2 ^ pos l % 2 ^ wid l
     (c.ready s h (useA [a, b] dst) →
       Computes (.andR h dst a b) s c dst (fun l => c.val a l &&& c.val b l) ∧
       Computes (.orR h dst a b) s c dst (fun l => c.val a l ||| c.val b l) ∧
       Computes (.xorR h dst a b) s c dst (fun l => c.val a l ^^^ c.val b l) ∧
       Computes (.andn h dst a b) s c dst (fun l => c.val a l &&& ~~~(c.val b l)) ∧
       Computes (.bfx h .ui32 dst a b) s c dst (fun l => BitVec.ofNat 32 (fld l)) ∧
       Computes (.bfx h .si32 dst a b) s c dst (fun l => if wid l = 0 then 0
         else if fld l < 2 ^ (wid l - 1) then BitVec.ofNat 32 (fld l) else BitVec.ofInt 32 ((fld l : Int) - 2 ^ wid l))) ∧
     (c.ready s h (useA [a] dst) →
       Computes (.andImm h dst a imm) s c dst (fun l => c.val a l &&& imm.setWidth 32) ∧
       Computes (.orImm h dst a imm) s c dst (fun l => c.val a l ||| imm.setWidth 32) ∧
       Computes (.xorImm h dst a imm) s c dst (fun l => c.val a l ^^^ imm.setWidth 32) ∧
       (∃ f, Computes (.brev h dst a) s c dst f ∧ ∀ l i, i < 32 → (f l).getLsbD i = (c.val a l).getLsbD (31 - i)) ∧
       (∃ f : Nat → Nat, Computes (.clz h dst a) s c dst (fun l => BitVec.ofNat 32 (f l)) ∧ ∀ l,
         (c.val a l = 0 ∧ f l = 32) ∨ (f l < 32 ∧ 2 ^ (31 - f l) ≤ (c.val a l).toNat ∧ (c.val a l).toNat < 2 ^ (32 - f l))) ∧
       (∃ f : Nat → Nat, Computes (.ctz h dst a) s c dst (fun l => BitVec.ofNat 32 (f l)) ∧ ∀ l,
         (c.val a l = 0 ∧ f l = 32) ∨ (f l < 32 ∧ (c.val a l).toNat % 2 ^ f l = 0 ∧ (c.val a l).getLsbD (f l) = true)) ∧
       Computes (.popc h dst a) s c dst (fun l =>
         BitVec.ofNat 32 ((List.range 32).map (fun i => ((c.val a l).getLsbD i).toNat)).sum)) ∧
     (c.ready s h (useA [a, b, e] dst) →
       Computes (.bfi h dst a b e) s c dst (fun l =>
         (c.val e l &&& ~~~(BitVec.ofNat 32 ((2 ^ wid l - 1) * 2 ^ pos l))) |||
           (BitVec.ofNat 32 ((c.val a l).toNat * 2 ^ pos l) &&& BitVec.ofNat 32 ((2 ^ wid l - 1) * 2 ^ pos l))))) ∧
  (∀ (h : Hdr) (dst a b : Reg) (n : BitVec 5) (s : State) (c : Ctx),
     let shl := fun (x : Word) (k : Nat) => if 32 ≤ k then 0 else BitVec.ofNat 32 (x.toNat * 2 ^ k)
     let shr := fun (x : Word) (k : Nat) => if 32 ≤ k then 0 else BitVec.ofNat 32 (x.toNat / 2 ^ k)
     let sra := fun (x : Word) (k : Nat) => BitVec.ofInt 32 (x.toInt / 2 ^ min k 31)
     let rol := fun (x : Word) (k : Nat) => BitVec.ofNat 32 (x.toNat * 2 ^ (k % 32) + x.toNat / 2 ^ (32 - k % 32))
     (c.ready s h (useA [a, b] dst) →
       Computes (.shl h dst a b) s c dst (fun l => shl (c.val a l) (c.val b l).toNat) ∧
       Computes (.shr h dst a b) s c dst (fun l => shr (c.val a l) (c.val b l).toNat) ∧
       Computes (.sra h dst a b) s c dst (fun l => sra (c.val a l) (c.val b l).toNat) ∧
       Computes (.rol h dst a b) s c dst (fun l => rol (c.val a l) (c.val b l).toNat)) ∧
     (c.ready s h (useA [a] dst) →
       Computes (.shlImm h dst a n) s c dst (fun l => shl (c.val a l) n.toNat) ∧
       Computes (.shrImm h dst a n) s c dst (fun l => shr (c.val a l) n.toNat) ∧
       Computes (.sraImm h dst a n) s c dst (fun l => sra (c.val a l) n.toNat) ∧
       Computes (.rolImm h dst a n) s c dst (fun l => rol (c.val a l) n.toNat)))

/-- R94, R97, R98: the smaller or larger as the suffix reads the operands, the select by bit 0 of the third operand, whatever
register holds it, and the relations; where the words of SEL, MIN and MAX stand in the opcode map. R68, R91, R92: `LI` gives
every active lane its immediate, on the affine unit and tagged uniform when all 32 lanes are known active and its destination
is a plain name, else on the lane datapath, tagged uniform when all 32 lanes are active and its guard, if it has one, is
uniform, general otherwise; `FORM` always takes the affine unit, writes the tag codes, and tags its result uniform when all
lanes are written and its source is a plain name, general otherwise. Completes: form, li, min, max, sel, set. -/
def Obligations.SelectCompareImmediate : Prop :=
  ((∀ r : Raw, r.major = 0x03#6 → r.hdr.ok .any = true →
     (r.minor = 0x10#8 → decodeRaw r = .ok (.sel r.hdr r.dst r.a r.b r.c)) ∧
     (r.c = 0 → (r.minor = 0x18#8 → decodeRaw r = .ok (.min r.hdr .si32 r.dst r.a r.b)) ∧
       (r.minor = 0x19#8 → decodeRaw r = .ok (.min r.hdr .ui32 r.dst r.a r.b)) ∧
       (r.minor = 0x1A#8 → decodeRaw r = .ok (.max r.hdr .si32 r.dst r.a r.b)) ∧
       (r.minor = 0x1B#8 → decodeRaw r = .ok (.max r.hdr .ui32 r.dst r.a r.b)))) ∧
   ∀ (h : Hdr) (dst a b e : Reg) (s : State) (c : Ctx),
     (c.ready s h (useA [a, b, e] dst) →
       Computes (.sel h dst a b e) s c dst (fun l => if (c.val e l).getLsbD 0 then c.val a l else c.val b l)) ∧
     (c.ready s h (useA [a, b] dst) →
       (∃ f, Computes (.min h .si32 dst a b) s c dst f ∧ ∀ l, (f l).toInt = min (c.val a l).toInt (c.val b l).toInt) ∧
       (∃ f, Computes (.max h .si32 dst a b) s c dst f ∧ ∀ l, (f l).toInt = max (c.val a l).toInt (c.val b l).toInt) ∧
       (∃ f, Computes (.min h .ui32 dst a b) s c dst f ∧ ∀ l, (f l).toNat = min (c.val a l).toNat (c.val b l).toNat) ∧
       (∃ f, Computes (.max h .ui32 dst a b) s c dst f ∧ ∀ l, (f l).toNat = max (c.val a l).toNat (c.val b l).toNat) ∧
       Computes (.set h .eq dst a b) s c dst (fun l => if c.val a l = c.val b l then 1 else 0) ∧
       Computes (.set h .ne dst a b) s c dst (fun l => if c.val a l = c.val b l then 0 else 1) ∧
       Computes (.set h .ltS dst a b) s c dst (fun l => if (c.val a l).toInt < (c.val b l).toInt then 1 else 0) ∧
       Computes (.set h .leS dst a b) s c dst (fun l => if (c.val a l).toInt ≤ (c.val b l).toInt then 1 else 0) ∧
       Computes (.set h .ltU dst a b) s c dst (fun l => if (c.val a l).toNat < (c.val b l).toNat then 1 else 0) ∧
       Computes (.set h .leU dst a b) s c dst (fun l => if (c.val a l).toNat ≤ (c.val b l).toNat then 1 else 0))) ∧
  (∀ (h : Hdr) (dst a : Reg) (imm : Word) (s : State) (c : Ctx),
     let even := h.g = false ∨ (c.w.reg h.guard.toNat).tag = .uniform
     let affine := c.w.exm = 0xFFFFFFFF#32 ∧ (h.g = false ∨ ((c.w.reg h.guard.toNat).tag = .uniform ∧ c.w.guard h 0 = true)) ∧
       c.w.plainName dst.toNat = true
     (c.ready s h (useA [] dst) → affine →
       Completes (.li h dst imm) s c (c.w.put c dst.toNat c.act (List.replicate 32 imm) .uniform 2) (c.g.counted [(3, 1), (1, 1)])) ∧
     (c.ready s h (useA [] dst) → ¬affine → c.act = 0xFFFFFFFF#32 ∧ even →
       Completes (.li h dst imm) s c (c.w.put c dst.toNat c.act (List.replicate 32 imm) .uniform (if c.eland then 5 else 4))
         (c.g.counted [(2, 1), (1, 1)])) ∧
     (c.ready s h (useA [] dst) → ¬(c.act = 0xFFFFFFFF#32 ∧ even) →
       Completes (.li h dst imm) s c (c.w.put c dst.toNat c.act (List.replicate 32 imm) .general (if c.eland then 5 else 4))
         (c.g.counted [(2, 1), (1, 1)])) ∧
     (c.ready s h ⟨[⟨a.toNat, 1, .none⟩], [(dst.toNat, 1)], true, true, false, false, 0, false, none, false, none⟩ →
       Completes (.form h dst a) s c (c.w.put c dst.toNat c.act
           (laneBuild (fun l => match c.w.tagOf a.toNat l with | .general => 0 | .uniform => 1 | .affine => 2))
           (if c.w.plainName a.toNat then .uniform else .general) 2)
         (c.g.counted [(3, 1), (1, 1)])))

/-- R117 to R124, R113: the single-precision and packed instructions yield the exact result rounded once in their mode, the
sign forms their bit, the minimum and maximum the operand that is no NaN, the approximate functions their value rounded to
nearest. Completes: rcp, rsq, ex2, lg2, sin, cos, tanh, fabs, fneg, fadd, fsub, fmul, ffma, fclass, fmin, fmax, frnd, fset,
padd, pmul, pfma, pmin, pmax, pdot. -/
def Obligations.FloatArithmetic : Prop :=
  ∀ (h : Hdr) (m : Rnd) (f : PackFmt) (cc : FsetCc) (dst a b e : Reg) (s : State) (c : Ctx),
    let md := plainMode m
    let hf := fun (n : Reg) l i => (packFmt f).value (halfOf (c.val n l) i)
    let two := fun (k : Bool → Nat) => BitVec.ofNat 32 (k false + 65536 * k true)
    (c.ready s h (useA [a] dst) →
      Computes (.fabs h dst a) s c dst (fun l => c.val a l &&& 0x7FFFFFFF#32) ∧
      Computes (.fneg h dst a) s c dst (fun l => c.val a l ^^^ 0x80000000#32) ∧
      Computes (.fclass h dst a) s c dst (fun l => BitVec.ofNat 32 (2 ^ classBit (c.val a l))) ∧
      Computes (.frnd h m dst a) s c dst (fun l => f32Word .rn (integral md (fv (c.val a l)))) ∧
      Computes (.rcp h dst a) s c dst (fun l => BitVec.ofNat 32 (rcpOf (fv (c.val a l)))) ∧
      Computes (.rsq h dst a) s c dst (fun l => BitVec.ofNat 32 (rsqOf (fv (c.val a l)))) ∧
      Computes (.ex2 h dst a) s c dst (fun l => BitVec.ofNat 32 (ex2Of (fv (c.val a l)))) ∧
      Computes (.lg2 h dst a) s c dst (fun l => BitVec.ofNat 32 (lg2Of (fv (c.val a l)))) ∧
      Computes (.sin h dst a) s c dst (fun l => BitVec.ofNat 32 (sinOf (fv (c.val a l)))) ∧
      Computes (.cos h dst a) s c dst (fun l => BitVec.ofNat 32 (cosOf (fv (c.val a l)))) ∧
      Computes (.tanh h dst a) s c dst (fun l => BitVec.ofNat 32 (tanhOf (fv (c.val a l))))) ∧
    (c.ready s h (useA [a, b] dst) →
      Computes (.fadd h m dst a b) s c dst (fun l => f32Word md (Machine.Num.add md (fv (c.val a l)) (fv (c.val b l)))) ∧
      Computes (.fsub h m dst a b) s c dst (fun l => f32Word md (Machine.Num.add md (fv (c.val a l)) (fv (c.val b l)).neg)) ∧
      Computes (.fmul h m dst a b) s c dst (fun l => f32Word md (Machine.Num.mul (fv (c.val a l)) (fv (c.val b l)))) ∧
      Computes (.fmin h dst a b) s c dst (fun l => BitVec.ofNat 32 (Fmt.f32.least (c.val a l).toNat (c.val b l).toNat)) ∧
      Computes (.fmax h dst a b) s c dst (fun l => BitVec.ofNat 32 (Fmt.f32.greatest (c.val a l).toNat (c.val b l).toNat)) ∧
      Computes (.fset h cc dst a b) s c dst (fun l => if fsetHolds cc (c.val a l) (c.val b l) then 1 else 0) ∧
      Computes (.padd h f m dst a b) s c dst (fun l => two (fun i => (packFmt f).round md (Machine.Num.add md (hf a l i) (hf b l i)))) ∧
      Computes (.pmul h f m dst a b) s c dst (fun l => two (fun i => (packFmt f).round md (Machine.Num.mul (hf a l i) (hf b l i)))) ∧
      Computes (.pmin h f dst a b) s c dst (fun l => two (fun i => (packFmt f).least (halfOf (c.val a l) i) (halfOf (c.val b l) i))) ∧
      Computes (.pmax h f dst a b) s c dst (fun l =>
        two (fun i => (packFmt f).greatest (halfOf (c.val a l) i) (halfOf (c.val b l) i)))) ∧
    (c.ready s h (useA [a, b, e] dst) →
      Computes (.ffma h m dst a b e) s c dst (fun l => f32Word md (Machine.Num.add md (Machine.Num.mul (fv (c.val a l)) (fv (c.val b l))) (fv (c.val e l)))) ∧
      Computes (.pfma h f m dst a b e) s c dst (fun l => two (fun i =>
        (packFmt f).round md (Machine.Num.add md (Machine.Num.mul (hf a l i) (hf b l i)) (hf e l i)))) ∧
      Computes (.pdot h f m dst a b e) s c dst (fun l => f32Word md (Machine.Num.add md
        (Machine.Num.add md (Machine.Num.mul (hf a l false) (hf b l false)) (Machine.Num.mul (hf a l true) (hf b l true))) (fv (c.val e l)))))

/-- R114 to R116, R125: conversions round once in their mode; a narrowing one reads its counter register under `SR` only, and
the byte forms keep the other half of their destination. R126, R127: the cross-lane instructions: each lane's result is made
of the values of several lanes, at two occupancies of the lane datapath. Completes: cvtF32Si32, cvtF32Ui32, cvtSi32F32,
cvtUi32F32, cvtBf16F32, cvtF16F32, cvtE4m3F32, cvtE5m2F32, cvtF32Bf16, cvtF32F16, cvtF32E4m3, cvtF32E5m2, qnt, qpk, qunpk,
spmk, spcmp. -/
def Obligations.ConversionsAndCrossLane : Prop :=
  (∀ (h : Hdr) (m : Rnd) (half : Bool) (byte : BitVec 2) (q : QFmt) (dst a b e : Reg) (s : State) (c : Ctx),
     let md := plainMode m
     let ctr := if m = .sr then [e] else []
     let at_ := fun (k l : Nat) => modeAt m k (c.val e l)
     let keep := fun l (y : Nat) => BitVec.ofNat 32 (if half then (c.val dst l).toNat % 65536 + 65536 * y
       else (c.val dst l).toNat / 65536 * 65536 + y)
     (c.ready s h (useA [a] dst) →
       Computes (.cvtF32Si32 h m dst a) s c dst (fun l => f32Word md (intNum (c.val a l).toInt)) ∧
       Computes (.cvtF32Ui32 h m dst a) s c dst (fun l => f32Word md (intNum (c.val a l).toNat)) ∧
       Computes (.cvtSi32F32 h m dst a) s c dst (fun l => toInteger .si32 md (fv (c.val a l))) ∧
       Computes (.cvtUi32F32 h m dst a) s c dst (fun l => toInteger .ui32 md (fv (c.val a l))) ∧
       Computes (.cvtF32Bf16 h half dst a) s c dst (fun l => f32Word .rn (Fmt.bf16.value (halfOf (c.val a l) half))) ∧
       Computes (.cvtF32F16 h half dst a) s c dst (fun l => f32Word .rn (Fmt.f16.value (halfOf (c.val a l) half))) ∧
       Computes (.cvtF32E4m3 h byte dst a) s c dst (fun l =>
         f32Word .rn (Fmt.e4m3.value ((c.val a l).toNat / 256 ^ byte.toNat % 256))) ∧
       Computes (.cvtF32E5m2 h byte dst a) s c dst (fun l =>
         f32Word .rn (Fmt.e5m2.value ((c.val a l).toNat / 256 ^ byte.toNat % 256)))) ∧
     (c.ready s h (useA ([a, b] ++ ctr) dst) →
       Computes (.cvtBf16F32 h m dst a b e) s c dst (fun l => BitVec.ofNat 32
         (Fmt.bf16.round (at_ (2 * l) l) (fv (c.val a l)) + 65536 * Fmt.bf16.round (at_ (2 * l + 1) l) (fv (c.val b l)))) ∧
       Computes (.cvtF16F32 h m dst a b e) s c dst (fun l => BitVec.ofNat 32
         (Fmt.f16.round (at_ (2 * l) l) (fv (c.val a l)) + 65536 * Fmt.f16.round (at_ (2 * l + 1) l) (fv (c.val b l)))) ∧
       Computes (.qnt h q m dst a b e) s c dst (fun l => quantize q (at_ l l) (Machine.Num.mul (fv (c.val a l)) (fv (c.val b l))))) ∧
     (c.ready s h (useA ([a, b] ++ ctr ++ [dst]) dst) →
       Computes (.cvtE4m3F32 h half m dst a b e) s c dst (fun l => keep l
         (Fmt.e4m3.round (at_ (4 * l + 2 * half.toNat) l) (fv (c.val a l)) + 256 * Fmt.e4m3.round (at_ (4 * l + 2 * half.toNat + 1) l) (fv (c.val b l)))) ∧
       Computes (.cvtE5m2F32 h half m dst a b e) s c dst (fun l => keep l
         (Fmt.e5m2.round (at_ (4 * l + 2 * half.toNat) l) (fv (c.val a l)) + 256 * Fmt.e5m2.round (at_ (4 * l + 2 * half.toNat + 1) l) (fv (c.val b l)))))) ∧
  (∀ (h : Hdr) (q : QFmt) (dst a b : Reg) (s : State) (c : Ctx),
     let use := fun (srcs : List Src) => (⟨srcs, [(dst.toNat, 1)], true, false, false, false, 0, false, none, false, none⟩ : Use)
     let lat := if c.eland then 7 else 6
     let does := fun (i : Instr) (f : Nat → Word) (tag : Tag) =>
       Completes i s c (c.w.put c dst.toNat c.act (laneBuild f) tag lat) (c.g.counted [(2, 1), (1, 1)])
     let w := qBits q
     let packed := ((List.range 32).map (fun i =>
       (if c.act.getLsbD i then (c.val a i).toNat % 2 ^ w else 0) * 2 ^ (w * i))).sum
     let joined := ((List.range w).map (fun i => (c.val a i).toNat * 2 ^ (32 * i))).sum
     (c.ready s h (use [srcA a]) →
       does (.qpk h q dst a) (fun l => BitVec.ofNat 32 (packed / 2 ^ (32 * (l % 4)))) .general ∧
       (∃ f, does (.spmk h dst a) f (if c.act = 0xFFFFFFFF#32 then .uniform else .general) ∧
         ∀ l i, i < 32 → (f l).getLsbD i = (c.act.getLsbD i && decide (c.val a i ≠ 0)))) ∧
     (c.ready s h (use [⟨a.toNat, 1, .first w⟩]) →
       does (.qunpk h q dst a) (fun l => BitVec.ofInt 32 (sextN (joined / 2 ^ (w * l)) w)) .general) ∧
     (c.ready s h (use [⟨a.toNat, 1, .picked b.toNat⟩, srcA b]) →
       does (.spcmp h dst a b) (fun j =>
         match (((List.range 32).filter (fun i => (c.val b j).getLsbD i))[j]?) with
         | some i => c.val a i
         | none => 0) .general))

/-! ## Control flow, masks, melded regions, spawning and windows -/

/-- R131, R157, R159, R168: the direct branches decide once for the warp, by the active lanes or the mask alone as Table 05.2
gives; a taken one goes to the address of its word offset, counted from the next word (log entry 9), one not taken to the next
word; none writes a register. A `CALL` that is taken writes the link, the next word's address, to its pair in the active lanes
alone. `NOP` goes on. R163: a temporal loop level below its extent steps and goes to its head; at its last iteration it
returns to 0 and goes on; any other level raises cause 0x02, subcode 6, with the level's number. Completes: bra, braAll,
braNone, call, loop, nop. -/
def Obligations.BranchesCallsAndLoops : Prop :=
  (∀ (h : Hdr) (dst : Reg) (off : BitVec 24) (s : State) (c : Ctx),
     let link := fun (tag : Tag) => (c.w.put c dst.toNat c.act (laneSplat ((c.w.pc + 8).setWidth 32)) tag (c.lat 4 5)).put c
       (dst.toNat + 1) c.act (laneSplat (((c.w.pc + 8) >>> 32).setWidth 32)) tag (c.lat 4 5)
     let there := c.w.pc + 8 + 8 * off.signExtend 57
     let goes := fun (i : Instr) (taken : Prop) => (taken → Continues i s c c.w (c.g.counted [(1, 1)]) there) ∧
       (¬taken → Continues i s c c.w (c.g.counted [(1, 1)]) (c.w.pc + 8))
     let true_ := fun l => c.w.exm.getLsbD l = true ∧ c.w.guard h l = true
     (c.ready s h {} →
       goes (.bra h off) (h.g = false ∨ ∃ l, l < 32 ∧ true_ l) ∧
       goes (.braAll h off) (h.g = false ∨ ∀ l, l < 32 → c.w.exm.getLsbD l = true → true_ l) ∧
       goes (.braNone h off) (∀ l, l < 32 → ¬true_ l) ∧
       Completes (.nop h) s c c.w (c.g.counted [(1, 1)])) ∧
     (c.ready s h ⟨[], [(dst.toNat, 2)], false, false, false, false, 0, false, none, false, none⟩ →
       (h.g = false ∨ c.act ≠ 0 → ∃ tag, Continues (.call h dst off) s c (link tag) (c.g.counted [(1, 1)])
         (c.w.pc + 8 + 8 * off.signExtend 57)) ∧
       (h.g = true ∧ c.act = 0 → Completes (.call h dst off) s c c.w (c.g.counted [(1, 1)])))) ∧
  (∀ (h : Hdr) (n : Fin 6) (off : BitVec 16) (s : State) (c : Ctx), c.ready s h {} →
     let lv := c.g.loops.getD n.val ⟨0, .absent⟩
     let i := (c.w.loops.getD n.val 0).toNat
     let set := fun (x : Nat) => { c.w with loops := listSet n.val (BitVec.ofNat 32 x) c.w.loops }
     (lv.mark = .temporal → i + 1 < lv.extent →
       Continues (.loop h n off) s c (set (i + 1)) (c.g.counted [(1, 1)]) (c.w.pc + 8 + 8 * off.signExtend 57)) ∧
     (lv.mark = .temporal → lv.extent ≤ i + 1 → Completes (.loop h n off) s c (set 0) (c.g.counted [(1, 1)])) ∧
     (lv.mark ≠ .temporal → exec (.loop h n off) s = .next (s.raise c.id (causeVal 0x02 6 (BitVec.ofNat 32 n.val)))))

/-- R132, R133, R162: an indirect jump takes bits 56 to 0 of the pair of its lowest-numbered active lane; with no active lane
it only goes on; a target off a word raises cause 0x03 with the target's low 32 bits. A `JMPL` that is taken writes the link,
the next word's address, to its pair in the active lanes alone: bits 31 to 0 to the even register, bits 56 to 32 to the odd
one. Completes: jmp, jmpl, ret. -/
def Obligations.IndirectJumps : Prop :=
  ∀ (h : Hdr) (a dst : Reg) (s : State) (c : Ctx),
    let use := fun (dsts : List (Nat × Nat)) => (⟨[srcL a 2], dsts, false, false, false, false, 0, false, none, false, none⟩ : Use)
    let none_ := ∀ l, l < 32 → c.act.getLsbD l = false
    let first := fun l => l < 32 ∧ c.act.getLsbD l = true ∧ ∀ k, k < l → c.act.getLsbD k = false
    let target := fun l => (c.val64 a l).setWidth 57
    let link := fun (n : Reg) (tag : Tag) => (c.w.put c n.toNat c.act (laneSplat ((c.w.pc + 8).setWidth 32)) tag (c.lat 4 5)).put c
      (n.toNat + 1) c.act (laneSplat (((c.w.pc + 8) >>> 32).setWidth 32)) tag (c.lat 4 5)
    let jumps := fun (i : Instr) (w : Tag → Warp) =>
      (none_ → Completes i s c c.w (c.g.counted [(1, 1)])) ∧
      (∀ l, first l → (target l).toNat % 8 = 0 → ∃ tag, Continues i s c (w tag) (c.g.counted [(1, 1)]) (target l)) ∧
      (∀ l, first l → (target l).toNat % 8 ≠ 0 → exec i s = .next (s.raise c.id (causeVal 0x03 0 ((c.val64 a l).setWidth 32))))
    (c.ready s h (use []) → jumps (.jmp h a) (fun _ => c.w) ∧ jumps (.ret h a) (fun _ => c.w)) ∧
    (c.ready s h (use [(dst.toNat, 2)]) → jumps (.jmpl h dst a) (link dst))

/-- R130, R164, R166, R167: the mask instructions save, narrow, replace and complement the mask whatever it holds; inside a
melded region no lane outside the entry mask joins it; `MVOTE` gathers bit 0 of the enabled lanes. R134, R137, R160, R165,
R169: `MELD` records the mask and the path register and splits the enabled lanes; `ENDMELD` takes the entry mask back and
clears the path bits and the melded mode, keeping registers and rename tables; in trap mode it closes a suspended region,
giving the trap mask the entry mask; elsewhere it raises cause 0x08. `RNM` writes one entry of each path's table. Completes:
endmeld, mand, mandn, meld, melse, mset, mvote, rnm. -/
def Obligations.MasksAndMeldedRegions : Prop :=
  (∀ (h : Hdr) (dst a : Reg) (s : State) (c : Ctx),
     let within := fun (m : Mask) => if c.w.melded && !c.w.trap then m &&& c.w.entryMask else m
     let pick := fun (b : Bool) => maskOf (fun l => c.w.exm.getLsbD l && ((c.val a l).getLsbD 0 == b))
     let saved := fun (lat : Nat) (x : Word) => c.w.put c dst.toNat 0xFFFFFFFF#32 (laneSplat x) .uniform lat
     (c.ready s h ⟨[⟨a.toNat, 1, .mask⟩], [(dst.toNat, 1)], true, true, false, true, 0, false, none, false, none⟩ →
       Completes (.mand h dst a) s c { saved 2 c.w.exm with exm := within (pick true) } (c.g.counted [(3, 1), (1, 1)]) ∧
       Completes (.mandn h dst a) s c { saved 2 c.w.exm with exm := within (pick false) } (c.g.counted [(3, 1), (1, 1)]) ∧
       Completes (.mvote h dst a) s c (saved (if c.eland then 5 else 4) (pick true)) (c.g.counted [(2, 1), (1, 1)])) ∧
     (c.ready s h ⟨[src0 a], [], true, true, false, true, 0, false, none, false, none⟩ →
       Completes (.melse h a) s c { c.w with exm := within (c.val a 0 &&& ~~~c.w.exm) } (c.g.counted [(3, 1), (1, 1)]) ∧
       Completes (.mset h a) s c { c.w with exm := within (c.val a 0) } (c.g.counted [(3, 1), (1, 1)]))) ∧
  (∀ (h : Hdr) (vp : BitVec 6) (i : BitVec 4) (x y : Reg) (s : State) (c : Ctx),
     (c.ready s h ⟨[⟨vp.toNat, 1, .mask⟩], [], false, false, false, false, 0, false, none, false, none⟩ →
       Completes (.meld h vp) s c { c.w with entryMask := c.w.exm, meldReg := vp, melded := true, paths := maskOf (fun l =>
         c.w.exm.getLsbD l && (laneVal (c.w.reg vp.toNat).vals l).getLsbD 0) } (c.g.counted [(1, 1)])) ∧
     (c.ready s h ⟨[], [], false, true, false, false, 0, false, none, false, none⟩ →
       (c.w.trap = false → c.w.melded = true →
         Completes (.endmeld h) s c { c.w with exm := c.w.entryMask, paths := 0, melded := false } (c.g.counted [(1, 1)])) ∧
       (c.w.trap = false → c.w.melded = false → exec (.endmeld h) s = .next (s.raise c.id (cause0 0x08 0))) ∧
       (c.w.trap = true → c.w.melded = true →
         Completes (.endmeld h) s c { c.w with trapMask := c.w.entryMask, paths := 0, melded := false } (c.g.counted [(1, 1)])) ∧
       (c.w.trap = true → c.w.melded = false → Completes (.endmeld h) s c c.w (c.g.counted [(1, 1)]))) ∧
     (c.ready s h ⟨[], [], false, false, false, false, 0, false, none, false, none⟩ →
       Completes (.rnm h i x y) s c { c.w with ren0 := listSet i.toNat x c.w.ren0, ren1 := listSet i.toNat y c.w.ren1 }
         (c.g.counted [(1, 1)])))

/-- R139 to R141, R158: `BRS` splits the enabled lanes by bit 0 of its register; with one side empty it only goes where the
lanes go; otherwise the smaller side, the taken one on a tie, goes to the spawn memory, one entry a lane in ascending order
with its resume address, and leaves the mask; entries that do not fit raise cause 0x09 with the bytes they needed, before any
effect. That the taken side stands at the next word's address plus 8 times the offset is the model's choice (log entry 9). Completes:
brs. -/
def Obligations.SpawningBranch : Prop :=
  ∀ (h : Hdr) (live : Reg) (off : BitVec 24) (s : State) (c : Ctx),
    c.ready s { h with g := false, sense := false, guard := 0 }
      ⟨[⟨h.guard.toNat, 1, .mask⟩, src0 live], [], false, false, false, false, 0, false, none, false, some h.guard.toNat⟩ →
    let taken := c.w.active h
    let fell := c.w.exm &&& ~~~taken
    let there := c.w.pc + 8 + 8 * off.signExtend 57
    let small : Bool := decide (maskCount taken ≤ maskCount fell)
    let out := if small then taken else fell
    let regs := liveRegs c.w.budget (c.val live 0)
    let need := maskCount out * (16 + 4 * regs.length)
    (taken = 0 → Completes (.brs h live off) s c c.w (c.g.counted [(2, 1), (1, 1)])) ∧
    (taken ≠ 0 → fell = 0 → Continues (.brs h live off) s c c.w (c.g.counted [(2, 1), (1, 1)]) there) ∧
    (taken ≠ 0 → fell ≠ 0 → regs.any c.w.heldRead.contains = false → s.pondFree c.g.core < need →
      exec (.brs h live off) s = .next (s.raise c.id (causeVal 0x09 0 (BitVec.ofNat 32 need)))) ∧
    (taken ≠ 0 → fell ≠ 0 → regs.any c.w.heldRead.contains = false → need ≤ s.pondFree c.g.core →
      ∃ t w g es, exec (.brs h live off) s = .next t ∧ Table.find c.id t.warps = some w ∧ Table.find c.w.wg t.wgs = some g ∧
        w = { c.w with exm := c.w.exm &&& ~~~out }.stepTo c.wc (if small then c.w.pc + 8 else there) ∧
        g.pond = c.g.pond ++ es ∧ es.map PondEntry.lane = (List.range 32).filter (fun l => out.getLsbD l) ∧
        (∀ e ∈ es, e.resume = (if small then there else c.w.pc + 8).toNat ∧ e.role = c.w.role ∧ e.budget = c.w.budget ∧
          e.warpIdx = c.w.idx ∧ e.loops = c.w.loops ∧
          e.regs = regs.map (fun r => (r, laneVal (c.w.reg r).vals e.lane, (c.w.reg r).poison.getLsbD e.lane))) ∧
        t.mem = s.mem ∧ t.cores = s.cores ∧ t.hubs = s.hubs)

/-- R147, R153, R161: `ALIGN` arrives at its window and waits there; a mask that omits the warp's own bit, or differs from
that of a window already forming, raises cause 0x0A with the mask outside trap mode; in trap mode, where no such cause is
raised (R381), the first goes on and the second waits for that window's end (log entry 36, the model's choice). `UNALIGN`
takes the warp out of its window, and outside one has no effect. `EXIT` ends the warp and writes no memory. Completes: exit,
align, unalign. -/
def Obligations.WindowsAndExit : Prop :=
  ∀ (h : Hdr) (a : Reg) (s : State) (c : Ctx),
    let m := c.val a 0
    let bit : Mask := BitVec.ofNat 32 (2 ^ c.w.idx)
    let waits := fun (t : State) (win : Option Window) => t = { s with
      warps := Table.ins c.id { c.w with wait := .align } s.warps, wgs := Table.ins c.w.wg { c.g with win := win } s.wgs }
    (c.ready s h ⟨[src0 a], [], false, false, false, false, 0, false, none, false, none⟩ →
      (m.getLsbD c.w.idx = false → c.w.trap = false → exec (.align h a) s = .next (s.raise c.id (causeVal 0x0A 0 m))) ∧
      (m.getLsbD c.w.idx = false → c.w.trap = true → Completes (.align h a) s c c.w (c.g.counted [(1, 1)])) ∧
      (m.getLsbD c.w.idx = true → c.g.win = none →
        ∃ t, exec (.align h a) s = .next t ∧ waits t (some ⟨m, bit, false, false, 0, 0, 4, 0⟩)) ∧
      (∀ x, m.getLsbD c.w.idx = true → c.g.win = some x → x.running = false → x.mask = m →
        ∃ t, exec (.align h a) s = .next t ∧ waits t (some { x with arrived := x.arrived ||| bit })) ∧
      (∀ x, m.getLsbD c.w.idx = true → c.g.win = some x → x.running = false → x.mask ≠ m → c.w.trap = false →
        exec (.align h a) s = .next (s.raise c.id (causeVal 0x0A 0 m))) ∧
      (∀ x, m.getLsbD c.w.idx = true → c.g.win = some x → x.running = false → x.mask ≠ m → c.w.trap = true →
        ∃ t, exec (.align h a) s = .next t ∧ waits t (some x)) ∧
      (∀ x, m.getLsbD c.w.idx = true → c.g.win = some x → x.running = true →
        ∃ t, exec (.align h a) s = .next t ∧ waits t (some x))) ∧
    (c.ready s h {} →
      (c.w.window = false → Completes (.unalign h) s c c.w (c.g.counted [(1, 1)])) ∧
      (c.w.window = true → Completes (.unalign h) s c { c.w with window := false } (Wg.counted { c.g with
        win := c.g.win.map (fun x => { x with inside := x.inside &&& ~~~bit }) } [(1, 1)]))) ∧
    (c.ready s h ⟨[], [], false, false, false, false, 0, false, none, false, none⟩ → c.w.pend = [] →
      ∃ t, exec (.exit h) s = .next t ∧ t.warps = Table.del c.id s.warps ∧ t.mem = s.mem ∧ t.seals = s.seals ∧
        t.cores = s.cores ∧ t.hubs = s.hubs)

/-! ## Memory -/

/-- R1, R182: reading bytes after writing them under one key gives what was written, in the place written, and what stood
there before anywhere else, in every state whose memory is canonical; the write keeps memory canonical. R41, R42, R47, R66: a
result written outside a window stands in every active lane of its register field, however the field resolves there; in every lane
that is masked off, and in every register other than the one the field resolves to in a lane, that lane keeps its value and its
poison mark; a register that no active lane resolves to stays whole; a full write takes the result's tag and clears every mark. In a
window nothing is seen before the result lands. -/
def Obligations.WritesRead : Prop :=
  (∀ (s : State) (key loc x : Nat) (bs : List Byte), s.inv →
     (s.putAt key loc bs).inv ∧
     (s.putAt key loc bs).byteAt key x = if loc ≤ x ∧ x < loc + bs.length then bs.getD (x - loc) 0 else s.byteAt key x) ∧
  (∀ (w : Warp) (c : Ctx) (n k l lat : Nat) (m : Mask) (vals : Lanes) (tag : Tag), l < 32 →
     Table.wf RegVal.zero w.regs = true →
     (w.inWindow = true → (w.put c n m vals tag lat).regs = w.regs) ∧
     (w.inWindow = false →
       (m.getLsbD l = true → (w.put c n m vals tag lat).rd n l = laneVal vals l ∧
         ((w.put c n m vals tag lat).reg (w.slot n l)).poison.getLsbD l = false) ∧
       (k ∉ w.slotsOf n m → (w.put c n m vals tag lat).reg k = w.reg k) ∧
       (m.getLsbD l = false ∨ k ≠ w.slot n l →
         laneVal ((w.put c n m vals tag lat).reg k).vals l = laneVal (w.reg k).vals l ∧
         ((w.put c n m vals tag lat).reg k).poison.getLsbD l = (w.reg k).poison.getLsbD l) ∧
       (m = 0xFFFFFFFF#32 → w.meldName n = false → (w.put c n m vals tag lat).reg (w.slot n 0) = ⟨tag, vals, 0⟩)))

/-- R171, R174, R208: a private load outside a window, aligned, within the allocation and clear of range locks in every active
lane, and meeting no poison and no element that the warp has supplied to a store stream and that is not on its way, gives each
active lane the bytes at its address, zero- or sign-extended, or word by word from a wider access, tagged general and
unmarked; it changes no lane or register it does not name, no byte of memory, and no other warp. R190, R208, R209: a load or
an asynchronous load whose checks pass and whose banks can serve it completes: its lanes stand outstanding, the asynchronous
one with its token, until they land; no byte of memory changes, and no register before the landing. Where a FIFO bank it reads
holds too few entries the warp waits, and it waits, unchecked, while a bank it addresses is switching (R205). Completes: ld,
lda. -/
def Obligations.Loads : Prop :=
  (∀ (h : Hdr) (k : LdKind) (dst a : Reg) (imm : BitVec 16) (s : State) (c : Ctx),
     let n := ldBytes k
     let addr := fun l => (c.val a l + imm.signExtend 32).toNat
     let slots := fun l => (span dst.toNat (wordsOf n)).map (fun r => c.w.slot r l)
     c.ready s h ⟨[srcA a 1], [(dst.toNat, wordsOf n)], true, true, false, false, 0, false, none, false, none⟩ →
     c.w.inWindow = false → c.g.barPend = [] → Table.wf RegVal.zero c.w.regs = true →
     (∀ l, l < 32 → c.act.getLsbD l = true → addr l % n = 0 ∧ addr l + n ≤ c.g.scratch ∧ (slots l).Nodup ∧
       rangeHit (s.core c.g.core).locks 0 c.w.wg (addr l) n false = false ∧ s.poisonAt (locPriv c.w.wg (addr l)) n = false ∧
       c.meetsSupplied n [(l, locPriv c.w.wg (addr l), 0)] = false) →
     ∃ (w : Warp) (g : Wg), exec (.ld h .priv k dst a imm) s = .next (c.after s (w.stepTo c.wc c.w.next) g) ∧
       w = { c.w with regs := w.regs } ∧
       (∀ l j, l < 32 → c.act.getLsbD l = true → j < wordsOf n →
         (w.reg (c.w.slot (dst.toNat + j) l)).tag = .general ∧ (w.reg (c.w.slot (dst.toNat + j) l)).poison.getLsbD l = false ∧
         w.rd (dst.toNat + j) l =
           let bs := ((s.bytesAt 0 (locPriv c.w.wg (addr l)) n).drop (4 * j)).take 4
           match k with
           | .si8 => BitVec.ofInt 32 (sextN (leNat bs) 8)
           | .si16 => BitVec.ofInt 32 (sextN (leNat bs) 16)
           | _ => BitVec.ofNat 32 (leNat bs)) ∧
       (∀ l x, l < 32 → (c.act.getLsbD l = false ∨ x ∉ slots l) → laneVal (w.reg x).vals l = laneVal (c.w.reg x).vals l)) ∧
  (∀ (h : Hdr) (sp : Space) (k : LdKind) (v : Width) (dst a tok : Reg) (imm : BitVec 16) (s t : State) (c : Ctx)
     (locs : List (Nat × Nat × Nat)),
     let n := ldBytes k
     let m := widthBytes v
     c.g.barPend = [] →
     (c.ready s h ⟨[addrSrc sp a], [(dst.toNat, wordsOf n)], decide (sp = .priv), true, false, false, 0, false, none, false, none⟩ →
       s.bankHeld c.g.core sp (c.addrs sp a imm.toInt) = true → exec (.ld h sp k dst a imm) s = .next (s.block c.id .bank)) ∧
     (c.ready s h ⟨[addrSrc sp a], [(dst.toNat, wordsOf n)], decide (sp = .priv), true, false, false, 0, false, none, false, none⟩ →
       s.bankHeld c.g.core sp (c.addrs sp a imm.toInt) = false →
       checkLanes s c.g c.w.wg (spCode sp) n n (decide (k = .w128)) .load true (c.addrs sp a imm.toInt) = (.ok locs, t) →
       let p := t.popLanes (c.laneLoads sp a imm.toInt dst.toNat n (decide (k = .si8 ∨ k = .si16)) locs)
       (t.fifoReady locs = false → exec (.ld h sp k dst a imm) s = .next (s.block c.id .queue)) ∧
       (t.fifoReady locs = true → c.meetsSupplied n locs = false → sp ≠ .priv → locs ≠ [] → ∃ u : State, exec (.ld h sp k dst a imm) s = .next u ∧
         u = (p.2.modWarp c.id (fun w => { w with pend := w.pend ++ [{ loads := p.1 }] })).finish c none ∧
         u.mem = s.mem ∧ u.seals = s.seals ∧
         ∃ w : Warp, Table.find c.id u.warps = some w ∧ w.pend = c.w.pend ++ [{ loads := p.1 }] ∧ w.regs = c.w.regs)) ∧
     (c.ready s h ⟨[addrSrc sp a], [(dst.toNat, wordsOf m), (tok.toNat, 1)], false, true, false, false, 0, false, none, false, none⟩ →
       s.bankHeld c.g.core sp (c.addrs sp a 0) = false →
       checkLanes s c.g c.w.wg (spCode sp) m m (decide (v = .w128)) .load true (c.addrs sp a 0) = (.ok locs, t) →
       let p := t.popLanes (c.laneLoads sp a 0 dst.toNat m false locs)
       let q : Pending := { loads := p.1, token := some (locs.map (fun e => (e.1, c.w.slot tok.toNat e.1))) }
       t.fifoReady locs = true → c.meetsSupplied m locs = false → locs ≠ [] → ∃ u : State, exec (.lda h sp v dst a tok) s = .next u ∧
         u = (p.2.modWarp c.id (fun w => { w with pend := w.pend ++ [q] })).finish c none ∧
         u.mem = s.mem ∧ u.seals = s.seals ∧
         ∃ w : Warp, Table.find c.id u.warps = some w ∧ w.pend = c.w.pend ++ [q] ∧ w.regs = c.w.regs))

/-- R171, R174, R189, R215: a private store, aligned, within the allocation and clear of range locks and of what the warp has
supplied to store streams in every active lane, writes the bytes of its active lanes in ascending order, a later lane's over
an earlier one's, and nothing else: every byte outside the ranges stored to reads as before, and no register changes. R179,
R215, R218: a cluster or global store whose checks pass, with no bank it addresses switching, no outstanding load and no
supplied element of its own over its bytes and room in the FIFO banks it pushes to, completes at once: its pieces go on their
way as pending writes of the core, one for each line, or into the FIFO; no byte of memory and no register changes before the
writes are performed. Completes: st. -/
def Obligations.Stores : Prop :=
  (∀ (h : Hdr) (k : StKind) (d a : Reg) (imm : BitVec 16) (s : State) (c : Ctx),
     let n := stBytes k
     let addr := fun l => (c.val a l + imm.signExtend 32).toNat
     let loc := fun l => locPriv c.w.wg (addr l)
     c.ready s h ⟨[srcA a 1, srcA d (wordsOf n)], [], true, true, false, false, 0, false, none, false, none⟩ → s.inv →
     c.w.pend = [] → c.g.barPend = [] →
     (∀ l, l < 32 → c.act.getLsbD l = true → addr l % n = 0 ∧ addr l + n ≤ c.g.scratch ∧
       rangeHit (s.core c.g.core).locks 0 c.w.wg (addr l) n true = false ∧ c.meetsSupplied n [(l, loc l, 0)] = false) →
     ∃ t : State, exec (.st h .priv k d a imm) s = .next t ∧
       Table.find c.id t.warps = some (c.w.stepTo c.wc c.w.next) ∧ t.cores = s.cores ∧ t.hubs = s.hubs ∧ t.banks = s.banks ∧
       (∀ x, (∀ l, l < 32 → c.act.getLsbD l = true → x < loc l ∨ loc l + n ≤ x) → t.byteAt 0 x = s.byteAt 0 x) ∧
       (∀ l x, l < 32 → c.act.getLsbD l = true → loc l ≤ x → x < loc l + n →
         (∀ j, l < j → j < 32 → c.act.getLsbD j = true → x < loc j ∨ loc j + n ≤ x) →
         t.byteAt 0 x = (c.w.storeBytes d.toNat n l).getD (x - loc l) 0)) ∧
  (∀ (h : Hdr) (sp : Space) (k : StKind) (d a : Reg) (imm : BitVec 16) (s t : State) (c : Ctx) (locs : List (Nat × Nat × Nat)),
     let n := stBytes k
     let ps := locs.map (fun e => (e.2.1, e.2.2, c.w.storeBytes d.toNat n e.1))
     sp ≠ .priv → c.g.barPend = [] →
     c.ready s h ⟨[addrSrc sp a, srcA d (wordsOf n)], [], false, true, false, false, 0, false, none, false, none⟩ →
     s.bankHeld c.g.core sp (c.addrs sp a imm.toInt) = false →
     checkLanes s c.g c.w.wg (spCode sp) n n (decide (k = .w128)) .store true (c.addrs sp a imm.toInt) = (.ok locs, t) →
     (t.fifoRoom locs = false → exec (.st h sp k d a imm) s = .next (s.block c.id .queue)) ∧
     (t.fifoRoom locs = true → locs.any (fun e => c.w.loading e.2.1 n) = false → c.meetsSupplied n locs = false →
       ∃ u : State, exec (.st h sp k d a imm) s = .next u ∧
       u = ((t.pushLanes ps).storePieces c sp (ps.filter (fun p => !t.isFifo p.1))).finish c none ∧
       u.mem = s.mem ∧ u.seals = s.seals ∧ ∃ w : Warp, Table.find c.id u.warps = some w ∧ w.regs = c.w.regs ∧ w.pend = c.w.pend))

/-- R174, R175: outside a switching bank (R205) a load or store with an active lane whose address is not a multiple of its
size raises cause 0x03, whatever else its lanes meet, before any lane has an effect: no byte of memory changes and nothing is
stored or loaded. -/
def Obligations.MisalignedAccess : Prop :=
  ∀ (h : Hdr) (sp : Space) (k : LdKind) (j : StKind) (d a : Reg) (imm : BitVec 16) (s : State) (c : Ctx) (l : Nat),
    let off := fun (n : Nat) => (match sp with
      | .glob => (c.val64 a l + imm.signExtend 64).toNat
      | _ => (c.val a l + imm.signExtend 32).toNat) % n ≠ 0
    let traps := fun (i : Instr) => ∃ (t : State) (x : CauseInfo), exec i s = .next (t.raise c.id x) ∧ x.code = 0x03 ∧ x.sub = 0 ∧ t.mem = s.mem ∧
      t.warps = s.warps ∧ t.banks = s.banks
    l < 32 → c.act.getLsbD l = true → s.bankHeld c.g.core sp (c.addrs sp a imm.toInt) = false →
    (c.ready s h ⟨[addrSrc sp a], [(d.toNat, wordsOf (ldBytes k))], decide (sp = .priv), true, false, false, 0, false, none, false, none⟩ →
      off (ldBytes k) → traps (.ld h sp k d a imm)) ∧
    (c.ready s h ⟨[addrSrc sp a, srcA d (wordsOf (stBytes j))], [], decide (sp = .priv), true, false, false, 0, false, none, false, none⟩ →
      off (stBytes j) → traps (.st h sp j d a imm))

/-- R205, R206, R207: `FLUSH.G` and `INVAL.G` write home, and the second drops, the line of each active lane once; `BANKQ`
reads a word of a bank of the cluster; `BANKMODE` with the bank's own mode only reads it, and else begins a switch, in which
it waits until the bank is ready; with nothing in flight to a ready bank it switches at once: every byte of it reads zero and
its FIFO is empty. Completes: flushG, invalG, bankmode, bankq. -/
def Obligations.LinesAndBanks : Prop :=
  ∀ (h : Hdr) (dst a b : Reg) (imm : BitVec 16) (s t : State) (c : Ctx) (locs : List (Nat × Nat × Nat)),
    let cl := coreCluster c.g.core
    let num := cl * 256 + (c.val a 0).toNat
    let bank := s.bank num
    let way := Table.get WayRegs.reset (num * 64 + c.g.vdev) s.cways
    let sel := (c.val b 0).toNat
    let put := fun (x : Word) (lat : Nat) => c.w.put c dst.toNat 0xFFFFFFFF#32 (laneSplat x) .uniform lat
    let core : BitVec 2 := BitVec.ofNat 2 (c.g.core % 4)
    (c.ready s h ⟨[srcA a 2], [], false, true, false, false, 0, false, none, false, none⟩ →
      checkLanes s c.g c.w.wg 2 1 1 false .load true (c.addrs .glob a imm.toInt) = (.ok locs, t) →
      locs.any (fun e => c.w.loading (e.2.1 / 256 * 256) 256) = false →
      let lines := dedup (locs.map (fun e => e.2.1 / 256))
      exec (.flushG h a imm) s = .next ((lines.foldl (fun s x => s.flushLine c x) t).finish c none) ∧
      exec (.invalG h a imm) s = .next ((lines.foldl (fun s x => (s.flushLine c x).invalLine c x) t).finish c none)) ∧
    (c.ready s h ⟨[src0 a, src0 b], [(dst.toNat, 1)], false, false, false, false, 0, false, none, false, none⟩ →
      (sel ≤ 4 → (c.val a 0).toNat < kindBanks (chipKind (cl / 8)) →
        Completes (.bankq h dst a b) s c (put (match sel with
          | 0 => bank.word
          | 1 => if bank.mode = 0 then way.fill.setWidth 32 else 0
          | 2 => if bank.mode = 0 then BitVec.ofNat 32 way.occ else 0
          | 3 => if bank.mode = 0 then way.hits else 0
          | _ => if bank.mode = 0 then way.misses else 0) (if c.eland then 34 else 30)) (c.g.counted [(1, 1)])) ∧
      (c.w.bankOp = none → sel = 0 ∨ 3 < sel → exec (.bankmode h dst a b) s = .next (s.raise c.id (causeVal 0x02 6 (c.val b 0)))) ∧
      (c.w.bankOp = none → bank.switching = [] → 0 < sel → sel ≤ 3 → (c.val a 0).toNat < kindBanks (chipKind (cl / 8)) → bank.mode ≠ 0 →
        bank.vdev.toNat = c.g.vdev →
        (bank.mode.toNat = sel ∧ (sel = 3 → bank.core = core) →
          Completes (.bankmode h dst a b) s c (put (bank.mode.setWidth 32) 1) (c.g.counted [(1, 1)])) ∧
        (¬(bank.mode.toNat = sel ∧ (sel = 3 → bank.core = core)) → s.bankReady num = false → ∃ (u : State) (w : Warp),
          exec (.bankmode h dst a b) s = .next u ∧ Table.find c.id u.warps = some w ∧ w.wait = .bank ∧ w.pc = c.w.pc ∧ w.regs = c.w.regs ∧
          w.bankOp = some (num, bank.mode.setWidth 32) ∧ (u.bank num).switching ≠ [] ∧ u.mem = s.mem) ∧
        (¬(bank.mode.toNat = sel ∧ (sel = 3 → bank.core = core)) → s.inv → s.bankWaits num = false → s.bankReady num = true → ∃ u : State,
          exec (.bankmode h dst a b) s = .next u ∧
          (∃ w : Warp, Table.find c.id u.warps = some w ∧ w = (put (bank.mode.setWidth 32) 1).stepTo c.wc c.w.next) ∧
          u.bank num = { bank with
            mode := BitVec.ofNat 2 sel, core := (if sel = 3 then core else bank.core), world := BitVec.ofNat 8 c.g.world, vdev := BitVec.ofNat 6 c.g.vdev, fifo := [], head := 0 } ∧
          (∀ x, 2 ^ 56 + num * 2 ^ 17 ≤ x → x < 2 ^ 56 + (num + 1) * 2 ^ 17 → u.byteAt 0 x = 0) ∧
          (∀ x, 2 ^ 56 + (num + 1) * 2 ^ 17 ≤ x ∨ x < 2 ^ 56 + num * 2 ^ 17 → u.byteAt 0 x = s.byteAt 0 x))))

/-! ## Synchronisation accesses, fences, barriers, queues and joins -/

/-- R210, R212, R213, R214: opening a free slot with a record that passes its checks gives the slot to the warp; closing it
frees it; taking delivers the next elements to the lanes in order and drops them from the queue; giving checks every element
and queues it; the status forms read the slot's words into every lane. A slot already open, another warp's, or of the other
kind raises cause 0x40 with its number. Completes: sopenLd, sopenSt, sclose, sld, sst, sstat, sstatStall, sstatPoison. -/
def Obligations.Streams : Prop :=
  ∀ (h : Hdr) (v : Width) (slot : BitVec 3) (r x dst : Reg) (s t : State) (c : Ctx) (bs : List Byte) (st : Stream),
    let n := slot.toNat
    let words := widthBytes v / 4
    let bad := fun (i : Instr) => exec i s = .next (s.raise c.id (causeVal 0x40 0 (slot.setWidth 32)))
    let opens := fun (i : Instr) (store : Bool) =>
      (∀ y, Table.find n c.g.streams = some y → y.opened = true → bad i) ∧
      (∀ pr : PatRec, (∀ y, Table.find n c.g.streams = some y → y.opened = false) →
        s.readRecord c.w.wg c.g (c.val r 0) = (.ok bs, t) → recFails (recWords bs) c.g.world false = none →
        recOf (recWords bs) = pr → (pr.block = true → (t.btFor c.g (bits pr.index 15 0)).isSome = true) →
        let y : Stream := { opened := true, store := store, owner := c.id, record := pr,
                            coords := (span x.toNat 4).map (fun k => (c.w.rd k 0).toInt), total := pr.box.foldl (· * ·) 1,
                            seq := t.opSeq }
        ∃ u : State, exec i s = .next u ∧ u.mem = s.mem ∧ u.warps = Table.ins c.id (c.w.stepTo c.wc c.w.next) t.warps ∧
          ∃ g : Wg, Table.find c.w.wg u.wgs = some g ∧ g.streams = Table.ins n y c.g.streams)
    (c.ready s h ⟨[src0 r, src0 x 4], [], false, false, false, false, 0, false, none, false, none⟩ →
      opens (.sopenLd h slot r x) false ∧ opens (.sopenSt h slot r x) true) ∧
    (c.ready s h ⟨[], [], false, false, false, false, 0, false, none, false, none⟩ →
      (∀ u : State, Table.find n c.g.streams = some st → st.opened = true → st.owner = c.id → s.closeStream c.w.wg n = some u →
        exec (.sclose h slot) s = .next (u.finish c none)) ∧
      (Table.find n c.g.streams = some st → st.opened = true → st.owner ≠ c.id → bad (.sclose h slot)) ∧
      (Table.find n c.g.streams = none → Completes (.sclose h slot) s c c.w (c.g.counted [(1, 1)])) ∧
      (Table.find n c.g.streams = some st → st.opened = false → Completes (.sclose h slot) s c c.w (c.g.counted [(1, 1)]))) ∧
    (c.ready s h ⟨[], [(dst.toNat, words)], false, false, false, false, 0, false, none, false, none⟩ →
      (usable (Table.find n c.g.streams) c.id false v = none → bad (.sld h v dst slot)) ∧
      (usable (Table.find n c.g.streams) c.id false v = some st → let k := min 32 (st.total - st.done)
        k ≤ st.queue.length → (∀ e ∈ st.queue.take k, e.ready = true ∧ e.poison = false) →
        (∀ l, l < 32 → ((span dst.toNat words).map (fun m => c.w.slot m l)).Nodup) → Table.wf RegVal.zero c.w.regs = true →
        ∃ (w : Warp) (g : Wg), exec (.sld h v dst slot) s = .next (c.after s (w.stepTo c.wc c.w.next) g) ∧
          g.streams = Table.ins n { st with done := st.done + k, queue := st.queue.drop k } c.g.streams ∧
          (∀ l j, l < 32 → j < words → c.act.getLsbD l = true → w.rd (dst.toNat + j) l =
            match st.queue[l]? with
            | some e => if l < k then (loadWords e.bytes false).getD j (c.w.rd (dst.toNat + j) l) else 0
            | none => 0) ∧
          (∀ l j, l < 32 → j < 272 → c.act.getLsbD l = false → laneVal (w.reg j).vals l = laneVal (c.w.reg j).vals l))) ∧
    (c.ready s h ⟨[srcA x words], [], false, false, false, false, 0, false, none, false, none⟩ →
      (usable (Table.find n c.g.streams) c.id true v = none → bad (.sst h v slot x)) ∧
      (∀ es, usable (Table.find n c.g.streams) c.id true v = some st → (st.supplied.length + 32) * st.record.size ≤ 2048 →
        s.resolveLanes (s.streamResolver c.w.wg c.g st) st .store
          (((List.range 32).filter (fun l => c.act.getLsbD l && decide (st.done + l < st.total))).map (fun l => (l, st.done + l)))
          = ([], es, t) →
        (∀ e ∈ es, (∃ loc at_ ad via, e.2.2 = .ok loc at_ ad via) ∨ e.2.2 = .clip) →
        ∃ y : Stream, exec (.sst h v slot x) s = .next ((t.setStream c.w.wg n y).finish c none) ∧
          y.done = min st.total (st.done + 32) ∧ y.supplied = st.supplied ++ suppliedOf c x st.record.size es)) ∧
    (c.ready s h ⟨[], [(dst.toNat, 1)], false, false, false, false, 0, false, none, false, none⟩ →
      let reads := fun (i : Instr) (f : Stream → Word) =>
        (Table.find n c.g.streams = some st → st.owner = c.id → Completes i s c
          (c.w.put c dst.toNat 0xFFFFFFFF#32 (laneSplat (f st)) .uniform (if c.eland then 5 else 4)) (c.g.counted [(1, 1)])) ∧
        (Table.find n c.g.streams = some st → st.owner ≠ c.id → bad i)
      reads (.sstat h dst slot) Stream.status ∧ reads (.sstatStall h dst slot) (fun y => BitVec.ofNat 32 y.stallCount) ∧
      reads (.sstatPoison h dst slot) (fun y => BitVec.ofNat 32 y.poisonCount))

/-- R248, R250 to R254, R268, R278 to R280: a synchronisation access whose checks up to translation pass, with no bank it
addresses switching, no access to the same bytes outstanding that it follows and, for a release, its waits over, is presented
to the checker of its storage, where the warp waits with no byte of memory and no register changed; in private space it is
answered at once. Completes: ldaq, strl, atomAdd, atomAddF32, atomMin, atomMax, atomAnd, atomOr, atomXor, atomExch, atomCas,
atomInc, redAdd, redAddF32, redMin, redMax, redAnd, redOr, redXor, jadd, jarr, jwait, jpoll. -/
def Obligations.AccessesPresent : Prop :=
  ∀ (h : Hdr) (sc : BitVec 4) (sp : Space) (w64 : Bool) (ty : IntTy) (dst a b : Reg) (s t : State) (c : Ctx)
    (locs : List (Nat × Nat × Nat)),
    let n := if w64 then 8 else 4
    let regs := fun (m : Nat) (x : Option Reg) => match x with | some y => [srcA y (wordsOf m)] | none => []
    let outs := fun (m : Nat) (x : Option Reg) => match x with | some y => [(y.toNat, wordsOf m)] | none => []
    let val := fun (m : Nat) (x : Option Reg) l => match x with
      | some y => if m = 8 then (c.val64 y l).toNat else (c.val y l).toNat
      | none => 0
    let goes := fun (i : Instr) (m : Nat) (kind : SyncKind) (r : SyncReq) =>
      c.w.sync = none → c.g.barPend = [] → s.syncOrder c sc.toNat m locs = false →
      (kind.releases = true → s.released c.id c.g c.w sc.toNat = true) → locs ≠ [] →
      (sp = .priv → exec i s = .next (t.answer c r)) ∧
      (sp ≠ .priv → ∃ u : State, exec i s = .next u ∧ u = (t.modWarp c.id (fun w => { w with sync := some r })).block c.id .checker ∧
        u.mem = s.mem ∧ u.seals = s.seals ∧
        Table.find c.id u.warps = some { c.w with sync := some r, wait := .checker })
    let access := fun (i : Instr) (m : Nat) (kind : SyncKind) (acc : AccessKind) (x d : Option Reg) =>
      let cas := decide (kind = .atom .cas)
      c.ready s h ⟨addrSrc sp a :: regs m x ++ (if cas then regs m d else []), outs m d, false, true, false, false, 0, false,
        some sc.toNat, false, none⟩ →
      s.bankHeld c.g.core sp (c.addrs sp a 0) = false →
      checkLanes s c.g c.w.wg (spCode sp) m m false acc (decide (sp = .priv)) (c.addrs sp a 0) = (.ok locs, t) →
      goes i m kind { kind := kind, scope := sc.toNat, bytes := m, space := spCode sp, lanes := locs.map (fun e =>
        ⟨e.1, e.2.1, c.w.addr sp a.toNat 0 e.1, e.2.2, val m x e.1, if cas then val m d e.1 else 0,
          match d with | some y => (span y.toNat (wordsOf m)).map (fun q => c.w.slot q e.1) | none => []⟩) }
    let join := fun (i : Instr) (kind : SyncKind) (acc : AccessKind) (srcs : List Src) (d : Option Reg) (x : Nat) =>
      c.ready s h ⟨joinSrc sp a :: srcs, outs 4 d, false, false, false, false, 0, false, some sc.toNat, false, none⟩ →
      s.bankHeld c.g.core sp [(0, c.w.addr sp a.toNat 0 0)] = false →
      checkLanes s c.g c.w.wg (spCode sp) 4 4 false acc (decide (sp = .priv)) [(0, c.w.addr sp a.toNat 0 0)] = (.ok locs, t) →
      goes i 4 kind { kind := kind, scope := sc.toNat, bytes := 4, space := spCode sp, lanes := locs.map (fun e =>
        ⟨0, e.2.1, c.w.addr sp a.toNat 0 0, e.2.2, x, 0, match d with | some y => [c.w.slot y.toNat 0] | none => []⟩) }
    access (.ldaq h sc sp w64 dst a) n .ldaq .load none (some dst) ∧
    access (.strl h sc sp w64 a b) n .strl .store (some b) none ∧
    access (.atomAdd h sc sp w64 dst a b) n (.atom .add) .rmw (some b) (some dst) ∧
    access (.atomAddF32 h sc sp dst a b) 4 (.atom .addF32) .rmw (some b) (some dst) ∧
    access (.atomMin h ty sc sp dst a b) 4 (.atom (if ty = .si32 then .minS else .minU)) .rmw (some b) (some dst) ∧
    access (.atomMax h ty sc sp dst a b) 4 (.atom (if ty = .si32 then .maxS else .maxU)) .rmw (some b) (some dst) ∧
    access (.atomAnd h sc sp w64 dst a b) n (.atom .and) .rmw (some b) (some dst) ∧
    access (.atomOr h sc sp w64 dst a b) n (.atom .or) .rmw (some b) (some dst) ∧
    access (.atomXor h sc sp w64 dst a b) n (.atom .xor) .rmw (some b) (some dst) ∧
    access (.atomExch h sc sp w64 dst a b) n (.atom .exch) .rmw (some b) (some dst) ∧
    access (.atomCas h sc sp w64 dst a b) n (.atom .cas) .rmw (some b) (some dst) ∧
    access (.atomInc h sc sp dst a b) 4 (.atom .inc) .rmw (some b) (some dst) ∧
    access (.redAdd h sc sp w64 a b) n (.red .add) .rmw (some b) none ∧
    access (.redAddF32 h sc sp a b) 4 (.red .addF32) .rmw (some b) none ∧
    access (.redMin h ty sc sp a b) 4 (.red (if ty = .si32 then .minS else .minU)) .rmw (some b) none ∧
    access (.redMax h ty sc sp a b) 4 (.red (if ty = .si32 then .maxS else .maxU)) .rmw (some b) none ∧
    access (.redAnd h sc sp w64 a b) n (.red .and) .rmw (some b) none ∧
    access (.redOr h sc sp w64 a b) n (.red .or) .rmw (some b) none ∧
    access (.redXor h sc sp w64 a b) n (.red .xor) .rmw (some b) none ∧
    join (.jadd h sc sp a b) .jadd .rmw [src0 b] none (c.val b 0).toNat ∧
    join (.jarr h sc sp a) .jadd .rmw [] none ((2 ^ 32 - maskCount c.w.exm) % 2 ^ 32) ∧
    join (.jwait h sc sp a) .jwait .load [] none 0 ∧
    join (.jpoll h sc sp dst a) .jpoll .load [] (some dst) 0

/-- R234, R250: an atomic on a word of private memory, its checks passed, is performed lane by lane in ascending order: each
active lane's register takes the value its turn found, and memory what the lanes leave: the sum, the minimum, the maximum, the
bits, the exchange, the compare and exchange, or the wrapping increment; no other byte changes. R217, R237, R238: the checker
answers the access a warp of a running workgroup waits on, no bank it addresses switching (R205) and no request message of it
on its way (R477). Where a lane's line holds the record of an access whose meeting with this one lies outside either scope,
cause 0x20 is raised, and every record and every byte of memory stay; where each lane's record is inclusive or absent and no
later check fails, the records are committed and the access is performed. Completes: atomAdd, atomMin, atomMax, atomAnd,
atomOr, atomXor, atomExch, atomCas, atomInc, scopeCheckerAnswer. -/
def Obligations.AtomicsAndChecker : Prop :=
  (∀ (h : Hdr) (sc : BitVec 4) (dst a b : Reg) (s : State) (c : Ctx),
     let addr := fun l => (c.val a l).toNat
     let loc := fun l => locPriv c.w.wg (addr l)
     let old := fun (m : State) l => leNat (m.bytesAt 0 (loc l) 4)
     let one := fun (f : Nat → Nat → Nat → Nat) (p : State × List (Nat × Nat)) l =>
       (p.1.putAt 0 (loc l) (leBytes 4 (f (old p.1 l) (c.val b l).toNat (c.val dst l).toNat)), p.2 ++ [(l, old p.1 l)])
     let all := fun f => (((List.range 32).filter (fun l => c.act.getLsbD l)).foldl (one f) (s, []))
     let does := fun (i : Instr) (more : List Src) (f : Nat → Nat → Nat → Nat) =>
       c.ready s h ⟨addrSrc .priv a :: srcA b :: more, [(dst.toNat, 1)], false, true, false, false, 0, false, some sc.toNat, false, none⟩ →
       ∃ t w, exec i s = .next t ∧ Table.find c.id t.warps = some w ∧ w.pc = c.w.pc + 8 ∧
         (∀ x, t.byteAt 0 x = (all f).1.byteAt 0 x) ∧
         (∀ e ∈ (all f).2, w.rd dst.toNat e.1 = BitVec.ofNat 32 e.2) ∧
         (∀ l j, l < 32 → (c.act.getLsbD l = false ∨ j ≠ c.w.slot dst.toNat l) → laneVal (w.reg j).vals l = laneVal (c.w.reg j).vals l)
     s.inv → c.w.sync = none → c.w.pend = [] → c.g.barPend = [] → Table.wf RegVal.zero c.w.regs = true →
     (∀ l, l < 32 → c.act.getLsbD l = true → addr l % 4 = 0 ∧ addr l + 4 ≤ c.g.scratch ∧ s.poisonAt (loc l) 4 = false ∧
       c.meetsSupplied 4 [(l, loc l, 0)] = false ∧ (∀ p ∈ (s.core c.g.core).writes, p.touches (loc l) 4 = false ∧ ∀ u ∈ p.snap, overlaps (16 * u.1) 16 (loc l) 4 = false) ∧
       rangeHit (s.core c.g.core).locks 0 c.w.wg (addr l) 4 true = false) →
     does (.atomAdd h sc .priv false dst a b) [] (fun o x _ => (o + x) % 2 ^ 32) ∧
     does (.atomMin h .ui32 sc .priv dst a b) [] (fun o x _ => min o x) ∧
     does (.atomMax h .ui32 sc .priv dst a b) [] (fun o x _ => max o x) ∧
     does (.atomMin h .si32 sc .priv dst a b) [] (fun o x _ => if (BitVec.ofNat 32 o).toInt ≤ (BitVec.ofNat 32 x).toInt then o else x) ∧
     does (.atomMax h .si32 sc .priv dst a b) [] (fun o x _ => if (BitVec.ofNat 32 o).toInt ≤ (BitVec.ofNat 32 x).toInt then x else o) ∧
     does (.atomAnd h sc .priv false dst a b) [] (fun o x _ => o &&& x) ∧
     does (.atomOr h sc .priv false dst a b) [] (fun o x _ => o ||| x) ∧
     does (.atomXor h sc .priv false dst a b) [] (fun o x _ => o ^^^ x) ∧
     does (.atomExch h sc .priv false dst a b) [] (fun _ x _ => x) ∧
     does (.atomCas h sc .priv false dst a b) [srcA dst] (fun o x e => if o = e then x else o) ∧
     does (.atomInc h sc .priv dst a b) [] (fun o x _ => if x ≤ o then 0 else o + 1)) ∧
  (∀ (id : Nat) (s : State) (w : Warp) (g : Wg) (r : SyncReq),
     let c : Ctx := ⟨id, w, g, w.exm⟩
     let k := checkScopes s.recs r.scope (partyOf g w) r.lanes
     Table.find id s.warps = some w → Table.find w.wg s.wgs = some g → g.status = .running → w.sync = some r →
     r.kind ≠ .acq → r.seen = none → r.space ≠ 0 → s.bankHeld g.core (if r.space = 1 then .clus else .priv) r.addrs = false →
     s.askHome id g r = none → s.syncBanks g r = none →
     (k.1 ≠ [] → ∃ (t : State) (x : CauseInfo), exec (.scopeCheckerAnswer id) s = .next (t.raise id x) ∧ x.code = 0x20 ∧
       t.recs = s.recs ∧ t.mem = s.mem ∧ t.seals = s.seals ∧ t.warps = s.warps) ∧
     (k.1 = [] → let t : State := { s with recs := k.2 }
       t.syncLate c r = none →
         exec (.scopeCheckerAnswer id) s = .next ((t.syncPerform c r).homeRecs (dedup (r.lanes.map (fun l => l.loc / 256))))) ∧
     (∀ l q, r.lanes = [l] → Table.find (l.loc / 256) s.recs = some q →
       (k.1 = [] ↔ meeting q.party (partyOf g w l.lane) ≤ q.scope ∧ meeting q.party (partyOf g w l.lane) ≤ r.scope)))

/-- R224, R225, R251: a fence whose waits are over completes: a release raises the warp's program versions of its scope's
levels to the highest version of its writes, an acquire to the highest it has read or its scope's clock; no byte of memory and
no register changes. A fence whose waits are not over waits. R264 to R267, R281, R282: a push adds one entry of the active
lanes' values behind the others once the waits of a release are over; a pop takes the oldest into its active lanes and
acquires; a peek leaves it; the status form counts them; a full or empty queue makes the warp wait. Completes: fenceRel,
fenceAcq, fenceAr, qmovPush, qmovPop, qmovPeek, qmovStat. -/
def Obligations.FencesAndQueuePorts : Prop :=
  (∀ (h : Hdr) (sc : BitVec 4) (s : State) (c : Ctx),
     c.ready s h ⟨[], [], false, true, false, false, 0, false, some sc.toNat, false, none⟩ →
     let rel := s.released c.id c.g c.w sc.toNat
     let raised := fun (v : Nat) => (List.range 7).map (fun i => if i + 4 ≤ sc.toNat then max (c.w.pv.getD i 0) v else c.w.pv.getD i 0)
     let ends := fun (i : Instr) => ∃ (t : State) (w : Warp), exec i s = .next t ∧ Table.find c.id t.warps = some w ∧
       t.mem = s.mem ∧ t.seals = s.seals ∧ w.regs = c.w.regs ∧ w.pc = c.w.pc + 8
     let waits := fun (i : Instr) => exec i s = .next (s.block c.id .fence)
     (rel = true → Completes (.fenceRel h sc) s c { c.w with pv := raised c.w.wmax } (c.g.counted [(1, 1)])) ∧
     (rel = false → waits (.fenceRel h sc) ∧ waits (.fenceAr h sc)) ∧
     (c.w.pend ≠ [] → waits (.fenceAcq h sc)) ∧
     (c.w.pend = [] → ends (.fenceAcq h sc) ∧ ∀ (t : State) (w : Warp), exec (.fenceAcq h sc) s = .next t →
       Table.find c.id t.warps = some w → w.pv = raised (max c.w.ov (if sc.toNat < 6 then 0 else if sc.toNat = 6 then
         (s.hub (coreHub c.g.core)).clock else max (s.hub 0).clock (s.hub 1).clock))) ∧
     (rel = true → ends (.fenceAr h sc))) ∧
  (∀ (h : Hdr) (q : BitVec 3) (dst a : Reg) (s : State) (c : Ctx),
     let use := fun (srcs : List Src) (dsts : List (Nat × Nat)) => (⟨srcs, dsts, true, false, false, false, 0, false, none, false, none⟩ : Use)
     let es := c.g.queues.getD q.toNat []
     let lat := if c.eland then 5 else 4
     (c.ready s h (use [srcA a] []) →
       (4 ≤ es.length → exec (.qmovPush h q a) s = .next (s.block c.id .queue)) ∧
       (es.length < 4 → s.released c.id c.g c.w 2 = false → exec (.qmovPush h q a) s = .next (s.block c.id .fence)) ∧
       (es.length < 4 → s.released c.id c.g c.w 2 = true → Completes (.qmovPush h q a) s c c.w (Wg.counted { c.g with
         queues := listSet q.toNat (es ++ [⟨laneBuild (fun l => if c.act.getLsbD l then c.val a l else 0), c.act⟩]) c.g.queues }
         [(1, 1)]))) ∧
     (c.ready s h (use [] [(dst.toNat, 1)]) →
       (es = [] → exec (.qmovPop h dst q) s = .next (s.block c.id .queue) ∧ exec (.qmovPeek h dst q) s = .next (s.block c.id .queue)) ∧
       (∀ e rest, es = e :: rest → Completes (.qmovPeek h dst q) s c (c.w.put c dst.toNat c.act e.vals .general lat)
         (c.g.counted [(1, 1)])) ∧
       (∀ e rest, es = e :: rest → c.w.pend = [] → ∃ (t : State) (w : Warp) (g : Wg), exec (.qmovPop h dst q) s = .next t ∧
         Table.find c.id t.warps = some w ∧ w.regs = (c.w.put c dst.toNat c.act e.vals .general lat).regs ∧ w.pc = c.w.pc + 8 ∧
         Table.find c.w.wg t.wgs = some g ∧ g.queues = listSet q.toNat rest c.g.queues ∧ t.mem = s.mem) ∧
       Completes (.qmovStat h dst q) s c (c.w.put c dst.toNat 0xFFFFFFFF#32 (laneSplat (BitVec.ofNat 32 es.length)) .uniform lat)
         (c.g.counted [(1, 1)])))

/-- R255 to R259, R272 to R277: `BINIT`, `BARV`, `BARV.EXP`, `BEXP`, `BDROP` and `BSYNC` complete or arrive by queueing their
update behind the warp's earlier ones, the arrivals once the waits of a release are over; an init of 0 or above 255 raises
cause 0x41. `BTEST` writes the word where the warp has no update under way, and in a window its read joins the warp's updates under
way, its result landing 12 or 14 cycles after the issue: that it reads the warp's own updates is the model's choice (log entry 18),
R276 says only that it neither waits nor acquires. `BWAIT` of a phase that has ended, and a `BSYNC` whose arrival's phase has ended,
acquire and go on, with the word that ended the wait where they have waited; else the warp waits, a `BWAIT` in a window also while
an update of its own is under way. In a window the pair of a `BWAIT` lands 4 or 5 cycles after the issue, the model's choice (log
entry 45). Completes: binit, barv, barvExp, bexp, bdrop, bwait, btest, bsync. -/
def Obligations.BarrierInstructions : Prop :=
  ∀ (h : Hdr) (bar : BitVec 4) (dst a : Reg) (s : State) (c : Ctx),
    let use := fun (srcs : List Src) (dsts : List (Nat × Nat)) => (⟨srcs, dsts, true, false, false, false, 0, false, none, false, none⟩ : Use)
    let sends := fun (i : Instr) (k : BarChange) =>
      Completes i s c c.w (Wg.counted { c.g with barPend := c.g.barPend ++ [⟨bar.toNat, k, c.id, c.barDue⟩] } [(1, 1)])
    let rel := s.released c.id c.g c.w 2
    let waits := fun (i : Instr) => exec i s = .next (s.block c.id .fence)
    let x := (c.val a 0).toNat
    let word := s.barWord c.w.wg c.g bar.toNat
    let pair := fun (y : DWord) (lat : Nat) => (c.w.put c dst.toNat 0xFFFFFFFF#32 (laneSplat (y.setWidth 32)) .uniform lat).put c
      (dst.toNat + 1) 0xFFFFFFFF#32 (laneSplat ((y >>> 32).setWidth 32)) .uniform lat
    let goesOn := fun (i : Instr) (regs : Table RegVal) => ∃ (t : State) (w : Warp), exec i s = .next t ∧
      Table.find c.id t.warps = some w ∧ w.regs = regs ∧ w.pc = c.w.pc + 8 ∧ w.bsync = none ∧ w.barWait = none ∧ t.mem = s.mem
    let clean := ∀ u ∈ c.g.barPend, u.warp ≠ c.id
    (c.ready s h (use [src0 a] []) →
      (0 < x → x ≤ 255 → sends (.binit h bar a) (.init x)) ∧
      (x = 0 ∨ 255 < x → exec (.binit h bar a) s = .next (s.raise c.id (causeVal 0x41 0 (bar.setWidth 32)))) ∧
      (rel = true → sends (.barvExp h bar a) (.arriveExp (c.val a 0).toInt)) ∧ (rel = false → waits (.barvExp h bar a)) ∧
      sends (.bexp h bar a) (.expect (c.val a 0).toInt)) ∧
    (c.ready s h (use [] []) →
      (rel = true → sends (.barv h bar) .arrive) ∧ (rel = false → waits (.barv h bar)) ∧ sends (.bdrop h bar) .drop ∧
      (c.w.bsync = none → rel = false → waits (.bsync h bar)) ∧
      (c.w.bsync = none → rel = true → exec (.bsync h bar) s = .next ((s.modWg c.w.wg (fun g =>
        { g with barPend := g.barPend ++ [⟨bar.toNat, .sync, c.id, c.barDue⟩] })).modWarp c.id (fun w =>
        { w with bsync := some none, wait := .barrier }))) ∧
      (c.w.bsync = some none → exec (.bsync h bar) s = .next (s.block c.id .barrier)) ∧
      (∀ p : Bool, c.w.bsync = some (some p) → word.getLsbD 63 = p → c.w.barWait = some (bar.toNat, p, none) →
        exec (.bsync h bar) s = .next (s.block c.id .barrier)) ∧
      (∀ p : Bool, c.w.bsync = some (some p) → c.w.pend = [] → c.w.barWait = some (bar.toNat, p, none) → word.getLsbD 63 ≠ p →
        goesOn (.bsync h bar) c.w.regs) ∧
      (∀ (p : Bool) (y : DWord), c.w.bsync = some (some p) → c.w.pend = [] → c.w.barWait = some (bar.toNat, p, some y) →
        goesOn (.bsync h bar) c.w.regs)) ∧
    (c.ready s h (use [] [(dst.toNat, 2)]) →
      (c.w.inWindow = false → clean →
        Completes (.btest h dst bar) s c (pair word (if c.eland then 14 else 12)) (c.g.counted [(1, 1)])) ∧
      (c.w.inWindow = true → let lat := if c.eland then 14 else 12
        Completes (.btest h dst bar) s c (pair word lat) (Wg.counted { c.g with
          barPend := c.g.barPend ++ [⟨bar.toNat, .test dst.toNat (c.wc + lat), c.id, c.barDue⟩] } [(1, 1)]))) ∧
    (c.ready s h (use [src0 a] [(dst.toNat, 2)]) → c.w.inWindow = true → ¬clean →
      exec (.bwait h dst bar a) s = .next (s.block c.id .barrier)) ∧
    (c.ready s h (use [src0 a] [(dst.toNat, 2)]) → clean →
      (c.w.barWait = none → word.getLsbD 63 = (c.val a 0).getLsbD 0 → ∃ t : State, exec (.bwait h dst bar a) s = .next t ∧
        Table.find c.id t.warps = some { c.w with barWait := some (bar.toNat, (c.val a 0).getLsbD 0, none), wait := .barrier } ∧
        t.mem = s.mem) ∧
      (c.w.bsync = none → c.w.barWait = none → word.getLsbD 63 ≠ (c.val a 0).getLsbD 0 → c.w.pend = [] →
        goesOn (.bwait h dst bar a) (pair word (if c.eland then 5 else 4)).regs) ∧
      (∀ y : DWord, c.w.bsync = none → c.w.barWait = some (bar.toNat, (c.val a 0).getLsbD 0, some y) → c.w.pend = [] →
        goesOn (.bwait h dst bar a) (pair y (if c.eland then 5 else 4)).regs))

/-- R255 to R257, R272: the oldest update of a warp, when it is not early, is performed at its word. An arrival, with or without
expected bytes, raises the arrivals, `BEXP` and `BARV.EXP` the bytes awaited, `BDROP` lowers the expected count; when the arrivals
then meet the expected count and no byte is awaited the phase flips and they restart, and while bytes are awaited it does not; an init
starts a new generation. An update that would take the arrivals beyond the expected count, or the bytes out of SI32, sets the error
bit alone, and cause 0x41, subcode 1, is reported of its warp, with the barrier's number as its trap value where the warp's
descriptor delegates it. Only the word's eight bytes change. The read of a window's `BTEST` changes none, and its result takes the word
that the read finds (log entry 18, the model's choice). An update issued in a window and not yet due, and one behind an earlier update
of its warp, stay. Completes: barrierUpdate. -/
def Obligations.BarrierUpdates : Prop :=
  ∀ (gid i : Nat) (s : State) (g : Wg) (u : BarUpdate), s.inv →
    Table.find gid s.wgs = some g → g.barPend[i]? = some u →
    let loc := locPriv gid (g.bar + 8 * u.bar)
    let old : DWord := BitVec.ofNat 64 (leNat (s.bytesAt 0 loc 8))
    let b := barOf old
    let fits := fun (n : Int) => -(2 ^ 31 : Int) ≤ b.bytes + n ∧ b.bytes + n ≤ 2 ^ 31 - 1
    let counts := fun (arrived expected : Nat) (bytes : Int) =>
      (if arrived = expected ∧ bytes = 0 then ⟨!b.phase, b.error, b.gen, expected, 0, 0⟩
       else ⟨b.phase, b.error, b.gen, expected, arrived, bytes⟩ : BarWord).word
    (g.early u = true ∨ (∃ v ∈ g.barPend.take i, v.warp = u.warp) → exec (.barrierUpdate gid i) s = .next s) ∧
    (g.early u = false → (∀ v ∈ g.barPend.take i, v.warp ≠ u.warp) → ∃ t : State, exec (.barrierUpdate gid i) s = .next t ∧
      (∀ x, x < loc ∨ loc + 8 ≤ x → t.byteAt 0 x = s.byteAt 0 x) ∧
      (let new : DWord := BitVec.ofNat 64 (leNat (t.bytesAt 0 loc 8))
       let refused := new = old ||| (1 <<< 62) ∧
         ((∀ w, Table.find u.warp s.warps = some w → w.wg = gid) →
           (t.hub (coreHub g.core)).reports = (s.hub (coreHub g.core)).reports ++ [⟨0x41, 1, gid, u.warp, 0⟩]) ∧
         (∀ w, Table.find u.warp s.warps = some w → w.wg = gid → (s.trapDesc g).valid = true → (s.trapDesc g).deleg.testBit 0x41 = true →
           ∃ w', Table.find u.warp t.warps = some w' ∧ w'.async = (w.hold (causeVal 0x41 1 (BitVec.ofNat 32 u.bar))).async)
       (∀ n, u.change = .init n → new = (⟨false, false, (b.gen + 1) % 2 ^ 14, n, 0, 0⟩ : BarWord).word) ∧
       (u.change = .arrive ∨ u.change = .sync → if b.arrived + 1 ≤ b.expected then new = counts (b.arrived + 1) b.expected b.bytes
         else refused) ∧
       (∀ n, u.change = .arriveExp n →
         if b.arrived + 1 ≤ b.expected ∧ fits n then new = counts (b.arrived + 1) b.expected (b.bytes + n) else refused) ∧
       (∀ n, u.change = .expect n → if b.arrived ≤ b.expected ∧ fits n then new = counts b.arrived b.expected (b.bytes + n) else refused) ∧
       (u.change = .drop → if b.arrived + 1 ≤ b.expected then new = counts b.arrived (b.expected - 1) b.bytes else refused) ∧
       (∀ lo due, u.change = .test lo due → new = old ∧ ∀ w w', Table.find u.warp s.warps = some w → Table.find u.warp t.warps = some w' →
         w'.regs = w.regs ∧ ∀ e ∈ w'.landing, e.due = due →
           (e.slot = lo → e.vals = laneSplat (old.setWidth 32)) ∧ (e.slot = lo + 1 → e.vals = laneSplat ((old >>> 32).setWidth 32)))))

/-! ## The copy engine, block tables and the matrix unit -/

/-- R240, R283, R284, R289 to R292, R315 to R317: a copy or drain whose record and tile pass their checks enters its queue
with the leader lane's operands, registers its range locks and records its barrier's generation, and the warp goes on with no
register and no byte of memory changed; with no active lane it only goes on; with its queue full, or a bank of its cluster
side switching (R205), the warp waits. A follow-on is captured with it. R314: the copy error record goes to four registers,
every lane, and reads zero from then on. Completes: cpyG2p, cpyP2g, cpyC2p, cpyP2c, cpyG2c, cpylG, drnSt, drnAdd, cperr. -/
def Obligations.Copies : Prop :=
  (∀ (h : Hdr) (bar : BitVec 4) (rec coord follow : Reg) (s t : State) (c : Ctx) (bs : List Byte) (l : Nat) (m : MatOp),
     let r := recOf (recWords bs)
     let coords := (span coord.toNat 4).map (fun n => (c.w.rd n l).toInt)
     let tile := (c.w.rd (coord.toNat + 4) l).toNat
     let first := l < 32 ∧ c.act.getLsbD l = true ∧ ∀ k, k < l → c.act.getLsbD k = false
     let enters := fun (i : Instr) (b : State) (o : LeatOp) (locks : List RangeLock) =>
       let k := b.core c.g.core
       let q := fun (x : Core) => if o.drain then x.drainQ else x.copyQ
       ((q k).length < (if o.drain then 8 else 16) → k.locks.length + locks.length ≤ 32 → ∃ u : State, exec i s = .next u ∧
         q (u.core c.g.core) = q k ++ [{ o with id := b.opSeq, barGen := b.barGen c.w.wg c.id c.g o.bar }] ∧
         (u.core c.g.core).locks = k.locks ++ locks.map (fun x => { x with op := b.opSeq }) ∧ u.mem = s.mem ∧ u.seals = s.seals ∧
         Table.find c.id u.warps = some (c.w.stepTo c.wc c.w.next)) ∧
       ((if o.drain then 8 else 16) ≤ (q k).length → exec i s = .next (b.block c.id .queue))
     let copy := fun (i : Instr) (form : LeatForm) (minor : Nat) =>
       let cl := form == .c2p || form == .p2c
       let o := c.leatOp form minor bar r coords tile
       let space := if form = .g2c then 1 else 0
       let locks := c.tensorLock r coords cl (!o.load) ++ [⟨o.load, space, lockOwner c.g c.w.wg space, tile, tile + o.total, 0⟩]
       c.ready s h ⟨[srcL rec, srcL coord 5] ++ (if follow = 0 then [] else [srcL follow 2]), [], true, false, false, false, 0, false, none, false, none⟩ →
       (c.act = 0 → Completes i s c c.w (c.g.counted [(1, 1)])) ∧
       (first → s.readRecord c.w.wg c.g (c.w.rd rec.toNat l) = (.ok bs, t) → t.recordCause c.g (recWords bs) cl = none →
         t.copyHeld c.g form r coords tile = true → exec i s = .next (t.block c.id .bank)) ∧
       (first → s.readRecord c.w.wg c.g (c.w.rd rec.toNat l) = (.ok bs, t) → t.recordCause c.g (recWords bs) cl = none →
         t.copyHeld c.g form r coords tile = false → t.tileCause c.g l tile (r.count * r.size) (form == .g2c) = none →
         (follow = 0 → enters i t o locks) ∧
         (follow ≠ 0 → c.followWord l (c.w.rd64 follow.toNat l) r.format = .ok m → enters i t { o with follow := some m } locks))
     let drain := fun (i : Instr) (form : LeatForm) (minor : Nat) =>
       c.ready s h ⟨[srcL rec, srcL coord 5], [], true, false, false, false, 0, false, none, false, none⟩ →
       first → s.readRecord c.w.wg c.g (c.w.rd rec.toNat l) = (.ok bs, t) → t.recordCause c.g (recWords bs) false = none →
       drainRecord r (form == .drnAdd) = true → tile % 16 < c.g.tileGrant → r.box.getD 0 1 ≤ tileCols c.eland → r.box.getD 1 1 ≤ 64 →
       enters i t (c.leatOp form minor bar r coords (tile % 16)) (c.tensorLock r coords false true)
     copy (.cpyG2p h bar rec coord follow) .g2p 0x01 ∧ copy (.cpyP2g h bar rec coord follow) .p2g 0x02 ∧
     copy (.cpyC2p h bar rec coord follow) .c2p 0x03 ∧ copy (.cpyP2c h bar rec coord follow) .p2c 0x04 ∧
     copy (.cpyG2c h bar rec coord follow) .g2c 0x05 ∧
     drain (.drnSt h bar rec coord) .drnSt 0x10 ∧ drain (.drnAdd h bar rec coord) .drnAdd 0x11 ∧
     (c.ready s h ⟨[srcL rec 2, srcL coord 3], [], true, false, false, false, 0, false, none, false, none⟩ → first →
       let src := (c.w.rd64 rec.toNat l).toNat % 2 ^ 57
       let dst := (c.w.rd64 coord.toNat l).toNat % 2 ^ 57
       let n := (c.w.rd (coord.toNat + 2) l).toNat
       (n < 16 ∨ 2 ^ 24 < n ∨ n % 16 ≠ 0 → exec (.cpylG h bar rec coord) s = .next (s.raise c.id (cause0 0x02 6))) ∧
       (16 ≤ n → n ≤ 2 ^ 24 → n % 16 = 0 → src % 16 = 0 → dst % 16 = 0 →
         enters (.cpylG h bar rec coord) s { (c.leatOp .cpyl 0x08 bar noRecord [] 0) with src := src, dst := dst, count := n / 16, size := 16 }
           [⟨false, 2, c.g.asid, src, src + n, 0⟩, ⟨true, 2, c.g.asid, dst, dst + n, 0⟩]))) ∧
  (∀ (h : Hdr) (dst : Reg) (s : State) (c : Ctx),
     c.ready s h ⟨[], [(dst.toNat, 4)], false, false, false, false, 0, false, none, false, none⟩ →
     Completes (.cperr h dst) s c ((List.range 4).foldl (fun w i =>
         w.put c (dst.toNat + i) 0xFFFFFFFF#32 (laneSplat (c.g.errRec.getD i 0)) .uniform (if c.eland then 5 else 4)) c.w)
       (Wg.counted { c.g with errRec := [0, 0, 0, 0] } [(1, 1)]))

/-- R298, R299, R302, R304, R307 to R313: an operation on an entry of a table its workgroup may name, once the waits of a
release at package scope are over, takes its atomic step and answers its status: 2 for an entry of the wrong kind, 1 for an
empty pool, 3 for a block already there, 0 when done; one that needs a block copied enters the copy queue with D set, and the
warp waits; when the block has been copied the warp acquires, its register takes the status and it goes on. The reads give
four words. A table it may not name raises cause 0x19. Completes: btalloc, btshare, btcow, btfree, btmove, btrd, btstat. -/
def Obligations.BlockTables : Prop :=
  ∀ (h : Hdr) (dst a b e : Reg) (s : State) (c : Ctx) (hub : Nat) (d : BtDesc),
    let t := (c.val a 0).toNat
    let i := (c.val b 0).toNat
    let j := (c.val e 0).toNat
    let lat := if c.eland then 240 else 230
    let ent := s.btEntry d i
    let use := fun (srcs : List Reg) (n : Nat) => (⟨srcs.map (fun x => src0 x), [(dst.toNat, n)], false, false, false, false, 0, false, none, false, none⟩ : Use)
    let ends := fun (x : Instr) (u : State) (st : Nat) => exec x s = .next ((((u.acquire c.id c.g 7).modWarp c.id (fun w =>
      { w with btOp := none })).putAll c dst.toNat (BitVec.ofNat 32 st) lat).finish c none)
    let after := fun (x : Instr) => ∀ st : Word, c.w.btOp = some (some st) → c.w.pend = [] →
      exec x s = .next ((((s.acquire c.id c.g 7).modWarp c.id (fun w => { w with btOp := none })).putAll c dst.toNat st lat).finish c none)
    let copies := fun (x : Instr) (kind : BtKind) (tier : Nat) (marked : List Nat) =>
      ∀ (p : PoolDesc) (blk : Nat) (u : State), s.poolFor hub d tier = some p → s.poolTake hub (d.pool tier) p = some (blk, u) →
        (s.core c.g.core).copyQ.length < 16 → ∃ v : State, exec x s = .next v ∧
          (∃ w : Warp, Table.find c.id v.warps = some w ∧ w = { c.w with btOp := some none, wait := .resource }) ∧
          ∃ o : LeatOp, (v.core c.g.core).copyQ = ((u.btEach d marked (fun y => { y with d := true })).core c.g.core).copyQ ++ [o] ∧
            o.bt = some ⟨kind, hub, t, i, ent.pa, blk, tier⟩ ∧ o.wg = c.w.wg ∧ o.count = 1 ∧ o.size = 65536
    let open_ := c.w.btOp = none ∧ t < 65536 ∧ s.btFor c.g t = some (hub, d) ∧ s.released c.id c.g c.w 7 = true
    (c.ready s h (use [a, b, e] 1) → after (.btalloc h dst a b e) ∧ after (.btmove h dst a b e)) ∧
    (c.ready s h (use [a, b] 1) → after (.btcow h dst a b)) ∧
    (c.ready s h (use [a, b, e] 1) → open_ → i < d.entries → ent.d = false →
      (j ≤ 1 → ent.v = true → ends (.btalloc h dst a b e) s 2) ∧
      (j ≤ 1 → ent.v = false → s.poolFor hub d j = none → ends (.btalloc h dst a b e) s 1) ∧
      (j ≤ 1 → ent.v = false → copies (.btalloc h dst a b e) .alloc j [i]) ∧
      (j ≤ 1 → ent.v = false → ends (.btmove h dst a b e) s 2) ∧
      (j ≤ 1 → ent.v = true → (∀ k ∈ s.ring d i, (s.btEntry d k).d = false) → ent.tier = j → ends (.btmove h dst a b e) s 3) ∧
      (j ≤ 1 → ent.v = true → (∀ k ∈ s.ring d i, (s.btEntry d k).d = false) → ent.tier ≠ j →
        copies (.btmove h dst a b e) .move j (s.ring d i)) ∧
      (j < d.entries → (s.btEntry d j).d = false → (ent.v = false ∨ (s.btEntry d j).v = true ∨ i = j) →
        ends (.btshare h dst a b e) s 2) ∧
      (j < d.entries → (s.btEntry d j).d = false → ent.v = true → (s.btEntry d j).v = false → i ≠ j →
        (∀ k ∈ s.ring d i, (s.btEntry d k).d = false) → ent.refcount ≠ 65535 →
        let u := s.btEach d (s.ring d i) (fun m => { m with refcount := m.refcount + 1, c := true })
        let f := u.btEntry d i
        ends (.btshare h dst a b e) ((u.btPut d j { s.btEntry d j with
          pa := f.pa, tier := f.tier, v := true, c := true, next := f.next, refcount := f.refcount,
          version := ((s.btEntry d j).version + 1) % 2 ^ 24 }).btPut d i { f with next := j }) 0)) ∧
    (c.ready s h (use [a, b] 1) → open_ → i < d.entries → ent.d = false →
      (ent.v = false → ends (.btcow h dst a b) s 2 ∧ ends (.btfree h dst a b) s 2) ∧
      (ent.v = true → ent.refcount = 1 → ends (.btcow h dst a b) s 0) ∧
      (ent.v = true → ent.refcount ≠ 1 → copies (.btcow h dst a b) .cow ent.tier [i]) ∧
      (ent.v = true → let r := s.unlink d i
        let f := r.2.btEntry d i
        let u := r.2.btPut d i { f with v := false, c := false, refcount := 0, version := (f.version + 1) % 2 ^ 24 }
        ends (.btfree h dst a b) (if r.1 then u.looseBlock hub t f.pa f.tier else u) 0)) ∧
    (c.ready s h (use [a, b] 4) → t < 65536 → s.btFor c.g t = some (hub, d) → s.released c.id c.g c.w 7 = true → i < d.entries →
      let bs := s.bytesAt 0 (d.array + 16 * i) 16
      exec (.btrd h dst a b) s = .next (((List.range 4).foldl (fun u n => u.putAll c (dst.toNat + n)
        (BitVec.ofNat 32 (leNat ((bs.drop (4 * n)).take 4))) lat) (s.acquire c.id c.g 7)).finish c none)) ∧
    (c.ready s h (use [a] 4) → t < 65536 → s.btFor c.g t = some (hub, d) → s.released c.id c.g c.w 7 = true →
      let ws : List Word := [BitVec.ofNat 32 d.entries, BitVec.ofNat 32 (s.poolCount hub d 0), BitVec.ofNat 32 (s.poolCount hub d 1),
        BitVec.ofNat 32 (((s.hub hub).loose.filter (fun x => decide (x.table = t))).length)]
      exec (.btstat h dst a) s = .next (((List.range 4).foldl (fun u n => u.putAll c (dst.toNat + n) (ws.getD n 0) lat)
        (s.acquire c.id c.g 7)).finish c none)) ∧
    (c.ready s h (use [a, b] 1) → c.w.btOp = none → t < 65536 → s.btFor c.g t = none →
      exec (.btfree h dst a b) s = .next (s.raise c.id (causeLanes 0x19 0 (fun _ => BitVec.ofNat 32 i)
        (fun _ => BitVec.ofNat 32 (2 ^ 31 + t)))))

/-- R328, R329, R335, R340 to R346: a matrix command whose operand checks pass captures its operands and enters the core's
queue, the warp going on; with the queue full it waits. Completes: mma, mmaSp, mlw, mlwSp, aclr, awr, sacc. -/
def Obligations.MatrixCommands : Prop :=
  ∀ (h : Hdr) (af : ActFmt) (wf : WgtFmt) (init : Bool) (sf : ScaleFmt) (mode : SaccMode) (a b e : Reg) (s : State) (c : Ctx)
    (l : Nat) (op : MatOp),
    let first := l < 32 ∧ c.act.getLsbD l = true ∧ ∀ k, k < l → c.act.getLsbD k = false
    let use := fun (srcs : List Src) => (⟨srcs, [], true, false, false, false, 0, false, none, false, none⟩ : Use)
    let v := fun n => (c.w.rd n l).toNat
    let enters := fun (i : Instr) =>
      ((s.core c.g.core).matRoom c.eland = true → ∃ u : State, exec i s = .next u ∧
        (u.core c.g.core).matQ = (s.core c.g.core).matQ ++ [{ seq := s.opSeq, wg := c.w.wg, op := op }] ∧
        u.mem = s.mem ∧ u.seals = s.seals ∧ Table.find c.id u.warps = some (c.w.stepTo c.wc c.w.next)) ∧
      ((s.core c.g.core).matRoom c.eland = false → exec i s = .next (s.block c.id .matrix))
    (c.ready s h (use [srcL a, srcIf (!c.eland) b.toNat, srcIf false (b.toNat + 1), srcIf true (b.toNat + 2)]) →
      (c.act = 0 → Completes (.mma h af wf a b) s c c.w (c.g.counted [(1, 1)])) ∧
      (first → mmaOp c.eland c.g l false af wf (v a.toNat) (v b.toNat) (v (b.toNat + 1)) (v (b.toNat + 2)) = .ok op →
        enters (.mma h af wf a b))) ∧
    (c.ready s h (use [srcL a, srcIf (!c.eland) b.toNat, srcIf (!c.eland) (b.toNat + 1), srcIf true (b.toNat + 2)]) →
      first → mmaOp c.eland c.g l true af wf (v a.toNat) (v b.toNat) (v (b.toNat + 1)) (v (b.toNat + 2)) = .ok op →
        enters (.mmaSp h af wf a b)) ∧
    (c.eland = true → c.ready s h (use [srcL a, srcIf false b.toNat, srcIf true (b.toNat + 1)]) →
      first → mlwOp c.g l false wf (v a.toNat) (v b.toNat) (v (b.toNat + 1)) = .ok op → enters (.mlw h wf a b)) ∧
    (c.eland = true → c.ready s h (use [srcL a, srcIf true b.toNat, srcIf true (b.toNat + 1)]) →
      first → mlwOp c.g l true wf (v a.toNat) (v b.toNat) (v (b.toNat + 1)) = .ok op → enters (.mlwSp h wf a b)) ∧
    (c.ready s h (use [src0 a]) → (c.val a 0).toNat < 16 → (c.val a 0).toNat < c.g.tileGrant → op = .aclr (c.val a 0).toNat →
      enters (.aclr h a)) ∧
    (c.ready s h (use [srcA a, srcA b, src0 e]) → (c.val e 0).toNat < 16 → (c.val e 0).toNat < c.g.tileGrant →
      op = .awr (c.val e 0).toNat (((List.range 32).filter (fun k => c.act.getLsbD k)).map (fun k =>
        (elemOf c.eland (c.val b k), c.val a k))) → enters (.awr h a b e)) ∧
    (c.ready s h (use ([src0 a] ++ (if mode = .row then [] else [src0 b]) ++ (if mode = .col then [] else [src0 e]))) →
      saccOp c.eland c.g init (decide (sf = .bf16)) (if mode = .row then none else some (c.val b 0).toNat)
        (if mode = .col then none else some (c.val e 0).toNat) (c.val a 0).toNat = .ok op → enters (.sacc h init sf mode a b e))

/-- R341, R345: an accumulator read gives each active lane its element, marked where the element is, once no command in the
queue has still to write the tile; the status forms give the outstanding commands and the sticky bits, and the second clears
the bits. Completes: ard, mstat, mstatClr. -/
def Obligations.MatrixReads : Prop :=
  ∀ (h : Hdr) (dst a b : Reg) (s : State) (c : Ctx),
    let t := (c.val a 0).toNat
    let key := fun l => t * 65536 + elemOf c.eland (c.val b l)
    let st : Word := BitVec.ofNat 32
      (((s.core c.g.core).matQ.filter (fun m => decide (m.wg = c.w.wg))).length * 65536 + c.g.mstat.toNat % 16)
    let put := c.w.put c dst.toNat 0xFFFFFFFF#32 (laneSplat st) .uniform (if c.eland then 5 else 4)
    (c.ready s h ⟨[src0 a, srcA b], [(dst.toNat, 1)], true, false, false, false, 0, false, none, false, none⟩ → t < 16 → t < c.g.tileGrant →
      ((s.core c.g.core).tilePending c.w.wg t = true → exec (.ard h dst a b) s = .next (s.block c.id .matrix)) ∧
      ((s.core c.g.core).tilePending c.w.wg t = false → c.w.inWindow = false → Table.wf RegVal.zero c.w.regs = true → ∃ w : Warp,
        Completes (.ard h dst a b) s c w (c.g.counted [(1, 1)]) ∧
        (∀ l, l < 32 → c.act.getLsbD l = true → w.rd dst.toNat l = Table.get 0 (key l) c.g.acc ∧
          (w.reg (c.w.slot dst.toNat l)).poison.getLsbD l = Table.get false (key l) c.g.accMarks) ∧
        (∀ l x, l < 32 → (c.act.getLsbD l = false ∨ x ≠ c.w.slot dst.toNat l) →
          laneVal (w.reg x).vals l = laneVal (c.w.reg x).vals l))) ∧
    (c.ready s h ⟨[], [(dst.toNat, 1)], true, false, false, false, 0, false, none, false, none⟩ →
      Completes (.mstat h dst) s c put (c.g.counted [(1, 1)]) ∧
      Completes (.mstatClr h dst) s c put (Wg.counted { c.g with mstat := 0 } [(1, 1)]))

/-- R320, R321, R323, R324, R328, R332, R333, R340, R342 to R344, R346: a command whose earlier commands are done starts and sees its
operand bytes; a started one takes its effect on the accumulators, the mills and the status bits of its workgroup and leaves the
queue. `MMA` writes each partial of its rows as the exact sum of its 32 products rounded once, NaN where a sparse mask does not hold
16 positions or the mill buffer was loaded in another format or density; `MLW` loads its buffer with the columns' bytes and masks;
`ACLR` makes every element of its tile 0 and unmarked; `AWR` writes its elements, a later lane's over an earlier one's; `SACC` scales
and adds with one rounding. An element with a poisoned operand is marked, every other one unmarked, and the sticky status bits follow;
every other element, buffer and status bit stays, and no byte of memory changes. That a byte which changed between the start and the end is
seen as at one of the two, and that a marked element may set the overflow bit, are the model's reading of R330 and R332 (log
entry 19). Completes: matrixCommandStart, matrixCommandComplete. -/
def Obligations.MatrixEngine : Prop :=
  ∀ (core i : Nat) (s : State) (m : MatCmd) (g : Wg),
    let c := s.core core
    c.matQ[i]? = some m → Table.find m.wg s.wgs = some g → Table.wf {} s.cores = true →
    (c.mayStart i m = true → ∃ u : State, exec (.matrixCommandStart core i) s = .next u ∧ u.mem = s.mem ∧ u.warps = s.warps ∧
      u.wgs = s.wgs ∧ ∃ seen, (u.core core).matQ = listSet i { m with seen := some seen } c.matQ ∧
        ∀ o, (∃ r ∈ m.op.operands (coreEland core), r.1 ≤ o ∧ o < r.1 + r.2) →
          Table.get (0, false) o seen = (s.byteAt 0 (locPriv m.wg o), s.poisonAt (locPriv m.wg o) 1)) ∧
    (c.mayStart i m = false → exec (.matrixCommandStart core i) s = .next s) ∧
    (∀ seen, m.seen = some seen → Table.wf (0 : Word) g.acc = true → Table.wf false g.accMarks = true →
      ∃ (u : State) (y : Wg), exec (.matrixCommandComplete core i) s = .next u ∧ u.mem = s.mem ∧
      u.seals = s.seals ∧ u.warps = s.warps ∧ (u.core core).matQ = listDel i c.matQ ∧ Table.find m.wg u.wgs = some y ∧
      (let rd := s.matRead s.free m.wg seen
       let cols := if coreEland core then 1024 else 64
       let same := y.accMarks = g.accMarks ∧ y.acc = g.acc
       (∀ o, (rd o = Table.get (0, false) o seen ∨ rd o = (s.byteAt 0 (locPriv m.wg o), s.poisonAt (locPriv m.wg o) 1))) ∧
       (∀ sp af wf a b md rows p mill buf, m.op = .mma sp af wf a b md rows p mill buf → rows ≤ 64 →
         let n := groupBytes wf sp
         let e := actBytes af
         let mask := fun (j gr : Nat) => md + 8 * j + 4 * gr
         let loaded := Table.find (mill * 2 + buf) g.mills
         let wrong := coreEland core = true ∧ ∃ x, loaded = some x ∧ (x.wfmt ≠ wf ∨ x.sparse ≠ sp)
         let col := fun (j gr : Nat) => if coreEland core then
             (loaded.bind (fun x => x.cols[j]?)).map (fun (x : MillCol) => (leNat (x.groups.getD gr []), x.masks.getD gr 0, x.marked))
           else some (rd.num (b + n * (groupsOf sp * j + gr)) n, rd.num (mask j gr) 4,
             rd.poisoned (b + n * (groupsOf sp * j + gr)) n || (sp && rd.poisoned (mask j gr) 4))
         let bad := fun (j gr : Nat) => sp = true ∧ ∃ x, col j gr = some x ∧ heldBelow x.2.1 32 ≠ 16
         let weight := fun (j gr k : Nat) => match col j gr with
           | some x => weightAt wf sp x.1 x.2.1 k
           | none => .fin false 0 0
         let act := fun (r gr k : Nat) => (actFmt af).value (rd.num (a + 32 * e * (groupsOf sp * r + gr) + e * k) e)
         ∃ puts : Nat → Option (Machine.Num × Bool),
           g.elementsWritten y puts (¬wrong ∧ ∃ j gr, j < cols ∧ gr < groupsOf sp ∧ bad j gr) wrong ∧
           ∀ k, let t := k / 65536
             let r := k / 1024 % 64
             let j := k % 1024
             if p ≤ t ∧ t < p + groupsOf sp ∧ r < rows ∧ j < cols then ∃ x, puts k = some (x,
                 rd.poisoned (a + 32 * e * (groupsOf sp * r + (t - p))) (32 * e) ||
                   (match col j (t - p) with | some y => y.2.2 | none => false)) ∧
               (wrong ∨ bad j (t - p) → x = .nan) ∧
               (¬wrong → ¬bad j (t - p) → x = partialSum (act r (t - p)) (weight j (t - p)))
             else puts k = none) ∧
       (∀ sp wf b md mill buf n, m.op = .mlw sp wf b md mill buf n → same ∧ y.mstat = g.mstat ∧
         (∀ k, k ≠ mill * 2 + buf → Table.find k y.mills = Table.find k g.mills) ∧
         ∃ x, Table.find (mill * 2 + buf) y.mills = some x ∧ x.wfmt = wf ∧ x.sparse = sp ∧ x.cols.length = n ∧
           ∀ j, j < n → ∃ z : MillCol, x.cols[j]? = some z ∧
             (∀ gr, gr < groupsOf sp → leNat (z.groups.getD gr []) =
                 rd.num (b + groupBytes wf sp * (groupsOf sp * j + gr)) (groupBytes wf sp) ∧
               (sp = true → z.masks.getD gr 0 = rd.num (md + 8 * j + 4 * gr) 4)) ∧
             z.marked = (rd.poisoned (b + groupBytes wf sp * groupsOf sp * j) (groupBytes wf sp * groupsOf sp) ||
               (sp && rd.poisoned (md + 8 * j) 8))) ∧
       (∀ t, m.op = .aclr t → y.mills = g.mills ∧ y.mstat = g.mstat ∧
         ∀ k, (k / 65536 = t → Table.find k y.acc = none ∧ Table.find k y.accMarks = none) ∧
           (k / 65536 ≠ t → Table.find k y.acc = Table.find k g.acc ∧ Table.find k y.accMarks = Table.find k g.accMarks)) ∧
       (∀ t es, m.op = .awr t es → y.mills = g.mills ∧ y.mstat = g.mstat ∧
         ∀ k, match es.reverse.find? (fun e => decide (t * 65536 + e.1 = k)) with
           | some e => Table.get 0 k y.acc = e.2 ∧ Table.get false k y.accMarks = false
           | none => Table.get 0 k y.acc = Table.get 0 k g.acc ∧ Table.get false k y.accMarks = Table.get false k g.accMarks) ∧
       (∀ init bf16 vc vr rows p q, m.op = .sacc init bf16 vc vr rows p q → rows ≤ 64 → vc ≠ none ∨ vr ≠ none →
         let e := if bf16 then 2 else 4
         let value := fun (o k : Nat) => (if bf16 then Fmt.bf16 else Fmt.f32).value (rd.num (o + e * k) e)
         let spoiled := fun (o : Option Nat) (k : Nat) => match o with | some x => rd.poisoned (x + e * k) e | none => false
         g.elementsWritten y (fun k =>
           let r := k / 1024 % 64
           let j := k % 1024
           let scale := match vr, vc with
             | some x, some z => Machine.Num.mul (value x r) (value z j)
             | some x, none => value x r
             | none, some z => value z j
             | none, none => .nan
           let x := Machine.Num.mul (fv (Table.get 0 (accKey p r j) g.acc)) scale
           if k / 65536 = q ∧ r < rows ∧ j < cols then
             some (if init then x else Machine.Num.add .rn (fv (Table.get 0 k g.acc)) x,
               Table.get false (accKey p r j) g.accMarks || spoiled vr r || spoiled vc j || (!init && Table.get false k g.accMarks))
           else none) False False)))

/-! ## The launch and system instructions -/

/-- R52, R53, R402, Table 02.8: `SRD` reads a special register in the active lanes; a read of the cycle counter latches the high half,
which selector 0x21 reads. That the counter moves on by a free number of cycles with each read is the model's choice (log entry 6), and
holds for every such number. R4, R52, R402: `SWR` writes a special register: the mask and the trap registers take lane 0's value when any
lane is active, reserved bits staying 0; the trap values are written lane by lane; nothing else of the warp changes. Completes: srd,
swr. -/
def Obligations.SpecialRegisters : Prop :=
  (∀ (h : Hdr) (dst : Reg) (sr : BitVec 16) (s : State) (c : Ctx),
     c.ready s h ⟨[], [(dst.toNat, 1)], true, true, false, false, 0, false, none, false, none⟩ →
     let w := c.w
     let chip := coreChip c.g.core
     let reads := fun (n : Nat) (f : Nat → Word) => sr.toNat = n → Computes (.srd h dst sr) s c dst f
     let all := fun (n : Nat) (x : Nat) => reads n (fun _ => BitVec.ofNat 32 x)
     let bit := fun (b : Bool) (k : Nat) => if b then k else 0
     reads 0x00 (fun _ => w.exm) ∧ reads 0x01 (fun l => BitVec.ofNat 32 l) ∧ all 0x02 w.idx ∧ all 0x03 c.g.lin ∧
     all 0x04 (w.group * 256 + c.g.core % 32) ∧ all 0x05 (chipHub chip * 128 + chipKind chip * 16 + chipIndex chip) ∧ all 0x06 w.role ∧
     (∀ n, n < 6 → all (0x08 + n) (match (c.g.loops.getD n ⟨0, .absent⟩).mark with
       | .absent => 0 | .temporal => (w.loops.getD n 0).toNat | _ => c.g.coords.getD n 0)) ∧
     all 0x10 c.g.world ∧ all 0x11 c.g.vdev ∧ all 0x12 (s.gen c.g.vdev) ∧
     all 0x13 (bit w.trap 1 + bit w.window 2 + bit w.melded 4 + bit w.spawned 8) ∧
     reads 0x14 (fun l => BitVec.ofNat 32 (if w.melded then (if w.paths.getLsbD l then 3 else 2) else 0)) ∧
     reads 0x18 (fun _ => w.cause) ∧ reads 0x19 (fun _ => w.epc) ∧ reads 0x1A (fun _ => w.epch.setWidth 32) ∧
     reads 0x1B (laneVal w.tval) ∧ reads 0x1C (laneVal w.tvalh) ∧ reads 0x21 (fun _ => w.cych) ∧
     (sr.toNat = 0x20 → ∃ tag lat,
       let now := (s.chip chip).cyc + BitVec.ofNat 64 (Config.freeNat s.free)
       let s' := State.setChip { s with free := s.free + 1 } chip { s.chip chip with cyc := now }
       exec (.srd h dst sr) s = .next (c.after s' ((Warp.put { w with cych := (now >>> 32).setWidth 32 } c dst.toNat c.act
         (laneBuild (fun _ => now.setWidth 32)) tag lat).stepTo c.wc w.next) (c.g.counted [(2, 1), (1, 1)])))) ∧
  (∀ (h : Hdr) (a : Reg) (sr : BitVec 16) (s : State) (c : Ctx),
     let n := sr.toNat
     let x := c.val a 0
     let w := c.w
     let src := if n = 0x1B ∨ n = 0x1C then Who.active else .first 1
     let put := fun (old : Lanes) => laneBuild (fun l => if c.act.getLsbD l then laneVal (w.rdAll a.toNat) l else laneVal old l)
     c.ready s h ⟨[⟨a.toNat, 1, src⟩], [], true, true, decide (0x18 ≤ n), false, 0, false, none, false, none⟩ →
     let writes := fun (w' : Warp) => Completes (.swr h a sr) s c w' (c.g.counted [(1, 1)])
     (n = 0x00 → c.act ≠ 0 → writes { w with
       exm := if w.melded && !w.trap then laneVal (w.rdAll a.toNat) 0 &&& w.entryMask else laneVal (w.rdAll a.toNat) 0 }) ∧
     (n = 0x18 → c.act ≠ 0 → writes { w with cause := laneVal (w.rdAll a.toNat) 0 &&& 0xF000FFFF#32 }) ∧
     (n = 0x19 → c.act ≠ 0 → writes { w with epc := laneVal (w.rdAll a.toNat) 0 }) ∧
     (n = 0x1A → c.act ≠ 0 → writes { w with epch := (laneVal (w.rdAll a.toNat) 0).setWidth 25 }) ∧
     (n = 0x1B → writes { w with tval := put w.tval }) ∧ (n = 0x1C → writes { w with tvalh := put w.tvalh }) ∧
     (c.act = 0 → n ≠ 0x1B → n ≠ 0x1C → writes w) ∧ laneVal (w.rdAll a.toNat) 0 = x)

/-- R382, R403: a return from trap mode sets the mask from the saved one, leaves trap mode and resumes at `sr.epc` or at the
word after it; results in flight go on, and a frozen window with no participant left in trap mode resumes. A target that is no
multiple of 8 raises cause 0x03, before any effect. R398: `BREAK` and `TRAPI` raise causes 0x48 and 0x49, subcode 0, with the
immediate as the trap value of every active lane; with no lane active they only go on. Completes: tret, tretNext, brk, trapi. -/
def Obligations.TrapInstructions : Prop :=
  (∀ (h : Hdr) (s : State) (c : Ctx), c.ready s h ⟨[], [], true, true, true, false, 0, false, none, false, none⟩ →
     let epc := c.w.epch ++ c.w.epc
     let back := fun (i : Instr) (t : BitVec 57) (wc : Nat) =>
       (t.toNat % 8 = 0 → exec i s = .next ((c.after s { c.w with
           exm := c.w.trapMask, trap := false, pc := t, wait := .none, issued := true, stall := 0, lastWc := wc }
         (c.g.counted [(1, 1)])).thaw c.w.wg)) ∧
       (t.toNat % 8 ≠ 0 → exec i s = .next (s.raise c.id (causeVal 0x03 0 (t.setWidth 32))))
     back (.tret h) epc c.w.lastWc ∧ back (.tretNext h) (epc + 8) (if c.w.window then c.wc else c.w.lastWc)) ∧
  (∀ (h : Hdr) (imm : BitVec 16) (s : State) (c : Ctx), c.ready s h {} →
     let traps := fun (i : Instr) (code : Byte) =>
       (c.act = 0 → Completes i s c c.w (c.g.counted [(1, 1)])) ∧
       (c.act ≠ 0 → exec i s = .next (s.raise c.id ⟨code, 0, false,
         laneBuild (fun l => if c.act.getLsbD l then imm.setWidth 32 else 0),
         laneBuild (fun l => if c.act.getLsbD l then 0x80000000#32 else 0)⟩))
     traps (.brk h imm) 0x48 ∧ traps (.trapi h imm) 0x49)

/-- R399, R405, Table 12.9: in trap mode `XRD` and `XWR` move a whole register between the handler's names and the warp's own
high registers, tag, marks and every lane; `CXRD` reads a context item into every lane and `CXWR` writes the writable ones, a
value out of range raising cause 0x02, subcode 6. Completes: xrd, xwr, cxrd, cxwr. -/
def Obligations.ContextAccess : Prop :=
  ∀ (h : Hdr) (dst a : Reg) (n : BitVec 16) (s : State) (c : Ctx),
    let w := c.w
    let k := n.toNat
    let x := c.val a 0
    let at_ := fun (l : List Byte) (i : Nat) => (l.getD i 0).toNat
    let win := fun (f : Window → Nat) => match c.g.win with | some v => if w.window then f v else 0 | none => 0
    (c.ready s h ⟨[], [(dst.toNat, 1)], true, true, true, false, 241 + k, false, none, false, none⟩ →
      Completes (.xrd h dst n) s c (w.setReg (w.slot dst.toNat 0) (w.reg (240 + k))) (c.g.counted [(2, 1), (1, 1)])) ∧
    (c.ready s h ⟨[⟨a.toNat, 1, .all⟩], [], true, true, true, false, 241 + k, false, none, false, none⟩ →
      Completes (.xwr h a n) s c (w.setReg (240 + k) ⟨w.tagOf a.toNat 0, w.rdAll a.toNat, 0⟩) (c.g.counted [(1, 1)])) ∧
    (c.ready s h ⟨[], [(dst.toNat, 1)], true, true, true, false, 0, false, none, false, none⟩ →
      let reads := fun (v : Nat) => Completes (.cxrd h dst n) s c (w.put c dst.toNat 0xFFFFFFFF#32 (laneSplat (BitVec.ofNat 32 v))
        .uniform (c.lat 4 5)) (c.g.counted [(2, 1), (1, 1)])
      (k = 0 → reads w.trapMask.toNat) ∧ (k = 1 → reads w.entryMask.toNat) ∧ (k = 2 → reads w.meldReg.toNat) ∧
      (k = 3 → reads (win Window.cycle)) ∧ (k = 4 → reads (win (fun v => v.mask.toNat))) ∧ (k = 5 → reads w.landing.length) ∧
      (k = 6 → reads w.prio.toNat) ∧ (k = 7 → reads (c.g.pond.foldl (fun n e => n + e.bytes) 0)) ∧
      (0x10 ≤ k → k < 0x20 → reads (at_ w.ren0 (k - 0x10))) ∧ (0x20 ≤ k → k < 0x30 → reads (at_ w.ren1 (k - 0x20))) ∧
      (0x30 ≤ k → k < 0x36 → reads (w.loops.getD (k - 0x30) 0).toNat)) ∧
    (c.ready s h ⟨[src0 a], [], true, true, true, false, 0, false, none, false, none⟩ →
      let writes := fun (w' : Warp) => Completes (.cxwr h a n) s c w' (c.g.counted [(1, 1)])
      let refused := exec (.cxwr h a n) s = .next (s.raise c.id (cause0 0x02 6))
      let lv := c.g.loops.getD (k - 0x30) ⟨0, .absent⟩
      (k = 0 → writes { w with trapMask := x }) ∧
      (k = 6 → if x.toNat ≤ 3 then writes { w with prio := x.setWidth 2 } else refused) ∧
      (0x10 ≤ k → k < 0x20 → if x.toNat ≤ 255 then writes { w with ren0 := listSet (k - 0x10) (x.setWidth 8) w.ren0 } else refused) ∧
      (0x20 ≤ k → k < 0x30 → if x.toNat ≤ 255 then writes { w with ren1 := listSet (k - 0x20) (x.setWidth 8) w.ren1 } else refused) ∧
      (0x30 ≤ k → k < 0x36 → if (lv.mark = .temporal ∧ x.toNat < lv.extent) ∨ (lv.mark ≠ .temporal ∧ x.toNat = 0)
        then writes { w with loops := listSet (k - 0x30) x w.loops } else refused))

/-- R373, R374, R376, R393, R401, Table 11.9: `PRIO` sets the warp's priority, `PKTST` gives the hub the larger kernel value
of the packet, `WGQ` answers its selector in every lane, `PMRD` reads a counter as one value into a pair and `PMRST` clears
the workgroup's sixteen, its own issue counted before. That a counter of cycles or denials moves on by a free number when it is
read is the model's choice (log entry 6), and holds for every such number. Values out of range raise cause 0x02, subcode 6. Completes:
prio, wgq, pktst, pmrd, pmrst. -/
def Obligations.QueriesAndCounters : Prop :=
  ∀ (h : Hdr) (dst a : Reg) (s : State) (c : Ctx),
    let x := (c.val a 0).toNat
    let refused := fun (i : Instr) => exec i s = .next (s.raise c.id (cause0 0x02 6))
    let every := fun (w : Warp) (n : Nat) (v : Word) (lat : Nat) => w.put c n 0xFFFFFFFF#32 (laneSplat v) .uniform lat
    let warps := fun (r : Nat) => (c.g.roles.getD r ⟨0, 0, 0⟩).warps
    (c.ready s h ⟨[src0 a], [], false, false, false, false, 0, false, none, false, none⟩ →
      (x ≤ 3 → Completes (.prio h a) s c { c.w with prio := (c.val a 0).setWidth 2 } (c.g.counted [(1, 1)])) ∧
      (3 < x → refused (.prio h a)) ∧
      (x < 65536 → exec (.pktst h a) s = .next (c.after { s with
          pkts := Table.modify c.g.pkt (fun p => { p with kval := Nat.max p.kval x }) s.pkts }
        (c.w.stepTo c.wc c.w.next) (c.g.counted [(1, 1)]))) ∧
      (65536 ≤ x → refused (.pktst h a))) ∧
    (c.ready s h ⟨[src0 a], [(dst.toNat, 1)], false, false, false, false, 0, false, none, false, none⟩ →
      let answers := fun (v : Nat) => Completes (.wgq h dst a) s c (every c.w dst.toNat (BitVec.ofNat 32 v) (c.lat 4 5))
        (c.g.counted [(1, 1)])
      (x = 0 → answers c.g.savedPos.toNat) ∧ (x = 1 → answers (if c.g.resumed then 1 else 0)) ∧
      (2 ≤ x → x < 8 → answers (c.g.loops.getD (x - 2) ⟨0, .absent⟩).extent) ∧
      (x = 8 → answers (warps 0 + 256 * warps 1 + 65536 * warps 2 + 16777216 * warps 3)) ∧ (x = 9 → answers c.w.roleIdx) ∧
      (x = 10 → answers (c.g.tileGrant + 256 * c.g.millGrant + 65536 * c.g.energy + 16777216 * s.partOf c.g)) ∧
      (x = 11 → answers c.g.scratch) ∧ (x = 12 → answers (s.loadOf c.g.core + 256 * (s.core c.g.core).limit)) ∧
      (12 < x → refused (.wgq h dst a))) ∧
    (c.ready s h ⟨[src0 a], [(dst.toNat, 2)], false, false, false, false, 0, false, none, false, none⟩ →
      let clock := x = 0 ∨ x = 4 ∨ x = 5 ∨ x = 14
      let into := fun (w : Warp) (v : DWord) => every (every w dst.toNat (v.setWidth 32) (c.lat 8 9)) (dst.toNat + 1)
        ((v >>> 32).setWidth 32) (c.lat 8 9)
      (x ≤ 15 → ¬clock → Completes (.pmrd h dst a) s c (into c.w (c.g.perf.getD x 0)) (c.g.counted [(2, 1), (1, 1)])) ∧
      (clock →
        let g := c.g.counted [(x, Config.freeNat s.free)]
        exec (.pmrd h dst a) s = .next (c.after { s with free := s.free + 1 } ((into c.w (g.perf.getD x 0)).stepTo c.wc c.w.next)
          (g.counted [(2, 1), (1, 1)]))) ∧
      (15 < x → refused (.pmrd h dst a))) ∧
    (c.ready s h ⟨[], [], false, false, false, false, 0, false, none, false, none⟩ →
      exec (.pmrst h) s = .next (c.after s (c.w.stepTo c.wc c.w.next) { c.g with perf := List.replicate 16 0 }))

/-- R394, R400: `GENWAIT` names a virtual device and a tag: a device that is not its own raises cause 0x38 unless it is the
administrator's, bad bits cause 0x02; while the tag is the current generation and its drain has begun, the warp waits;
otherwise it acquires at package scope and answers 0 for the current generation and 1 for another. R161, R358, R372, R375,
R404: `OPB` closes the streams that the warp owns, and no other, records its position and waits for its workgroup; it waits before that
while an element supplied to one of them waits for its block-table entry; a position that differs from the first raises cause 0x31
with that one. `TASKEND` ends its warp under the kernel's drain mask. `WGABORT` records a kernel
value, ends every warp of the workgroup and discards its Millpond entries; the workgroup then retires. Completes: opb,
taskend, genwait, wgabort. -/
def Obligations.WaitsAndEnds : Prop :=
  (∀ (h : Hdr) (dst a : Reg) (s : State) (c : Ctx),
     c.ready s h ⟨[src0 a], [(dst.toNat, 1)], false, false, false, false, 0, false, none, false, none⟩ →
     let x := (c.val a 0).toNat
     let v := x % 64
     let t := x / 65536
     let k := s.tenant v
     let i : Instr := .genwait h dst a
     let bad := x / 64 % 1024 ≠ 0 ∨ 32 < v
     let foreign := c.g.vdev ≠ 32 ∧ v ≠ c.g.vdev
     (bad → exec i s = .next (s.raise c.id (cause0 0x02 6))) ∧
     (¬bad → foreign → exec i s = .next (s.raise c.id (cause0 0x38 0))) ∧
     (¬bad → ¬foreign → k.gen = t → k.killing = true → k.advanced = true → exec i s = .next (s.block c.id .generation)) ∧
     (¬bad → ¬foreign → ¬(k.gen = t ∧ k.killing = true ∧ k.advanced = true) → c.w.loaded = false →
       exec i s = .next (s.block c.id .fence)) ∧
     (¬bad → ¬foreign → ¬(k.gen = t ∧ k.killing = true ∧ k.advanced = true) → c.w.loaded = true →
       ∃ t' w, exec i s = .next t' ∧ Table.find c.id t'.warps = some w ∧ w.pc = c.w.pc + 8 ∧
         w.pv = raisePv c.w.pv 10 (Nat.max c.w.ov (Nat.max (s.hub 0).clock (s.hub 1).clock)) ∧
         w.regs = (c.w.put c dst.toNat 0xFFFFFFFF#32 (laneSplat (if k.gen = t then 0 else 1)) .uniform (c.lat 4 5)).regs ∧
         t'.mem = s.mem ∧ t'.seals = s.seals ∧ t'.hubs = s.hubs)) ∧
  (∀ (h : Hdr) (a : Reg) (s : State) (c : Ctx),
     let p := c.val a 0
     (c.ready s h ⟨[src0 a], [], false, false, false, false, 0, false, none, false, none⟩ →
       let closed := c.g.streams.all (fun e => !(e.2.opened && decide (e.2.owner = c.id))) = true
       (Table.find c.id c.g.opb = none → c.g.opbFirst.getD p = p → closed → exec (.opb h a) s = .next { s with
           warps := Table.ins c.id { c.w with wait := .boundary } s.warps
           wgs := Table.ins c.w.wg { c.g with opb := Table.ins c.id p c.g.opb, opbFirst := some p } s.wgs }) ∧
       (Table.find c.id c.g.opb = none → c.g.opbFirst.getD p = p → s.closeStreams c.w.wg c.id = none →
         exec (.opb h a) s = .next (s.block c.id .stream)) ∧
       (∀ u : State, Table.find c.id c.g.opb = none → c.g.opbFirst.getD p = p → s.closeStreams c.w.wg c.id = some u →
         Table.sortedFrom 0 c.g.streams = true → ∃ (t : State) (g : Wg), exec (.opb h a) s = .next t ∧ Table.find c.w.wg t.wgs = some g ∧
           g.opb = Table.ins c.id p c.g.opb ∧ g.opbFirst = some p ∧ t.mem = s.mem ∧
           Table.find c.id t.warps = some { c.w with wait := .boundary } ∧
           ∀ n y, Table.find n c.g.streams = some y → if y.owner = c.id ∧ y.opened = true
             then ∃ z, Table.find n g.streams = some z ∧ z.opened = false ∧ z.queue = [] ∧ z.supplied = []
             else Table.find n g.streams = some y) ∧
       (∀ q, Table.find c.id c.g.opb = none → c.g.opbFirst = some q → q ≠ p →
         exec (.opb h a) s = .next (s.raise c.id (causeVal 0x31 0 q))) ∧
       (65536 ≤ p.toNat → exec (.wgabort h a) s = .next (s.raise c.id (cause0 0x02 6))) ∧
       (p.toNat < 65536 → Table.sortedFrom 0 s.warps = true → (∀ e ∈ s.wgWarps c.w.wg, e.2.pend = []) → ∃ (t : State) (g : Wg),
         exec (.wgabort h a) s = .next t ∧ t.warps = s.warps.filter (fun e => decide (e.2.wg ≠ c.w.wg)) ∧
         Table.find c.w.wg t.wgs = some g ∧ g.status = .retiring ∧ g.pond = [] ∧ g.aborted = true ∧
         t.pkts = Table.modify c.g.pkt (fun k => { k with kval := Nat.max k.kval p.toNat }) s.pkts ∧ t.mem = s.mem ∧
         t.cores = s.cores ∧ t.hubs = s.hubs)) ∧
     (c.ready s h ⟨[], [], false, false, false, false, 0, false, none, false, none⟩ → c.w.pend = [] → Table.sortedFrom 0 s.warps = true →
       ∃ (t : State) (g : Wg), exec (.taskend h) s = .next t ∧ t.warps = Table.del c.id s.warps ∧ Table.find c.w.wg t.wgs = some g ∧
         g.taskend = true ∧ t.mem = s.mem ∧ t.cores = s.cores ∧ t.hubs = s.hubs))

/-! ## Traps, reports, events of a running core -/

/-- The trap registers of a warp after a cause was recorded in it (step 2 of R381, Table 12.3). -/
def trapRecorded (w w' : Warp) (c : CauseInfo) : Prop :=
  let bit := fun (b : Bool) (k : Nat) => if b then 2 ^ k else 0
  w'.cause = BitVec.ofNat 32 (bit c.fetch 30 + bit w.window 29 + bit w.melded 28 + c.sub.toNat * 256 + c.code.toNat) ∧
  w'.epch ++ w'.epc = w.pc ∧ w'.tval = (if c.tval = [] then List.replicate 32 0 else c.tval) ∧
  w'.tvalh = (if c.tvalh = [] then List.replicate 32 0 else c.tvalh)

/-- R149, R378, R381: a precise cause of a warp out of trap mode that its address space delegates enters the handler: the trap
registers take the cause, the address and the trap values; the mask is saved and set to all ones; the warp is in trap mode at
the descriptor's entry address. In a window the window freezes and results in flight stay. Registers, memory, every other warp
and every other control register stay, but the marks that a poison cause names. R378, R383, R392: a precise cause that is not
delegated, or arises in trap mode, is reported: the workgroup halts, the trap registers are written without entering trap
mode, and Foulo receives the cause, `sr.epc` and the warp; with the debug flag a debug cause of world 0 halts the workgroup
for the debugger. Completes: trapEntry, fouloReport. -/
def Obligations.TrapEntryAndReports : Prop :=
  (∀ (id : Nat) (c : CauseInfo) (s : State) (w : Warp) (g : Wg),
     Table.find id s.warps = some w → Table.find w.wg s.wgs = some g → g.status = .running → w.sync = none →
     causeAsync c = false → w.trap = false →
     (s.trapDesc g).valid = true → (s.trapDesc g).deleg.testBit c.code.toNat = true →
     ¬(c.code = 0x48 ∧ (s.trapDesc g).dbg = true ∧ g.world = 0) → (w.window = true ∨ (w.pend = [] ∧ w.landing = [])) →
     Table.wf RegVal.zero w.regs = true →
     ∃ (t : State) (w' : Warp), exec (.trapEntry id c) s = .next t ∧ trapRecorded w w' c ∧
       w' = { w with
         cause := w'.cause, epc := w'.epc, epch := w'.epch, tval := w'.tval, tvalh := w'.tvalh, regs := w'.regs,
         trapMask := w.exm, exm := 0xFFFFFFFF#32, trap := true, pc := BitVec.ofNat 57 (s.trapDesc g).tbase,
         wait := .none, barWait := none } ∧
       (¬(c.code = 0x28 ∧ c.sub = 0) → w'.regs = w.regs) ∧
       (∀ n, (w'.reg n).vals = (w.reg n).vals) ∧
       t = { s with
         warps := Table.ins id w' s.warps
         wgs := if w.window then Table.ins w.wg { g with win := g.win.map (fun x => { x with frozen := true }) } s.wgs else s.wgs }) ∧
  (∀ (id : Nat) (c : CauseInfo) (s : State) (w : Warp) (g : Wg),
     Table.find id s.warps = some w → Table.find w.wg s.wgs = some g → g.status = .running → w.sync = none →
     causeAsync c = false → (∀ e ∈ s.wgWarps w.wg, e.2.pend = []) →
     let d := s.trapDesc g
     let debug := w.trap = false ∧ c.code = 0x48 ∧ d.dbg = true ∧ g.world = 0
     let delegated := d.valid = true ∧ d.deleg.testBit c.code.toNat = true
     (w.trap = true ∨ debug ∨ ¬delegated) → ∃ (t : State) (w' : Warp) (g' : Wg), exec (.fouloReport id c) s = .next t ∧
       Table.find id t.warps = some w' ∧ Table.find w.wg t.wgs = some g' ∧ trapRecorded w w' c ∧ w'.exm = w.exm ∧ w'.trap = w.trap ∧
       w'.pc = w.pc ∧ w'.trapMask = w.trapMask ∧ (debug → g'.status = .debug) ∧ (¬debug → g'.status = .reported) ∧ g'.reportWarp = id ∧
       g'.win = g.win.map (fun x => { x with frozen := true }) ∧
       (t.hub (coreHub g.core)).reports = (s.hub (coreHub g.core)).reports ++ [⟨c.code.toNat, c.sub.toNat, w.wg, id, w.pc.toNat⟩] ∧
       t.mem = s.mem ∧ t.seals = s.seals ∧ t.cores = s.cores)

/-- R383: Foulo's choices for a workgroup that a warp's report halted. Resume runs the warp again from `sr.epc`; deliver
enters the handler, but never from trap mode; terminate ends the workgroup; save keeps its context once what it issued is
complete (a cooperative kernel's whole, R369); kill kills the tenant's context. For a warp whose report halts nothing they
change nothing. Completes: fouloResume, fouloDeliver, fouloSave, fouloTerminate, fouloKill. -/
def Obligations.FouloChoices : Prop :=
  ∀ (id : Nat) (s : State) (w : Warp) (g : Wg), Table.find id s.warps = some w → Table.find w.wg s.wgs = some g →
    let halted := (g.status = .reported ∨ g.status = .debug) ∧ g.reportWarp = id
    let run := fun (w' : Warp) => ({ s with
      warps := Table.ins id w' s.warps, wgs := Table.ins w.wg { g with status := .running } s.wgs } : State)
    (halted → g.win = none → exec (.fouloResume id) s = .next (run { w with pc := w.epch ++ w.epc, wait := .none })) ∧
    (halted → g.win = none → w.trap = false → exec (.fouloDeliver id) s = .next (run { w with
      trapMask := w.exm, exm := 0xFFFFFFFF#32, trap := true, pc := BitVec.ofNat 57 (s.trapDesc g).tbase, wait := .none,
      sync := none, barWait := none })) ∧
    (halted → w.trap = true → exec (.fouloDeliver id) s = .next s) ∧
    (halted → Table.sortedFrom 0 s.warps = true → (∀ e ∈ s.wgWarps w.wg, e.2.pend = []) → ∃ (t : State) (g' : Wg),
      exec (.fouloTerminate id) s = .next t ∧ t.warps = s.warps.filter (fun e => decide (e.2.wg ≠ w.wg)) ∧
      Table.find w.wg t.wgs = some g' ∧ g'.status = .retiring ∧ g'.aborted = true ∧ g'.pond = [] ∧ t.mem = s.mem ∧ t.hubs = s.hubs) ∧
    (halted → (∀ p, Table.find g.pkt s.pkts = some p → p.coop = false) → ∃ t, exec (.fouloSave id) s = .next t ∧
      ((s.urgentHalt w.wg).haltDone w.wg { g.freeze with status := .halting } = true →
        ∃ g' : Wg, Table.find w.wg t.wgs = some g' ∧ g'.status = .saved) ∧
      ((s.urgentHalt w.wg).haltDone w.wg { g.freeze with status := .halting } = false →
        t.wgs = Table.ins w.wg { g.freeze with status := .halting } s.wgs) ∧ ((s.chip (coreChip g.core)).cls ≠ 2 → t.mem = s.mem)) ∧
    (halted → g.vdev ≤ 31 → (s.tenant g.vdev).killing = false → ∃ t, exec (.fouloKill id) s = .next t ∧
      (∀ e ∈ t.warps, ∀ x ∈ s.wgs, x.1 = e.2.wg → x.2.vdev ≠ g.vdev) ∧
      (t.tenant g.vdev).gen = ((s.tenant g.vdev).gen + 1) % 65536 ∧ (t.tenant g.vdev).killing = true ∧ t.mem = s.mem) ∧
    (¬halted → g.status ≠ .halting → exec (.fouloResume id) s = .next s ∧ exec (.fouloDeliver id) s = .next s ∧
      exec (.fouloTerminate id) s = .next s ∧ exec (.fouloSave id) s = .next s ∧ exec (.fouloKill id) s = .next s)

/-- R384, R386: the oldest pending event of a warp at an instruction boundary (its boundary is the model's reading, log entry 13) is
delivered with the asynchronous bit set; a warp in trap mode or in a window keeps it. A stall count at its limit is reported, and held
pending in the warp where the cause is delegated; an operator count at its limit is reported once, and held pending in every warp of the
workgroup, windowed ones too, and in no other, where the cause is delegated. A tick raises the counts of a chiplet's workgroups
alone. Completes: asyncEventDelivery, referenceTick, watchdogStall, watchdogOperator. -/
def Obligations.AsynchronousEvents : Prop :=
  (∀ (id : Nat) (s : State) (w : Warp) (g : Wg) (c : CauseInfo) (rest : List CauseInfo),
    Table.find id s.warps = some w → Table.find w.wg s.wgs = some g → w.async = c :: rest → g.status = .running →
    w.trap = false → w.window = false → w.bsync = none → w.btOp = none → w.bankOp = none → w.sync = none → w.wait ≠ .align →
    w.pend = [] → w.landing = [] →
    causeAsync c = true → c.code ≠ 0x28 → ∃ (t : State) (w' : Warp), exec (.asyncEventDelivery id) s = .next t ∧
      t = { s with warps := Table.ins id w' s.warps } ∧
      w'.cause = BitVec.ofNat 32 (2 ^ 31 + (if c.fetch then 2 ^ 30 else 0) + (if w.melded then 2 ^ 28 else 0) + c.sub.toNat * 256
        + c.code.toNat) ∧ w'.epch ++ w'.epc = w.pc ∧ w'.trapMask = w.exm ∧ w'.exm = 0xFFFFFFFF#32 ∧ w'.trap = true ∧
      w'.pc = BitVec.ofNat 57 (s.trapDesc g).tbase ∧ w'.async = rest ∧ w'.regs = w.regs) ∧
  (∀ (id : Nat) (s : State) (w : Warp), Table.find id s.warps = some w → w.trap = true ∨ w.window = true ∨ w.async = [] →
    exec (.asyncEventDelivery id) s = .next s) ∧
  (∀ (id : Nat) (s : State) (w : Warp) (g : Wg), Table.find id s.warps = some w → Table.find w.wg s.wgs = some g →
    let d := s.trapDesc g
    let watched := g.status = .running ∨ g.status = .reported ∨ g.status = .retiring
    (watched → d.stall ≠ 0 → d.stall ≤ w.stall → ∃ (t : State) (w' : Warp), exec (.watchdogStall id) s = .next t ∧
      Table.find id t.warps = some w' ∧ w'.stall = 0 ∧ w'.pc = w.pc ∧ w'.trap = w.trap ∧
      (t.hub (coreHub g.core)).reports = (s.hub (coreHub g.core)).reports ++ [⟨0x30, 0, w.wg, id, 0⟩] ∧
      (d.valid = true → d.deleg.testBit 0x30 = true → w.async = [] →
        w'.async = [⟨0x30, 0, false, laneSplat (BitVec.ofNat 32 w.stall), []⟩]) ∧
      (d.valid = false ∨ d.deleg.testBit 0x30 = false → w'.async = w.async) ∧ t.wgs = s.wgs ∧ t.mem = s.mem) ∧
    (¬watched ∨ d.stall = 0 ∨ w.stall < d.stall → exec (.watchdogStall id) s = .next s) ∧
    (watched → d.oplim ≠ 0 → d.oplim ≤ g.opCount → ∃ (t : State) (g' : Wg), exec (.watchdogOperator w.wg) s = .next t ∧
      Table.find w.wg t.wgs = some g' ∧ g' = { g with opCount := 0 } ∧
      (t.hub (coreHub g.core)).reports = (s.hub (coreHub g.core)).reports ++ [⟨0x30, 1, w.wg, 2 ^ 32, 0⟩] ∧
      (d.valid = false ∨ d.deleg.testBit 0x30 = false → t.warps = s.warps) ∧
      (d.valid = true → d.deleg.testBit 0x30 = true → Table.sortedFrom 0 s.warps = true → ∀ n x, Table.find n s.warps = some x →
        Table.find n t.warps = some (if x.wg = w.wg then { x with
          async := if x.async.any (fun y => decide (y.code = 0x30) && decide (y.sub = 1)) then x.async
            else x.async ++ [⟨0x30, 1, false, laneSplat (BitVec.ofNat 32 g.opCount), []⟩] } else x)) ∧ t.mem = s.mem) ∧
    (¬watched ∨ d.oplim = 0 ∨ g.opCount < d.oplim → exec (.watchdogOperator w.wg) s = .next s)) ∧
  (∀ (chip id : Nat) (s : State) (w : Warp) (g : Wg), s.warps = [(id, w)] → s.wgs = [(w.wg, g)] → g.status = .running →
    let d := s.trapDesc g
    (coreChip g.core ≠ chip → exec (.referenceTick chip) s = .next s) ∧
    (coreChip g.core = chip → exec (.referenceTick chip) s = .next { s with
      warps := [(id, if w.issued then { w with issued := false }
        else { w with stall := if d.stall ≠ 0 ∧ d.stall ≤ w.stall then w.stall else w.stall + 1 })]
      wgs := [(w.wg, { g with opCount := if d.oplim ≠ 0 ∧ d.oplim ≤ g.opCount then g.opCount else g.opCount + 1 })] }))

/-- R190, R191, R209: an outstanding result of a private, a cluster or a global load lands: the lane's registers take the words of its
bytes as they then stand, extended as the load says, or 0 with a poison mark where the bytes are poisoned; an `LDA` writes its token 1
with them; no byte of memory and no other warp changes. A message that was lost leaves a poison mark (the model's choice, log entry 30).
R184, R185, R219, R221: a translation writes no register and no memory; an entry its walk finds and that permits the access enters
the core's cache. A pending write of a core is performed at its owner: its bytes are then the memory's, or, on a non-coherent chiplet, the
dirty bytes of a line that its cluster cache holds; a line that a home or a full peer keeps takes a version above every version and
lease granted and above the one the write carries. Completes: resultLanding, ldaLanding, translationWalk, writeAtOwner. -/
def Obligations.ResultsAndWalks : Prop :=
  (∀ (id i : Nat) (s : State) (w : Warp) (g : Wg) (l : LaneLoad) (p : Pending),
     Table.find id s.warps = some w → Table.find w.wg s.wgs = some g → w.pend[i]? = some p → p.loads = [l] → l.lost = false →
     l.value = none → l.slots.length = (l.bytes + 3) / 4 → 0 < l.bytes → s.inSwitch l.loc = false →
     let words := fun (bs : List Byte) =>
       if 4 ≤ l.bytes then (List.range (l.bytes / 4)).map (fun k => BitVec.ofNat 32 (leNat ((bs.drop (4 * k)).take 4)))
       else [if l.signed then BitVec.ofInt 32 (sextN (leNat bs) (8 * l.bytes)) else BitVec.ofNat 32 (leNat bs)]
     let landed := fun (bs : List Byte) (bad : Bool) (wv : Nat) =>
       { (l.slots.zip (words bs)).foldl (fun w e => w.setLane e.1 l.lane e.2 bad) w with pend := w.pend.eraseIdx i, ov := max w.ov wv }
     let ends := fun (x : Instr) (w' : Warp) => ∃ t : State, exec x s = .next t ∧ Table.find id t.warps = some w' ∧
       t.mem = s.mem ∧ t.seals = s.seals ∧ ∀ n, n ≠ id → Table.find n t.warps = Table.find n s.warps
     let lands := fun (w' : Warp) => (p.token = none → ends (.resultLanding id i) w') ∧
       (∀ k, p.token = some [(l.lane, k)] → ends (.ldaLanding id i) (w'.setLane k l.lane 1 false))
     let key := s.keyOf g.world
     let bad := s.poisonAt l.loc l.bytes
     let cl := coreCluster g.core
     let home := isRemote l.loc = true ∨ l.attr = 1 ∨ s.cacheBanks cl = []
     let peer := (s.chip (coreChip g.core)).cls = 0 ∧ (∀ e ∈ s.ccopies, e.1 ≠ ccopyKey cl (l.loc / 64) g.world) ∧
       (∀ e ∈ s.clines, e.2.dirty = []) ∧ s.badHere g.core l.loc g.world = false
     (isPriv l.loc = true → lands (landed (s.bytesAt 0 l.loc l.bytes) bad 0)) ∧
     (isBank l.loc = true → (∀ q ∈ (s.core g.core).writes, q.warp = id → q.touches l.loc l.bytes = false) →
       lands (landed (s.bytesAt key l.loc l.bytes) bad 0)) ∧
     (isPhys l.loc = true → l.loc % 64 + l.bytes ≤ 64 → (s.core g.core).writes = [] → s.unreadRing l.loc l.bytes = false →
       (∀ e ∈ (s.core g.core).copies, e.1 ≠ copyKey (l.loc / 64) g.world) → home ∨ peer →
       lands (landed (s.bytesAt key l.loc l.bytes) bad (s.line (l.loc / 256)).wv)) ∧
     (p.token = none → exec (.ldaLanding id i) s = .next s) ∧ (p.token ≠ none → exec (.resultLanding id i) s = .next s)) ∧
  ((∀ (core asid va : Nat) (fetch : Bool) (acc : AccessKind) (s : State), ∃ t : State,
     exec (.translationWalk core fetch asid va acc) s = .next t ∧ t.mem = s.mem ∧ t.seals = s.seals ∧ t.poisoned = s.poisoned ∧
     t.lines = s.lines ∧ t.warps = s.warps ∧
     (∀ e : TlbEntry, (s.core core).dtlb = [] → (s.core core).dwalk = [] → fetch = false →
       (walkFrom s false asid (va % 2 ^ 57) 4 (Table.get 0 asid s.roots) [] 0).out = .ok e → permOk e.rd e.wr e.ex acc = true →
       (t.core core).dtlb = [e])) ∧
   (∀ (core i : Nat) (s : State), (s.core core).writes[i]? = none → exec (.writeAtOwner core i) s = .next s) ∧
   (∀ (core loc : Nat) (s : State) (p : PendWrite) (b : Byte), Table.sortedFrom 0 s.cores = true → (s.core core).writes = [p] →
     p.pieces = [(loc, [b])] → p.snap = [] → p.key = 0 → Table.find (loc / 16) s.seals = none → olderTag p.gen (s.gen p.vdev) = false →
     s.inSwitch loc = false →
     let cls := (s.chip (coreChip core)).cls
     let cl := coreCluster core
     let versioned := fun (t : State) => ∃ v, t.line (loc / 256) = ⟨v, (s.line (loc / 256)).re⟩ ∧ (s.line (loc / 256)).wv < v ∧
       (s.line (loc / 256)).re < v ∧ p.carried < v
     let stored := fun (more : State → Prop) => ∃ t : State, exec (.writeAtOwner core 0) s = .next t ∧
       (t.core core).writes = [] ∧ t.mem = Table.put 0 loc b s.mem ∧ t.seals = s.seals ∧ more t
     (isPriv loc = true ∨ isBank loc = true → stored (fun t => t.hubs = s.hubs ∧ t.lines = s.lines)) ∧
     (isRemote loc = true → stored (fun t => t.hubs = s.hubs ∧ versioned t)) ∧
     (isPhys loc = true → isRemote loc = false → cls ≠ 2 ∨ s.cacheTakes core loc p.attr = false → stored versioned) ∧
     (∀ place, isPhys loc = true → cls = 2 → s.cacheTakes core loc p.attr = true → s.linePlace cl (loc / 256) p.world = some place →
       ∃ (t : State) (x : CacheLine), exec (.writeAtOwner core 0) s = .next t ∧ (t.core core).writes = [] ∧ t.mem = s.mem ∧
         Table.find place t.clines = some x ∧ x.line = loc / 256 ∧ Table.find loc x.dirty = some b)))

/-- R148, R149, R153: a window whose participants have all arrived starts when its time has come: every `ALIGN` issues in cycle 0 and the
window runs at cycle 1, frozen where a participant is in trap mode (R150); a frozen window goes on at its cycle when no participant is in
trap mode; once every participant has left, its results land and the window is gone. R142, R143: a bin that has received no entry for
256 cycles is ready with fewer than 32 entries; the oldest ready bin whose warp finds a group with room forms a warp from its oldest
entries, at most 32: lane k holds the registers of its k-th entry with their marks, and 0 in every register that the entry did not save, the
mask has one bit an entry, the top register of the budget holds the origins, and the warp resumes at the bin's address. Completes: windowStart, windowResume, windowEnd, binTimeout, warpForm. -/
def Obligations.WindowsAndFormer : Prop :=
  (∀ (gid id : Nat) (s : State) (w : Warp) (g : Wg) (x : Window), s.warps = [(id, w)] → w.wg = gid → w.idx < 32 →
     Table.find gid s.wgs = some g → g.win = some x → g.status = .running →
     let bit : Mask := BitVec.ofNat 32 (2 ^ w.idx)
     (x.running = false → x.startIn = 0 → x.mask = bit → x.arrived = bit → w.wait = .align →
       (w.step && !w.trap && decide (g.world = 0)) = false → exec (.windowStart gid) s = .next { s with
       warps := [(id, { w with pc := w.pc + 8, window := true, lastWc := 0, wait := .none, issued := true, stall := 0 })]
       wgs := Table.ins gid { g.counted [(1, 1)] with win := some { x with running := true, cycle := 1, inside := bit, frozen := w.trap } } s.wgs }) ∧
     (x.arrived ≠ x.mask ∨ x.startIn ≠ 0 → exec (.windowStart gid) s = .next s) ∧
     (x.frozen = true → w.trap = false → exec (.windowResume gid) s = .next { s with
       wgs := Table.ins gid { g with win := some { x with frozen := false } } s.wgs }) ∧
     (x.frozen = true → w.trap = true → w.window = true → exec (.windowResume gid) s = .next s) ∧
     (x.running = true → x.inside = 0 → w.window = false → exec (.windowEnd gid) s = .next { s with
       warps := [(id, w.landDue (maxNat (w.landing.map Landing.due)))], wgs := Table.ins gid { g with win := none } s.wgs }) ∧
     (x.inside ≠ 0 ∨ w.window = true → exec (.windowEnd gid) s = .next s)) ∧
  ((∀ (gid bin : Nat) (s : State) (g : Wg), Table.find gid s.wgs = some g → g.status = .running →
     (∃ e ∈ g.pond, e.bin = bin) →
     ((s.core g.core).binOld gid bin = true → exec (.binTimeout gid bin) s = .next { s with
       wgs := Table.ins gid { g with binWait := Table.ins bin 1 g.binWait } s.wgs }) ∧
     ((s.core g.core).binOld gid bin = false → exec (.binTimeout gid bin) s = .next s)) ∧
   (∀ (gid core group bin : Nat) (s : State) (g : Wg) (e : PondEntry), s.wgs = [(gid, g)] → g.core = core → g.status = .running →
     g.pond.head? = some e → g.pond.Nodup → (∀ y ∈ g.pond, y.bin = bin) → 32 ≤ g.pond.length ∨ Table.get 0 bin g.binWait = 1 →
     pickGroup (s.coreUse core).warps (s.coreUse core).regs (bin % 512) = some group → 1 ≤ e.budget →
     ∃ (t : State) (w : Warp) (g' : Wg), exec (.warpForm core) s = .next t ∧
       Table.find s.warpSeq t.warps = some w ∧ t.warpSeq = s.warpSeq + 1 ∧ Table.find gid t.wgs = some g' ∧ g'.pond = g.pond.drop 32 ∧
       w.wg = gid ∧ w.pc = BitVec.ofNat 57 e.resume ∧ w.spawned = true ∧ w.role = e.role ∧ w.budget = e.budget ∧
       w.group = group ∧ w.loops = e.loops ∧ w.prio = e.prio ∧ t.mem = s.mem ∧
       ∀ k, k < 32 → match g.pond[k]? with
         | none => w.exm.getLsbD k = false
         | some y => w.exm.getLsbD k = true ∧ laneVal (w.reg (e.budget - 1)).vals k = BitVec.ofNat 32 (y.lane + 32 * y.warpIdx) ∧
           ∀ r, r ≠ e.budget - 1 → match y.regs.find? (fun v => decide (v.1 = r)) with
             | some v => laneVal (w.reg r).vals k = v.2.1 ∧ (w.reg r).poison.getLsbD k = v.2.2
             | none => laneVal (w.reg r).vals k = 0 ∧ (w.reg r).poison.getLsbD k = false) ∧
   (∀ (core : Nat) (s : State), s.readyBins core = [] → exec (.warpForm core) s = .next s))

/-! ## The harts of the Kudus -/

/-- R407 to R411: `VSPAWN` answers -1 without permission or for a queue that is off or whose tenant is being killed, -4 for
bad control bits, -5 for a bad address, -3 for another address space, -2 for a full queue, and -6, with the queue's error bit and a
class-7 entry, for an entry of the ring it cannot write; otherwise its packet stands in the next entry of the ring and it answers the
packet's index. A write of x0 is discarded; the pc goes on in every case. R412, R413: a join instruction of a hart is checked for
alignment, translation, scope and poison in that order (cause 7 and a class-4 entry for the scope, the record unchanged; the traps as
log entry 10 takes them), and with none failing finds the counter: `VPOLL` answers it, `VJADD` adds rs2 to it and answers what it held, `VJOIN` goes on when it is 0
and waits, with nothing written, while it is not. Completes: vspawn, vjoin, vpoll, vjadd. -/
def Obligations.HartWorkgroups : Prop :=
  (∀ (rd rs1 rs2 rs3 : XReg) (s : State), s.hart < 80 →
     let n := s.hart
     let h := s.hartOf n
     let done := fun (v : DWord) => { h with
       regs := if rd.toNat = 0 then h.regs else Table.put 0 rd.toNat v h.regs, pc := h.pc + 4, waiting := false }
     let i : Instr := .vspawn rd rs1 rs2 rs3
     let fails := fun (k : Int) => exec i s = .next (s.setHart n (done (BitVec.ofInt 64 k)))
     let x := fun (r : XReg) => (h.x r.toNat).toNat
     let ctl := x rs3
     let badCtl := ctl / 2 ^ 36 ≠ 0 ∨ ctl / 16 % 16 ≠ 0 ∨ 8 < ctl % 16
     let misaligned := x rs1 % 256 ≠ 0 ∨ x rs2 % 8 ≠ 0
     let hub := h.vspqHub.toNat
     let q := s.queue hub h.vspqQueue.toNat
     let off := q.enabled = false ∨ (s.tenant q.vdev).killing = true
     (h.vspqEn = false → fails (-1)) ∧
     (h.vspqEn = true → badCtl → fails (-4)) ∧
     (h.vspqEn = true → ¬badCtl → misaligned → fails (-5)) ∧
     (h.vspqEn = true → ¬badCtl → ¬misaligned → (s.hub (n / 40)).poisonHold = [] →
       (off → fails (-1)) ∧
       (¬off → h.vhasid.toNat ≠ q.asid → fails (-3)) ∧
       (¬off → h.vhasid.toNat = q.asid → q.write - q.read = 2 ^ q.log2size → fails (-2)) ∧
       (∀ pa, ¬off → h.vhasid.toNat = q.asid → q.write - q.read ≠ 2 ^ q.log2size →
         s.hubXlate q.asid ((q.ring + 64 * (q.write % 2 ^ q.log2size)) % 2 ^ 57) .store = some pa → s.poisonAt pa 64 = false →
         let packet := [1, BitVec.ofNat 8 (ctl / 256)] ++ leBytes 2 (ctl / 2 ^ 34 % 2 + 2 * (ctl / 2 ^ 35 % 2) + 4 * (ctl / 2 ^ 32 % 4))
           ++ [BitVec.ofNat 8 (ctl / 2 ^ 16), BitVec.ofNat 8 (ctl / 2 ^ 24 % 32), BitVec.ofNat 8 (ctl / 2 ^ 29 % 8)]
           ++ List.replicate 9 0 ++ leBytes 8 (x rs1) ++ leBytes 8 (x rs2)
           ++ (List.range 8).flatMap (fun k => leBytes 4 (if k < ctl % 16 then (h.x (10 + k)).toNat % 2 ^ 32 else 0))
         let u := s.putPieces 0 [(pa, packet)]
         ∃ t : State, exec i s = .next t ∧ t.harts = Table.put {} n (done (BitVec.ofNat 64 q.write)) s.harts ∧
           t.queue hub h.vspqQueue.toNat = { q with write := q.write + 1, stopped := false } ∧ t.mem = u.mem ∧ t.seals = u.seals ∧
           t.warps = s.warps ∧ t.wgs = s.wgs ∧ t.pkts = s.pkts) ∧
       (let at? := s.hubXlate q.asid ((q.ring + 64 * (q.write % 2 ^ q.log2size)) % 2 ^ 57) .store
        ¬off → h.vhasid.toNat = q.asid → q.write - q.read ≠ 2 ^ q.log2size → Table.sortedFrom 0 s.harts = true → Table.sortedFrom 0 s.hubs = true →
         (∀ pa, at? = some pa → s.poisonAt pa 64 = true) →
         ∃ t : State, exec i s = .next t ∧ (t.hartOf n).regs = (done (BitVec.ofInt 64 (-6))).regs ∧ (t.hartOf n).pc = h.pc + 4 ∧
           t.queue hub h.vspqQueue.toNat = { q with error := true } ∧ t.mem = s.mem ∧ t.pkts = s.pkts ∧
           ((s.hub hub).logWrite - (s.hub hub).logRead < 4096 →
             ∃ e, Table.find ((s.hub hub).logWrite % 4096) (t.hub hub).log = some e ∧ e.cls = 7)))) ∧
  (∀ (rd rs1 rs2 : XReg) (s : State), s.hart < 80 →
     let n := s.hart
     let h := s.hartOf n
     let done := fun (h : Hart) (v : DWord) => { h with
       regs := if rd.toNat = 0 then h.regs else Table.put 0 rd.toNat v h.regs, pc := h.pc + 4, waiting := false }
     let va := (h.x rs1.toNat).toNat
     let trapped := fun (e : RvExc) => h.trapAt false (h.x rs1.toNat) e
     let own := fun (c : Nat) => trapped { code := c, virt := (h.accessAs .rmw).2 }
     let fits := fun (r : SyncRec) => meeting r.party (hartParty n) ≤ r.scope ∧ meeting r.party (hartParty n) ≤ 8
     (∀ p : Party, p.chip < 12 → p.away = none → meeting p (hartParty n) = if p.hub = n / 40 then 6 else 7) ∧
     (∀ i, i = .vpoll rd rs1 ∨ i = .vjadd rd rs1 rs2 ∨ (i = .vjoin rd rs1 ∧ h.waiting = false) →
       (va % 4 ≠ 0 → exec i s = .next (s.setHart n (own 6))) ∧
       (∀ e, va % 4 = 0 → rvXlate s h .rmw va = .error e → exec i s = .next (s.setHart n (trapped e))) ∧
       (∀ pa, va % 4 = 0 → rvXlate s h .rmw va = .ok pa → paHome pa = none → exec i s = .next (s.setHart n (own 7))) ∧
       (∀ pa r, va % 4 = 0 → rvXlate s h .rmw va = .ok pa → (paHome pa).isSome → Table.find (pa / 256) s.recs = some r → ¬fits r →
         ∃ t : State, exec i s = .next t ∧ t.harts = Table.put {} n (own 7) s.harts ∧ t.recs = s.recs ∧ t.mem = s.mem ∧
           ((s.hub (n / 40)).logWrite - (s.hub (n / 40)).logRead < 4096 →
             ∃ e, Table.find ((s.hub (n / 40)).logWrite % 4096) (t.hub (n / 40)).log = some e ∧ e.cls = 4 ∧ e.pa = pa ∧
               e.detail % 16 = r.scope % 16)) ∧
       (∀ pa, va % 4 = 0 → rvXlate s h .rmw va = .ok pa → (paHome pa).isSome → (∀ r, Table.find (pa / 256) s.recs = some r → fits r) →
         s.poisonAt pa 4 = true → ∃ t : State, exec i s = .next t ∧ t.harts = Table.put {} n (own 19) s.harts ∧
           (t.hub (n / 40)).poisonHold = List.range 33 ∧ t.recs = s.recs ∧ t.mem = s.mem)) ∧
     (∀ pa, va % 4 = 0 → rvXlate s h .rmw va = .ok pa → (paHome pa).isSome → (∀ r, Table.find (pa / 256) s.recs = some r → fits r) →
       s.poisonAt pa 4 = false →
       let v : Word := BitVec.ofNat 32 (leNat (s.bytesAt 0 pa 4))
       let u := s.putPieces 0 [(pa, leBytes 4 (v + (h.x rs2.toNat).setWidth 32).toNat)]
       let reads := h.waiting = false ∨ h.seen ≠ some (s.line (pa / 256)).wv
       (∃ t : State, exec (.vpoll rd rs1) s = .next t ∧ t.harts = Table.put {} n (done h (v.signExtend 64)) s.harts ∧ t.mem = s.mem ∧
         t.warps = s.warps ∧ t.pkts = s.pkts) ∧
       (∃ t : State, exec (.vjadd rd rs1 rs2) s = .next t ∧ t.harts = Table.put {} n (done h (v.signExtend 64)) s.harts ∧
         t.mem = u.mem ∧ t.seals = u.seals ∧ t.warps = s.warps ∧ t.pkts = s.pkts ∧
         ∃ k, t.line (pa / 256) = ⟨k, (s.line (pa / 256)).re⟩ ∧ (s.line (pa / 256)).re < k ∧ (s.line (pa / 256)).wv < k) ∧
       (reads → v = 0 → ∃ t : State, exec (.vjoin rd rs1) s = .next t ∧
         t.harts = Table.put {} n { done h 0 with seen := none } s.harts ∧ t.mem = s.mem) ∧
       (reads → v ≠ 0 → ∃ t : State, exec (.vjoin rd rs1) s = .next t ∧
         t.harts = Table.put {} n { h with waiting := true, seen := some (s.line (pa / 256)).wv } s.harts ∧ t.mem = s.mem) ∧
       (h.waiting = true → h.seen = some (s.line (pa / 256)).wv → exec (.vjoin rd rs1) s = .next s)))

/-- R407, R413 to R416, R423: the I/O cores. `VQWAIT` answers the oldest event or waits; `VQBIND` sets the core's mask of 64
queues, unbinding those whose bit is clear, and answers the old mask; both raise an illegal instruction elsewhere than on an I/O core,
and `VQBIND` in U-mode too, in VS- and VU-mode a virtual instruction exception. An event of a queue reaches
the core it is bound to and no other. The spawn registers are read and written by M- and HS-mode alone. Completes: vqbind,
vqwait, spawnCsrAccess, eventPost. -/
def Obligations.IoCores : Prop :=
  ∀ (rd rs1 rs2 : XReg) (s : State), s.hart < 80 →
    let n := s.hart
    let h := s.hartOf n
    let done := fun (h : Hart) (v : DWord) => { h with
      regs := if rd.toNat = 0 then h.regs else Table.put 0 rd.toNat v h.regs, pc := h.pc + 4, waiting := false }
    let io := 8 ≤ n % 40
    (io → h.events = [] → exec (.vqwait rd) s = .next (s.setHart n { h with waiting := true })) ∧
    (∀ e rest, io → h.events = e :: rest → rest.length < 256 → Table.sortedFrom 0 s.harts = true → ∃ (t : State) (last : List (DWord × Nat)),
      exec (.vqwait rd) s = .next t ∧ t.hartOf n = done { h with events := rest ++ last, overflow := 0 } e.1 ∧
      (h.overflow = 0 → last = []) ∧
      (h.overflow ≠ 0 → ∃ x : DWord, last = [(x, 0)] ∧ x.toNat / 2 ^ 60 = 7 ∧ x.toNat % 2 ^ 32 = h.overflow % 2 ^ 32) ∧
      t.mem = s.mem ∧ t.hubs = s.hubs) ∧
    (¬io → ∃ v, exec (.vqwait rd) s = .next (s.setHart n (h.trap false 2 v))) ∧
    (¬io → ∃ v, exec (.vqbind rd rs1 rs2) s = .next (s.setHart n (h.trap false 2 v))) ∧
    (io → h.virt = false → h.mode ≠ 0 → (h.x rs1.toNat).toNat / 32 ≠ 0 →
      exec (.vqbind rd rs1 rs2) s = .next (s.setHart n (done h (BitVec.ofInt 64 (-1))))) ∧
    (io → (h.virt = true ∨ h.mode = 0) → ∃ v, exec (.vqbind rd rs1 rs2) s = .next (s.setHart n (h.trap false (if h.virt then 22 else 2) v))) ∧
    (io → h.virt = false → h.mode ≠ 0 → (h.x rs1.toNat).toNat / 32 = 0 → Table.sortedFrom 0 s.harts = true → Table.sortedFrom 0 s.hubs = true →
      Table.sortedFrom 0 (s.hub ((h.x rs1.toNat).toNat / 16)).queues = true → ∃ (t : State) (old : DWord),
      let hub := (h.x rs1.toNat).toNat / 16
      let q := fun (k : Nat) => 64 * ((h.x rs1.toNat).toNat % 16) + k
      exec (.vqbind rd rs1 rs2) s = .next t ∧
      (∀ k, k < 64 → (h.x rs2.toNat).getLsbD k = true → t.queue hub (q k) = { s.queue hub (q k) with bound := some n, deaf := false }) ∧
      (∀ k, k < 64 → (h.x rs2.toNat).getLsbD k = false →
        t.queue hub (q k) = { s.queue hub (q k) with bound := if (s.queue hub (q k)).bound = some n then none else (s.queue hub (q k)).bound }) ∧
      (∀ k, k < 64 → old.getLsbD k = decide ((s.queue hub (q k)).bound = some n)) ∧
      (t.hartOf n).regs = (done h old).regs ∧ (t.hartOf n).pc = h.pc + 4 ∧
      (∀ k, k ≠ n → (t.hartOf k).regs = (s.hartOf k).regs ∧ (t.hartOf k).pc = (s.hartOf k).pc) ∧ t.mem = s.mem ∧ t.pkts = s.pkts) ∧
    (∀ (hub q kind : Nat) (detail : Word), (s.queue hub q).bound = none → exec (.eventPost hub q kind detail) s = .next s) ∧
    (∀ (hub q kind k : Nat) (detail : Word), (s.queue hub q).bound = some k → (s.queue hub q).deaf = false → s.kuduGone (k / 40) = false →
      (s.hub (k / 40)).poisonHold = [] → kind < 16 → (s.queue hub q).vdev < 64 → hub < 2 → q < 1024 →
      (s.hartOf k).events.length < 256 →
      exec (.eventPost hub q kind detail) s = .next (s.setHart k { s.hartOf k with
        events := (s.hartOf k).events ++ [(BitVec.ofNat 64 (kind * 2 ^ 60 + (s.queue hub q).vdev * 2 ^ 54 + (hub * 1024 + q) * 2 ^ 32
          + detail.toNat), s.gen (s.queue hub q).vdev)] })) ∧
    (∀ (write : Bool) (v : DWord), h.virt = false → h.mode ≠ 0 →
      exec (.spawnCsrAccess n .vhasid write v rd) s = .next (s.setHart n (done { h with
        vhasid := if write then v.setWidth 16 else h.vhasid } (h.vhasid.setWidth 64))) ∧
      exec (.spawnCsrAccess n .vspq write v rd) s = .next (s.setHart n (done { h with
        vspqEn := if write then v.getLsbD 63 else h.vspqEn
        vspqHub := if write then v.getLsbD 10 else h.vspqHub
        vspqQueue := if write then v.setWidth 10 else h.vspqQueue }
        (BitVec.ofNat 64 ((if h.vspqEn then 2 ^ 63 else 0) + (if h.vspqHub then 1024 else 0) + h.vspqQueue.toNat))))) ∧
    (∀ (csr : CsrName) (write : Bool) (v : DWord), (h.virt = true ∨ h.mode = 0) → ∃ (t : State) (x : DWord),
      exec (.spawnCsrAccess n csr write v rd) s = .next t ∧
      t.harts = Table.put {} n (h.trap false (if h.virt then 22 else 2) x) s.harts ∧ t.mem = s.mem)

/-- R216, R411, R413, R426, R442 (the RISC-V side as log entry 10 takes it): a hart's load, store and atomic at an
untranslated address of memory, with no record, poison or receive ring in the way; an interrupt it takes leaves the pc in the
exception register, its cause beside it, and goes to the vector; a misaligned access traps, one to a management window with an access
fault, and an atomic that is not inclusive with a record of its line with a store access fault; poison found in a line that a Kudu's
caches hold raises interrupt 16 in the hart that wrote it last and holds every tenant of the Kudu; a held tenant's active slots become held, the
workgroups they cover get the slice-end request, and Foulo the report. Completes:
kuduCachePoisonInterrupt, tenantPoisonHold, hartInterrupt, kuduHartAccess. -/
def Obligations.HartAccesses : Prop :=
  ∀ (n : Nat) (rd : XReg) (va size : Nat) (value : DWord) (s : State), n < 80 →
    let h := s.hartOf n
    let done := fun (v : DWord) => { h with
      regs := if rd.toNat = 0 then h.regs else Table.put 0 rd.toNat v h.regs, pc := h.pc + 4, waiting := false }
    let old := leNat (s.bytesAt 0 va size)
    let plain := h.mode = 3 ∧ (h.csr 0x300).getLsbD 17 = false ∧ va < 2 ^ 50 ∧ (paHome va).isNone = false ∧ va % size = 0 ∧
      s.poisonAt va size = false
    let fits := fun (r : SyncRec) => meeting r.party (hartParty n) ≤ r.scope ∧ meeting r.party (hartParty n) ≤ 8
    let run := fun (k : HartAccess) => exec (.kuduHartAccess n k rd va size value) s
    let stored := fun (k : HartAccess) (v : DWord) (bs : Nat) => ∃ t : State, run k = .next t ∧
      t.harts = Table.put {} n (done v) s.harts ∧ t.mem = (s.putPieces 0 [(va, leBytes size bs)]).mem ∧
      t.warps = s.warps ∧ t.pkts = s.pkts ∧ Table.find (va / 256) t.lastWriter = some n
    (run .fence = .next (s.setHart n { h with pc := h.pc + 4, waiting := false })) ∧
    (size = 1 ∨ size = 2 ∨ size = 4 ∨ size = 8 → plain → s.unreadRing va size = false →
      (∃ t : State, run .load = .next t ∧ t.mem = s.mem ∧ t.harts = Table.put {} n (done (BitVec.ofInt 64 (sextN old (8 * size)))) s.harts) ∧
      (∃ t : State, run .loadU = .next t ∧ t.mem = s.mem ∧ t.harts = Table.put {} n (done (BitVec.ofNat 64 old)) s.harts)) ∧
    (size = 1 ∨ size = 2 ∨ size = 4 ∨ size = 8 → plain →
      (∃ t : State, run .store = .next t ∧ t.harts = Table.put {} n { h with pc := h.pc + 4, waiting := false } s.harts ∧
        t.mem = (s.putPieces 0 [(va, leBytes size (value.toNat % 2 ^ (8 * size)))]).mem ∧ Table.find (va / 256) t.lastWriter = some n)) ∧
    (size = 4 ∨ size = 8 → plain → s.unreadRing va size = false → (∀ r, Table.find (va / 256) s.recs = some r → fits r) →
      let v := value.toNat % 2 ^ (8 * size)
      let was := BitVec.ofInt 64 (sextN old (8 * size))
      stored .amoAdd was ((old + v) % 2 ^ (8 * size)) ∧ stored .amoSwap was v ∧ stored .amoAnd was (old &&& v) ∧
      stored .amoOr was (old ||| v) ∧ stored .amoXor was (old ^^^ v)) ∧
    (∀ r, size = 4 ∨ size = 8 → plain → Table.find (va / 256) s.recs = some r → ¬fits r → ∃ t : State, run .amoAdd = .next t ∧
      t.harts = Table.put {} n (h.trap false 7 (BitVec.ofNat 64 va)) s.harts ∧ t.recs = s.recs ∧ t.mem = s.mem) ∧
    (va % size ≠ 0 → 0 < size → h.mode = 3 → (h.csr 0x300).getLsbD 17 = false → va < 2 ^ 50 →
      run .load = .next (s.setHart n (h.trap false 4 (BitVec.ofNat 64 va))) ∧
      run .store = .next (s.setHart n (h.trap false 6 (BitVec.ofNat 64 va)))) ∧
    (va % size ≠ 0 → h.mode = 3 → (h.csr 0x300).getLsbD 17 = false → 0x7FF0000000000 ≤ va → va < 0x7FF0000000000 + 0x2000000 →
      run .load = .next (s.setHart n (h.trap false 5 (BitVec.ofNat 64 va))) ∧
      run .store = .next (s.setHart n (h.trap false 7 (BitVec.ofNat 64 va)))) ∧
    (∀ k, h.pending = [] → h.csr 0x344 = 0 → h.csr 0x645 = 0 → h.takes k = true → Table.sortedFrom 0 h.csrs = true →
      let level := h.trapLevel true k
      let base := match level with | .machine => 0x341 | .supervisor => 0x141 | .guest => 0x241
      let code := if level = .guest ∧ (k = 2 ∨ k = 6 ∨ k = 10) then k - 1 else k
      ∃ (t : State) (h' : Hart), exec (.hartInterrupt n k) s = .next t ∧
      t.harts = Table.put {} n h' (Table.put {} n { h with pending := [k] } s.harts) ∧ h'.pending = [] ∧ h'.waiting = false ∧
      h'.csr base = h.pc ∧ h'.csr (base + 1) = BitVec.ofNat 64 (2 ^ 63 + code) ∧
      h'.pc = vectorPc (h.csr (match level with | .machine => 0x305 | .supervisor => 0x105 | .guest => 0x205)) true code ∧
      h'.regs = h.regs ∧ t.mem = s.mem) ∧
    (∀ k, h.pending = [] → h.csr 0x344 = 0 → h.csr 0x645 = 0 → h.takes k = false → exec (.hartInterrupt n k) s = .next (s.setHart n { h with pending := [k] })) ∧
    (∀ line, let found := Table.find line s.lastWriter = some n ∧ s.poisonAt (line * 256) 256 = true ∧
        (Table.find (line * 128 + (12 + n / 40) * 8) s.dir).isSome
      (found → ∃ t u : State, exec (.kuduCachePoisonInterrupt n line) s = .next t ∧ (t.hub (n / 40)).poisonHold = List.range 33 ∧
        exec (.hartInterrupt n 16) s = .next u ∧ t.harts = u.harts ∧ t.mem = s.mem) ∧
      (¬found → exec (.kuduCachePoisonInterrupt n line) s = .next s)) ∧
    (∀ hub v, (s.hub hub).holdDue.contains v = false → exec (.tenantPoisonHold hub v) s = .next s) ∧
    (∀ hub v, (s.hub hub).holdDue.contains v = true →
      let mine := fun (hb i : Nat) (x : Slot) => Table.find i (s.hub hb).slots = some x ∧ x.state = .active ∧
        ∃ p, Table.find x.pkt s.pkts = some p ∧ p.vdev = v
      ∃ (t : State) (rs : List Report), exec (.tenantPoisonHold hub v) s = .next t ∧
      (∀ hb i x, hb < 2 → mine hb i x → Table.find i (t.hub hb).slots = some { x with state := .held }) ∧
      (∀ hb i x, hb < 2 → Table.sortedFrom 0 (s.hub hb).slots = true → Table.find i (s.hub hb).slots = some x → ¬mine hb i x →
        Table.find i (t.hub hb).slots = some x) ∧
      (∀ id g i x, Table.find id s.wgs = some g → g.stands = true → g.status ≠ .retiring → g.hub < 2 →
        s.slotFor g.hub g.pkt g.lin = some i → mine g.hub i x → Table.find id t.wgs = some { g with sliceEnd := true }) ∧
      (t.hub hub).reports = (s.hub hub).reports ++ rs ++ [⟨257, 0, v, 0, 0⟩] ∧ (∀ r ∈ rs, r.code = 0x31 ∧ r.sub = 1) ∧
      (t.hub hub).holdDue = (s.hub hub).holdDue.filter (· ≠ v) ∧ t.pkts = s.pkts ∧ t.mem = s.mem)

/-! ## The hubs: queues, packets, slots, dispatch, pre-emption, arbitration, kills -/

/-- R348, R350, Table 11.3 (the order of the packet checks as log entry 25 has it): a doorbell write moves the write index
unless it lies below the read index or more than the ring above it, which sets the error bit; the hub takes the packet at the
read index, clears its bytes and checks them; a type byte of 0 stops the queue there; nothing is taken from a queue that is
off, stopped or empty, or whose tenant is being killed. R350, R352: a refused packet completes with its status and, out of its
kill, a packet completes once every workgroup is accounted for and its engine operations are done: the status word and the
kernel value are written, then the counter falls by 1, and the packet is gone. A packet of a tenant being killed, or with a
workgroup still to retire, stays. Completes: doorbellWrite, packetTake, packetCompletion. -/
def Obligations.Packets : Prop :=
  (∀ (hub qn idx : Nat) (s : State),
     let q := s.queue hub qn
     let va := (q.ring + 64 * (q.read % 2 ^ q.log2size)) % 2 ^ 57
     let closed := q.enabled = false ∨ q.stopped = true ∨ q.write ≤ q.read ∨ (s.tenant q.vdev).killing = true
     let keep := fun (q' : Queue) (t : State) => t = s.modHub hub (fun h => { h with queues := Table.put {} qn q' h.queues })
     (q.read ≤ idx → idx ≤ q.read + 2 ^ q.log2size →
       ∃ t, exec (.doorbellWrite hub qn idx) s = .next t ∧ keep { q with write := idx, stopped := false } t) ∧
     (idx < q.read ∨ q.read + 2 ^ q.log2size < idx → ∃ t, exec (.doorbellWrite hub qn idx) s = .next t ∧
       (t.queue hub qn).error = true ∧ (t.queue hub qn).write = q.write ∧ t.mem = s.mem ∧ t.pkts = s.pkts) ∧
     (closed → exec (.packetTake hub qn) s = .next s) ∧
     (∀ pa bs, ¬closed → s.hubXlate q.asid va .load = some pa → s.hubBytes q.asid va 64 = some bs → q.bound = none →
       s.worldHeld (fieldAt bs 4 1) = false → ∃ t : State, exec (.packetTake hub qn) s = .next t ∧
       (fieldAt bs 0 1 = 0 → (t.queue hub qn).stopped = true ∧ (t.queue hub qn).read = q.read ∧ t.pkts = s.pkts ∧ t.mem = s.mem) ∧
       (fieldAt bs 0 1 ≠ 0 → (t.queue hub qn).read = q.read + 1 ∧ t.mem = (s.putPieces 0 [(pa, List.replicate 64 0)]).mem ∧
         t.pktSeq = s.pktSeq + 1 ∧ ∃ p : Packet, Table.find s.pktSeq t.pkts = some p ∧ p.hub = hub ∧ p.queue = qn ∧
           p.index = q.read ∧ p.vdev = q.vdev ∧ p.asid = q.asid ∧ p.gen = s.gen q.vdev ∧ p.kind = fieldAt bs 1 1 ∧
           p.world = fieldAt bs 4 1 ∧ p.object = fieldAt bs 16 8 ∧ p.completion = fieldAt bs 24 8 ∧
           p.args = (List.range 8).map (fun i => BitVec.ofNat 32 (fieldAt bs (32 + 4 * i) 4)) ∧
           (2 < fieldAt bs 0 1 ∨ fieldAt bs 7 9 ≠ 0 ∨ 16 ≤ fieldAt bs 2 2 ∨ p.completion % 8 ≠ 0 → p.refused = true ∧ p.status = 1)))) ∧
  (∀ (pid : Nat) (s : State) (p : Packet), Table.find pid s.pkts = some p →
     let va := p.completion % 2 ^ 57
     let gone := fun (t : State) => t.pkts = Table.del pid s.pkts
     let writes := fun (t : State) (code : Nat) =>
       (p.completion = 0 → t.mem = s.mem ∧ t.seals = s.seals) ∧
       (∀ a b, p.completion ≠ 0 → p.completion % 4 = 0 → s.hubXlate p.asid ((va + 4) % 2 ^ 57) .store = some a →
         let u := s.putPieces 0 [(a, leBytes 4 (p.kval * 2 ^ 16 + code))]
         u.hubXlate p.asid va .rmw = some b → u.poisonAt b 4 = false →
         t.mem = (u.putPieces 0 [(b, leBytes 4 ((leNat (u.bytesAt 0 b 4) + 2 ^ 32 - 1) % 2 ^ 32))]).mem)
     ((s.tenant p.vdev).killing = true → exec (.packetCompletion pid) s = .next s) ∧
     ((s.tenant p.vdev).killing = false → p.refused = true → p.flags.testBit 1 = false →
       ∃ t, exec (.packetCompletion pid) s = .next t ∧ gone t ∧ writes t p.status) ∧
     ((s.tenant p.vdev).killing = false → p.refused = false → p.marker = false → s.wgs = [] → p.flags.testBit 0 = false →
       (p.retired + p.lost < p.total → exec (.packetCompletion pid) s = .next s) ∧
       (p.total ≤ p.retired + p.lost → p.flags.testBit 1 = false →
         ∃ t, exec (.packetCompletion pid) s = .next t ∧ gone t ∧ writes t (if p.term then 7 else 0))))

/-- R351, R352, Tables 11.4 and 11.5 (the order of the checks of a record as log entry 25 has it): a valid record written to a
free, done or rejected slot that names a packet taken here at its next unbound workgroup activates the slot for its range,
clipped to the packet, and moves the packet's index; one that fails a check leaves the slot rejected with its error code and
nothing bound. A slot in use ignores a record, but a cleared valid bit stops its placement. R353 to R358: with no slot that
can place anything dispatch changes nothing; a slot whose next workgroup is admitted places it on the core it chose: the
workgroup of that number stands there with its packet's code, world and grants, with one warp an entry of the role table at
its role's entry address with the kernel's arguments, and the slot counts it. A workgroup that waits to retire with nothing
left to wait for retires, and its slot and packet count it; any other stays. Completes: bindRecordWrite, dispatchPlace,
workgroupRetire. -/
def Obligations.BindAndDispatch : Prop :=
  (∀ (hub n : Nat) (w0 w1 w2 w3 : Word) (s : State), n < 64 →
     let x := s.slot hub n
     let i : Instr := .bindRecordWrite hub n w0 w1 w2 w3
     let used := x.state = .active ∨ x.state = .held
     let slot := fun (y : Slot) (s : State) => s.modHub hub (fun h => { h with slots := Table.put {} n y h.slots })
     let fresh : Slot := { w0 := w0, w1 := w1, w2 := w2, w3 := w3, recover := x.recover }
     let rejected := fun (e : Nat) => exec i s = .next (slot { fresh with state := .rejected, error := e } s)
     let reserved := w0.toNat / 2 ^ 26 % 8 ≠ 0 ∨ w1.toNat / 2 ^ 22 % 4 ≠ 0 ∨ w1.toNat / 2 ^ 5 % 2 ^ 11 ≠ 0
     let part := w1.toNat / 2 ^ 24
     let valid := w0.getLsbD 31 = true
     (used → valid → exec i s = .next s) ∧
     (used → ¬valid → exec i s = .next (slot { x with w0 := x.w0 &&& 0x7FFFFFFF#32 } s)) ∧
     (¬used → ¬valid → exec i s = .next (slot { x with w0 := w0, w1 := w1, w2 := w2, w3 := w3 } s)) ∧
     (¬used → valid → reserved → rejected 5) ∧
     (¬used → valid → ¬reserved → s.namedPkt hub w0 = none → rejected 1) ∧
     (∀ pid p, ¬used → valid → ¬reserved → s.namedPkt hub w0 = some (pid, p) →
       (w2.toNat ≠ p.unbound → rejected 2) ∧
       (w2.toNat = p.unbound → p.coop = true → (w2 ≠ 0 ∨ w3 ≠ 0) → rejected 3) ∧
       (w2.toNat = p.unbound → ¬(p.coop = true ∧ (w2 ≠ 0 ∨ w3 ≠ 0)) →
         (part ≠ 255 → Table.find part s.partsOwner ≠ some p.vdev → rejected 4) ∧
         ((part = 255 ∨ Table.find part s.partsOwner = some p.vdev) →
           let stop := if w3 = 0 then p.total else if p.total ≤ w2.toNat + w3.toNat then p.total else w2.toNat + w3.toNat
           exec i s = .next (slot { fresh with state := .active, pkt := pid, next := w2.toNat, stop := stop }
             { s with pkts := Table.modify pid (fun p => { p with unbound := stop }) s.pkts }))))) ∧
  ((∀ (hub : Nat) (s : State), (∀ e ∈ (s.hub hub).slots, e.2.state ≠ .active ∨ e.2.w0.getLsbD 31 = false) →
     exec (.dispatchPlace hub) s = .next s) ∧
   (∀ (hub n pid lin core entry budget : Nat) (s : State) (x : Slot) (p : Packet) (a : Grant),
     s.hubs = [(hub, { s.hub hub with slots := [(n, x)] })] → s.pkts = [(pid, p)] → s.wgs = [] → s.warps = [] → s.worlds = [] →
     x.state = .active → x.w0.getLsbD 31 = true → x.pkt = pid → x.again = [] → x.next = lin → lin < x.stop →
     (s.tenant p.vdev).killing = false → p.flags.testBit 0 = false → p.coop = false → p.roles = [⟨1, budget, entry⟩] →
     s.chooseCore x p lin = some (core, a) → (s.core core).power = .p0 → a.groups.length = 1 →
     ∃ (t : State) (g : Wg) (w : Warp), exec (.dispatchPlace hub) s = .next t ∧ Table.find s.wgSeq t.wgs = some g ∧
       Table.find s.warpSeq t.warps = some w ∧ g.status = .running ∧ g.core = core ∧ g.lin = lin ∧ g.pkt = pid ∧ g.vdev = p.vdev ∧
       g.world = p.world ∧ g.asid = p.asid ∧ g.gen = s.gen p.vdev ∧ g.scratch = p.scratch ∧ g.sbase = a.sbase ∧
       g.tileGrant = p.tiles ∧ g.millGrant = p.mills ∧ w.wg = s.wgSeq ∧ w.idx = 0 ∧ w.pc = BitVec.ofNat 57 entry ∧ w.budget = budget ∧
       w.exm = 0xFFFFFFFF#32 ∧ w.trap = false ∧ w.melded = false ∧ w.window = false ∧
       (∀ k, k < 8 → (w.reg k).vals = laneSplat (p.args.getD k 0)) ∧ (∀ k, 8 ≤ k → w.reg k = RegVal.zero) ∧
       (t.slot hub n).placed = x.placed + 1 ∧ (t.slot hub n).next = lin + 1 ∧ t.mem = s.mem) ∧
   (∀ (gid : Nat) (s : State) (g : Wg), Table.find gid s.wgs = some g →
     (g.status ≠ .retiring ∨ s.wgBusy gid = true ∨ s.drained gid g = false → exec (.workgroupRetire gid) s = .next s) ∧
     (g.status = .retiring → s.wgBusy gid = false → s.drained gid g = true → s.cores = [] → s.hubs = [] → s.wgs = [(gid, g)] →
       (s.chip (coreChip g.core)).cls ≠ 2 → (∀ e ∈ g.streams, e.2.supplied = []) →
       ∃ t : State, exec (.workgroupRetire gid) s = .next t ∧ t.wgs = [] ∧ t.warps = s.warps ∧
         t.pkts = Table.modify g.pkt (fun k => { k with
           retired := k.retired + 1, term := k.term || g.aborted, ver := Nat.max k.ver g.ver }) s.pkts ∧
         (∀ e ∈ t.mem, e.1 < 2 ^ 60 + gid * 2 ^ 32 ∨ 2 ^ 60 + gid * 2 ^ 32 + 2 ^ 32 ≤ e.1))))

/-- R368, R369, R387: a workgroup whose warps have all arrived goes on with no slice end pending: each warp issues past its
`OPB`; with one pending it is saved with its position and loop counters and its warps end. A cooperative kernel with one
pending waits for the rest of its workgroups; then all are saved together, every warp of theirs ends, and its slot is held and reported. A
saved workgroup stays saved where its slot, core or queues do not admit it; admitted, it stands on the core it was placed on with its
warps as they were saved, its image being as it was written (log entry 43). Completes: operatorBoundaryReached, cooperativeHold, workgroupResume. -/
def Obligations.Boundaries : Prop :=
  (∀ (gid : Nat) (s : State), s.atBoundary gid = false → exec (.operatorBoundaryReached gid) s = .next s) ∧
  (∀ (gid id : Nat) (s : State) (w : Warp) (g : Wg), s.warps = [(id, w)] → w.wg = gid → s.wgs = [(gid, g)] → s.atBoundary gid = true →
    (∀ p, Table.find g.pkt s.pkts = some p → p.coop = false) → w.pend = [] →
    (g.sliceEnd = false → w.window = false → (w.step = false ∨ w.trap = true ∨ g.world ≠ 0) → exec (.operatorBoundaryReached gid) s = .next { s with
      warps := [(id, { w with pc := w.pc + 8, wait := .none, issued := true, stall := 0 })]
      wgs := [(gid, { g.counted [(1, 1)] with opb := [], opbFirst := none, opCount := 0 })] }) ∧
    (g.sliceEnd = true → ∃ (t : State) (g' : Wg), exec (.operatorBoundaryReached gid) s = .next t ∧ t.warps = [] ∧
      t.wgs = [(gid, g')] ∧ g'.status = .parked ∧ g'.savedPos = g.opbFirst.getD 0 ∧ g'.savedLoops = [(w.idx, w.loops)] ∧
      g'.resumed = true ∧ g'.queues = g.queues ∧ g'.perf = g.perf ∧ g'.sliceEnd = false)) ∧
  (∀ (pid : Nat) (s : State) (p : Packet), Table.find pid s.pkts = some p →
    (p.coop = false ∨ (s.pktWgs pid).all (fun e => !e.2.sliceEnd) = true ∨ (s.pktWgs pid).any (fun e => !s.atBoundary e.1) = true →
      exec (.cooperativeHold pid) s = .next s) ∧
    (p.coop = true → (s.pktWgs pid).any (fun e => e.2.sliceEnd) = true → (s.pktWgs pid).all (fun e => s.atBoundary e.1) = true →
      Table.sortedFrom 0 s.wgs = true → Table.sortedFrom 0 (s.hub p.hub).slots = true →
      ∃ t : State, exec (.cooperativeHold pid) s = .next t ∧
        (∀ gid g, Table.find gid s.wgs = some g → g.pkt = pid → g.stands = true →
          (∃ g', Table.find gid t.wgs = some g' ∧ g'.status = .parked ∧ g'.savedPos = g.opbFirst.getD 0 ∧ g'.resumed = true ∧
            g'.sliceEnd = false ∧ g'.queues = g.queues) ∧
          (∀ e ∈ t.warps, e.2.wg ≠ gid)) ∧
        (∀ i, s.slotFor p.hub pid 0 = some i → (t.slot p.hub i).state = .held) ∧
        ⟨256, 0, pid, 0, 0⟩ ∈ (t.hub p.hub).reports)) ∧
  (∀ (gid core : Nat) (s : State) (g : Wg), Table.find gid s.wgs = some g → g.status ≠ .saved →
    exec (.workgroupResume gid core) s = .next s) ∧
  (∀ (gid core i id k : Nat) (s : State) (w : Warp) (g : Wg) (p : Packet) (a : Grant) (ws rs : List Nat),
    let u := s.coreUse core
    let kind := chipKind (coreChip core)
    s.wgs = [(gid, g)] → s.warps = [(id, w)] → w.wg = gid → g.status = .saved → g.streams = [] → g.followSaved = [] → s.imageIntact g = true →
    Table.find g.pkt s.pkts = some p → s.slotFor g.hub g.pkt g.lin = some i → s.worldHeld g.world = false →
    (s.slot g.hub i).state = .active → (s.slot g.hub i).w0.getLsbD 31 = true → s.coreOpen core = true → p.coop = false →
    kind = chipKind (coreChip g.core) → s.cores = [] →
    coreChip core ∈ s.chipsFor (s.slot g.hub i) kind → core ∈ s.coresFor (s.slot g.hub i) (coreChip core) →
    placeWarps u.warps u.regs [w.budget] = some ([k], ws, rs) → u.grant kind 64 { p with roles := [] } = some a →
    ∃ (t : State) (g' : Wg), exec (.workgroupResume gid core) s = .next t ∧ t.warps = [(id, { w with group := k })] ∧
      t.wgs = [(gid, g')] ∧ g'.status = .running ∧ g'.core = core ∧ g'.sbase = a.sbase ∧ g'.queues = g.queues ∧ g'.pond = g.pond ∧
      t.mem = s.mem)

/-- R365, R367, R370, R354, R428: a pre-empt command holds its slots and waits for their workgroups, which are asked for a
slice end or halted at once; while one is running another has no effect; with nothing left to wait for it posts the count of
those saved and interrupts its management core. A held slot resumes. An admission limit outside 16 to 64 changes nothing. The
cores of a partition become the cores named. R361 to R365, R427, R439 (what a capacity that is no whole number of grants
leaves is carried over, log entry 24): a guarantee is accepted while the guarantees of its arbiter fit 4,032 of 4,096 parts of
its capacity, and has no effect otherwise; in a cycle of an arbiter that grants one request, the next device in turn that has
a token and asks is served and pays for it; the Weir changes at a rotation. Completes: sluiceGrant, sluiceGuaranteeWrite,
weirRotation, admissionLimitWrite, partitionChange, preemptSliceEnd, preemptUrgentHalt, preemptComplete, slotResume. -/
def Obligations.PreemptionAndArbitration : Prop :=
  (∀ (hub n : Nat) (isPart : Bool) (s : State),
     let h := s.hub hub
     let cmd := fun (urgent : Bool) => BitVec.ofNat 64 (2 ^ 63 + (if urgent then 2 ^ 62 else 0) + (if isPart then 2 ^ 61 else 0) + n % 64)
     (h.preempt.getLsbD 63 = true → exec (.preemptSliceEnd hub isPart n) s = .next s ∧ exec (.preemptUrgentHalt hub isPart n) s = .next s) ∧
     (∀ x : Slot, h.preempt.getLsbD 63 = false → s.wgs = [] → hub < 2 → isPart = false → s.hubs = [(hub, h)] → h.slots = [(n, x)] →
       x.state = .active →
       let after := fun (urgent : Bool) => ({ s with hubs := [(hub, { h with
         slots := [(n, { x with state := .held })], preempt := cmd urgent, awaited := [], savedNow := 0 })] } : State)
       exec (.preemptSliceEnd hub isPart n) s = .next (after false) ∧ exec (.preemptUrgentHalt hub isPart n) s = .next (after true)) ∧
     (∀ (gid id : Nat) (w : Warp) (g : Wg) (x : Slot), h.preempt.getLsbD 63 = false → hub < 2 → isPart = false → s.wgs = [(gid, g)] →
       s.warps = [(id, w)] → w.wg = gid → g.status = .running → g.hub = hub → s.slotFor hub g.pkt g.lin = some n → s.hubs = [(hub, h)] →
       h.slots = [(n, x)] → x.state = .active →
       (∃ (t : State) (g' : Wg), exec (.preemptSliceEnd hub isPart n) s = .next t ∧ t.wgs = [(gid, g')] ∧ g'.sliceEnd = true ∧
         g'.status = .running ∧ (t.hub hub).awaited = [gid] ∧ t.mem = s.mem) ∧
       (∃ (t : State) (g' : Wg), exec (.preemptUrgentHalt hub isPart n) s = .next t ∧ t.wgs = [(gid, g')] ∧ g'.status = .halting ∧
         (t.hub hub).awaited = [gid] ∧ t.mem = s.mem)) ∧
     (h.preempt.getLsbD 63 = false → exec (.preemptComplete hub) s = .next s) ∧
     (h.preempt.getLsbD 63 = true → h.awaited = [] → exec (.preemptComplete hub) s = .next (s.modHub hub (fun h => { h with
       preempt := h.preempt &&& 0x7FFFFFFFFFFFFFFF#64, saved := BitVec.ofNat 32 h.savedNow, irqs := h.irqs ++ [(16, hub)] }))) ∧
     (∀ x : Slot, s.hubs = [(hub, h)] → h.slots = [(n, x)] → 0 < n → n < 64 →
       exec (.slotResume hub n) s = .next { s with hubs := [(hub, { h with
         resume := BitVec.ofNat 64 n, slots := [(n, if x.state = .held then { x with state := .active } else x)] })] }) ∧
     (∀ core limit, 16 ≤ limit → limit ≤ 64 → exec (.admissionLimitWrite core limit) s = .next { s with
       cores := Table.put {} core { s.core core with limit := limit } s.cores }) ∧
     (∀ core limit, limit < 16 ∨ 64 < limit → exec (.admissionLimitWrite core limit) s = .next s) ∧
     (∀ part vdev core, part < 64 → s.cores = [] → exec (.partitionChange part vdev [core]) s = .next { s with
       partsOwner := Table.ins part vdev s.partsOwner, cores := [(core, { part := some part })] })) ∧
  (∀ (hub arb vdev : Nat) (value : Word) (s : State),
     let b := s.bucket hub arb vdev
     let want := value.toNat % 2 ^ 20
     let cap := s.arbGrants hub arb
     let fits := vdev ≤ 32 ∧ want ≤ cap ∧ (s.arbSum hub arb vdev + want) * 4096 ≤ cap * 4032
     (¬fits → exec (.sluiceGuaranteeWrite hub arb vdev value) s = .next s) ∧
     (fits → arb < 976 ∨ 992 ≤ arb → exec (.sluiceGuaranteeWrite hub arb vdev value) s = .next (s.modHub hub (fun h => { h with
       buckets := Table.put {} (33 * arb + vdev) { b with guarantee := want } h.buckets }))) ∧
     (fits → 976 ≤ arb → arb < 992 → exec (.sluiceGuaranteeWrite hub arb vdev value) s = .next ((s.modHub hub (fun h => { h with
       buckets := Table.put {} (33 * arb + vdev) { b with guarantee := want } h.buckets })).modHub hub (fun h => { h with
         ports := Table.modify ((arb - 976) / 2) (fun p => { p with
           suspended := p.suspended &&& ~~~(BitVec.ofNat 2 (2 ^ (arb % 2))) }) h.ports }))) ∧
     (groupArb arb = true → arb < 768 → vdev ≤ 32 → Table.get 0 arb (s.hub hub).fraction < 4096 → (s.hub hub).robin = [] → s.hubs = [(hub, { s.hub hub with buckets := [(33 * arb + vdev, b)] })] → 1 ≤ b.guarantee →
       4096 ≤ b.level → b.level + b.guarantee ≤ b.depth * 4096 → ∃ t : State, exec (.sluiceGrant hub arb [vdev]) s = .next t ∧
         (t.bucket hub arb vdev).level = b.level + b.guarantee - 4096 ∧ (t.bucket hub arb vdev).marked = 0 ∧
         Table.get 32 arb (t.hub hub).robin = vdev ∧ t.mem = s.mem ∧ t.wgs = s.wgs) ∧
     exec (.weirRotation hub) s = .next (s.modHub hub (fun h => { h with weir := h.weirNext })))

/-- R394, R395, R424: a kill ends the warps of its device at once, advances its generation, forgets its scope records and
marks its workgroups for retirement; one under way is not begun again; a unit acknowledges once; with every hub and every
enumerated chiplet having done so the device's packets complete killed and the kill is over. Completes: contextKill, killAck,
killDrainComplete. -/
def Obligations.ContextKill : Prop :=
  ∀ (v : Nat) (s : State), v ≤ 31 →
    let k := s.tenant v
    (k.killing = true → exec (.contextKill v) s = .next s) ∧
    (k.killing = false → (s.hub 0).awaited = [] → (s.hub 1).awaited = [] → ∃ t : State, exec (.contextKill v) s = .next t ∧
      (t.tenant v).gen = (k.gen + 1) % 65536 ∧ (t.tenant v).killing = true ∧ (t.tenant v).acks = [] ∧
      (t.tenant v).reg = List.replicate 64 0 ∧ t.recs = s.recs.filter (fun e => decide (e.2.party.vdev ≠ v)) ∧
      t.wgs = s.wgs.map (fun e => (e.1, if e.2.vdev ≠ v then e.2 else { e.2 with
        status := if e.2.status ≠ .saved ∧ e.2.status ≠ .parked ∧ e.2.status ≠ .retired then .retiring else .retired
        aborted := true, win := none, pond := [], binWait := [], barPend := [] })) ∧
      (∀ e ∈ t.warps, ∀ g ∈ s.wgs, g.1 = e.2.wg → g.2.vdev ≠ v) ∧ (t.hub 0).kill = BitVec.ofNat 64 (2 ^ 63 + v) ∧ t.mem = s.mem) ∧
    (∀ u, k.killing = false ∨ u ∈ k.acks ∨ 17 < u → exec (.killAck v u) s = .next s) ∧
    (∀ u, k.killing = true → u ∉ k.acks → u = 16 ∨ u = 17 → exec (.killAck v u) s = .next (s.setTenant v { k with acks := k.acks ++ [u] })) ∧
    (∀ u, k.killing = true → u ∉ k.acks → u < 12 → s.cores = [] → s.banks = [] → s.wgs = [] →
      exec (.killAck v u) s = .next (s.setTenant v { k with acks := k.acks ++ [u] })) ∧
    (k.killing = false ∨ (∃ u, u < 18 ∧ u ∉ k.acks ∧ (16 ≤ u ∨ s.enumerated u = true)) → exec (.killDrainComplete v) s = .next s) ∧
    (k.killing = true → (∀ u, u < 18 → u ∈ k.acks ∨ (u < 16 ∧ s.enumerated u = false)) → s.pkts = [] →
      (∀ hub, ∀ e ∈ (s.hub hub).queues, e.2.vdev = v → e.2.write ≤ e.2.read) → ∃ t : State,
      exec (.killDrainComplete v) s = .next t ∧ t.tenants = Table.put {} v { k with killing := false, advanced := false, acks := [] } s.tenants ∧
      t.mem = s.mem ∧ t.wgs = s.wgs) ∧
    (∀ (pid : Nat) (p : Packet), k.killing = true → (∀ u, u < 18 → u ∈ k.acks ∨ (u < 16 ∧ s.enumerated u = false)) →
      s.pkts = [(pid, p)] → p.vdev = v → p.completion = 0 → p.flags.testBit 1 = false →
      (∀ hub, ∀ e ∈ (s.hub hub).queues, e.2.vdev = v → e.2.write ≤ e.2.read) → ∃ t : State,
      exec (.killDrainComplete v) s = .next t ∧ t.pkts = [] ∧ (t.tenant v).killing = false ∧ t.mem = s.mem)

/-! ## Engines, blocks, the management window, power -/

/-- R196, R197, R283 to R287, R292 to R294, R334, R480: the generator forms the next element of a load stream, clipped or at its
address, or hands on the next element of a store stream, unless an earlier one overlaps it; data that return make an element ready,
unless a supplied element still overlaps it; the first operation of a queue that has not begun begins, a drain after every earlier
command that writes its tile; an element is moved in the order of its queue and counted at the operation's barrier, but not before a
`BINIT` its warp issued first; the last one delivers the follow-on, behind those that already wait, or to the context of a workgroup that
an urgent halt has stopped; the operation then arrives and leaves its queue with its locks. Completes: streamElementForm,
streamDataReturn, leatOperationStart, leatLanding, leatArrival, followOnDelivery, followOnEnterQueue. -/
def Obligations.EngineEvents : Prop :=
  (∀ (core : Nat) (s : State), (s.core core).ring = [] → exec (.streamElementForm core) s = .next s) ∧
  (∀ (core gid n : Nat) (s : State) (g : Wg) (x : Stream), (s.core core).ring = [(gid, n)] →
    Table.find gid s.wgs = some g → Table.find n g.streams = some x → g.core = core →
    let zeros : List Byte := List.replicate x.record.size 0
    let y := x.record.at x.coords x.formed
    let va := wrapI ((x.record.base : Int) + x.record.offset y * (x.record.size : Int)) 57
    let open? := x.opened = true ∧ x.fault = none ∧ x.formed < x.total ∧ (x.queue.length + 1) * x.record.size ≤ 2048 ∧ g.status = .running
    let forms := fun (e : StreamElem) (mem : Table Byte) => ∃ t : State, exec (.streamElementForm core) s = .next t ∧
      t.stream gid n = some { x with formed := x.formed + 1, queue := x.queue ++ [e] } ∧ (t.core core).ringPos = 1 ∧ t.mem = mem
    (∀ (e : Supplied) (rest : List Supplied), x.store = true → x.supplied = e :: rest → x.record.block = false →
      let behind := (∃ w, Table.find x.owner s.warps = some w ∧ w.loading e.loc e.bytes.length = true) ∨
        (∃ z ∈ g.streams, z.2.owner = x.owner ∧ ∃ f ∈ z.2.supplied, f.order < e.order ∧ overlaps f.loc f.bytes.length e.loc e.bytes.length = true)
      (behind → exec (.streamElementForm core) s = .next s) ∧
      (¬behind → ∃ t : State, exec (.streamElementForm core) s = .next t ∧
        t.stream gid n = some { x with supplied := rest } ∧ (t.core core).ringPos = 1 ∧ t.mem = s.mem ∧
        ∃ p : PendWrite, (t.core core).writes = (s.core core).writes ++ [p] ∧ p.pieces = [(e.loc, e.bytes)] ∧ p.warp = x.owner ∧
          p.carried = e.carried ∧ p.whole = e.whole ∧ p.world = g.world)) ∧
    (x.store = false → x.total ≤ x.formed ∨ 2048 < (x.queue.length + 1) * x.record.size ∨ x.fault.isSome →
      exec (.streamElementForm core) s = .next s) ∧
    (x.store = false → open? → x.record.clipped y = true → forms ⟨none, 0, 0, true, zeros, false, 0⟩ s.mem) ∧
    (∀ pa attr lv u, x.store = false → open? → x.record.clipped y = false → x.record.ind = false → x.record.block = false →
      va % x.record.size = 0 → s.xlate core false g.asid va .load gid = (.ok pa attr lv, u) → (paHome pa).isSome →
      rangeHit (s.core core).locks 2 g.asid va x.record.size false = false → watchHit (s.core core) g 2 va x.record.size .load = false →
      (x.queue.filter (fun e => !e.ready)).length < 128 → forms ⟨some pa, va, x.record.attr attr, false, zeros, false, 0⟩ u.mem)) ∧
  (∀ (gid n i loc : Nat) (s : State) (g : Wg) (x : Stream) (e : StreamElem), Table.find gid s.wgs = some g →
    Table.find n g.streams = some x →
    ((∀ y ∈ x.queue, y.ready = true) → exec (.streamDataReturn gid n) s = .next s) ∧
    ((∀ j y, j < i → x.queue[j]? = some y → y.ready = true) → x.queue[i]? = some e → e.ready = false → e.loc = some loc →
      let behind := ∃ z ∈ g.streams, z.2.owner = x.owner ∧ ∃ f ∈ z.2.supplied, overlaps f.loc f.bytes.length loc x.record.size = true
      (behind → exec (.streamDataReturn gid n) s = .next s) ∧
      (¬behind → ∃ (t : State) (y : StreamElem), exec (.streamDataReturn gid n) s = .next t ∧
        t.stream gid n = some { x with queue := listSet i y x.queue } ∧ y.ready = true ∧ y.loc = e.loc ∧ y.addr = e.addr ∧
        (isRemote loc = true ∨ ((e.attr = 1 ∨ s.cacheBanks (coreCluster g.core) = []) ∧
            Table.find (loc / 64 * 256 + g.world) (s.core g.core).copies = none) →
          (s.core g.core).writes = [] → s.unreadRing loc x.record.size = false →
          y = { e with
            ready := true, bytes := ((s.bytesAt (s.keyOf g.world) (loc / 64 * 64) 64).drop (loc % 64)).take x.record.size
            poison := s.poisonAt (loc / 64 * 64) 64, wv := (s.line (loc / 256)).wv } ∧ t.mem = s.mem)))) ∧
  (∀ (core : Nat) (s : State) (o : LeatOp) (pre rest : List LeatOp),
    let c := s.core core
    let alone := fun (other : List LeatOp) => (∀ x ∈ pre, x.started = true) ∧ o.started = false ∧ ∀ x ∈ pre ++ rest ++ other, x.id ≠ o.id
    ((∀ x ∈ c.copyQ, x.started = true) → exec (.leatOperationStart core false) s = .next s) ∧
    ((∀ x ∈ c.drainQ, x.started = true) → exec (.leatOperationStart core true) s = .next s) ∧
    (c.copyQ = pre ++ o :: rest → alone c.drainQ → o.drain = false → exec (.leatOperationStart core false) s = .next { s with
      cores := Table.put {} core { c with copyQ := pre ++ { o with started := true } :: rest } s.cores }) ∧
    (c.drainQ = pre ++ o :: rest → alone c.copyQ → o.drain = true →
      let early := ∃ m ∈ c.matQ, m.wg = o.wg ∧ m.seq < o.id ∧ m.op.writes.contains o.tile = true
      (early → exec (.leatOperationStart core true) s = .next s) ∧
      (¬early → exec (.leatOperationStart core true) s = .next { s with
        cores := Table.put {} core { c with drainQ := pre ++ { o with started := true } :: rest } s.cores }))) ∧
  (∀ (core src dst attr addr off : Nat) (s : State) (g : Wg) (o : LeatOp) (pre rest : List LeatOp),
    let c := s.core core
    let meets := ∃ e ∈ pre, e.landed < e.total ∧ ∃ j, j < e.count ∧ (rangesMeet [(dst, o.size)] (s.opTouch core e j).2 = true ∨
      rangesMeet [(src, o.size)] (s.opTouch core e j).2 = true ∨ rangesMeet [(dst, o.size)] (s.opTouch core e j).1 = true)
    let bs := s.bytesAt (s.keyOf o.world) src o.size
    c.copyQ = pre ++ o :: rest → (∀ x ∈ pre ++ rest ++ c.drainQ, x.id ≠ o.id) → c.deliveryDue = false → s.opAhead o = false →
    Table.find o.wg s.wgs = some g → o.started = true → o.stopped = false → o.bt = none → o.form = .c2p → o.next < o.count →
    o.record.ind = false → o.data = [] → o.lost = [] → s.opSides core g o o.next = (.ok src attr addr none, .ok dst 0 off none, s) →
    isBank src = true → isPriv dst = true → s.poisonAt src o.size = false → 0 < o.size → olderTag o.gen (s.gen o.vdev) = false →
    s.threadBusy core [(src, o.size), (dst, o.size)] true = false →
    (meets → ∃ t : State, exec (.leatLanding core o.id 1) s = .next t ∧ (t.core core).copyQ = c.copyQ ∧ t.mem = s.mem) ∧
    (¬meets → o.follow = none →
      ∃ u : State, exec (.leatLanding core o.id 1) s = .next (u.engineBar o.wg o.bar o.barGen o.size false false) ∧
        u.mem = (s.putAt 0 dst bs).mem ∧ u.wgs = s.wgs ∧ u.warps = s.warps ∧
        ∃ o', (u.core core).copyQ = pre ++ o' :: rest ∧ o'.id = o.id ∧ o'.next = o.next + 1 ∧ o'.landed = o.landed + o.size ∧
          o'.failed = o.failed) ∧
    (∀ m, ¬meets → o.follow = some m → o.total ≤ o.landed + o.size → g.status = .running → c.followWait = [] →
      c.matQ.length < matQueueSize (coreEland core) → Table.sortedFrom 0 s.mem = true → Table.sortedFrom 0 s.seals = true →
      (barOf ((s.putAt 0 dst bs).barWord o.wg g o.bar)).gen = o.barGen →
      ∃ (t : State) (o' : LeatOp), exec (.leatLanding core o.id 1) s = .next t ∧
        (t.core core).matQ = c.matQ ++ [{ seq := s.opSeq, wg := o.wg, op := m }] ∧
        (t.core core).copyQ = pre ++ o' :: rest ∧ o'.id = o.id ∧ o'.follow = none ∧ o'.landed = o.landed + o.size)) ∧
  (∀ (core : Nat) (s : State) (o : LeatOp), (s.core core).op o.id = some o → s.opAhead o = true →
    exec (.leatLanding core o.id 1) s = .next s ∧ exec (.leatArrival core o.id) s = .next s ∧
    exec (.followOnDelivery core o.id) s = .next s) ∧
  (∀ (core : Nat) (s : State) (g : Wg) (o : LeatOp) (m : MatOp), (s.core core).op o.id = some o → o.follow = some m →
    Table.find o.wg s.wgs = some g → o.total ≤ o.landed → o.started = true → o.stopped = false → s.opStale o = false →
    let s' := s.setOp core { o with follow := none }
    (g.status = .running → (s.core core).followWait = [] → (s.core core).matQ.length < matQueueSize (coreEland core) →
      exec (.followOnDelivery core o.id) s = .next (s'.enterMat core o.wg m)) ∧
    (g.status = .running → (s.core core).followWait ≠ [] → exec (.followOnDelivery core o.id) s = .next (s'.modCore core (fun c => { c with
      followWait := c.followWait ++ [(o.id, o.wg, m)] }))) ∧
    (g.status = .saved ∨ g.status = .halting → exec (.followOnDelivery core o.id) s = .next (s'.modWg o.wg (fun g => { g with
      followSaved := g.followSaved ++ [m] })))) ∧
  (∀ (core i wg : Nat) (s : State) (m : MatOp) (rest : List (Nat × Nat × MatOp)), (s.core core).followWait = (i, wg, m) :: rest →
    let halted := ∃ g, Table.find wg s.wgs = some g ∧ (g.status = .saved ∨ g.status = .halting)
    (¬halted → (s.core core).matQ.length < matQueueSize (coreEland core) → ∃ t : State, exec (.followOnEnterQueue core) s = .next t ∧
      (t.core core).followWait = rest ∧ (t.core core).matQ = (s.core core).matQ ++ [{ seq := s.opSeq, wg := wg, op := m }] ∧
      t.mem = s.mem) ∧
    (¬halted → matQueueSize (coreEland core) ≤ (s.core core).matQ.length → exec (.followOnEnterQueue core) s = .next s) ∧
    (halted → Table.sortedFrom 0 s.cores = true → ∃ t : State, exec (.followOnEnterQueue core) s = .next t ∧
      (t.core core).matQ = (s.core core).matQ ∧ (t.core core).followWait = rest ∧
      t.wgs = Table.modify wg (fun g => { g with followSaved := g.followSaved ++ [m] }) s.wgs ∧ t.mem = s.mem)) ∧
  (∀ (core : Nat) (s : State) (g : Wg) (o : LeatOp), Table.sortedFrom 0 s.cores = true → (s.core core).op o.id = some o →
    Table.find o.wg s.wgs = some g → g.status = .running → o.started = true → o.bt = none → o.follow = none →
    (s.core core).followWait = [] → s.opAhead o = false →
    (o.landed < o.total → exec (.leatArrival core o.id) s = .next s) ∧
    (o.total ≤ o.landed → ∃ t : State, exec (.leatArrival core o.id) s = .next t ∧ (∀ x ∈ (t.core core).ops, x.id ≠ o.id) ∧
      (∀ k ∈ (t.core core).locks, k.op ≠ o.id) ∧ t.mem = (s.engineBar o.wg o.bar o.barGen 0 true o.failed).mem))

/-- R301, R302, R430: pools and descriptors: a block given to a valid pool with room stands on top of its stack and one taken
is the top's; a full, empty or invalid pool refuses; a block out of use returns when no hold remains, and one its pool refused
when there is room; a block operation that has copied its block tells its warp; descriptors are written only while not valid,
but for clearing valid. Completes: blockCopyDone, blockReclaim, poolReturnRetry, btDescriptorWrite, poolDescriptorWrite,
poolPush, poolPop. -/
def Obligations.BlocksAndPools : Prop :=
  ∀ (hub n block word : Nat) (v : DWord) (s : State) (d : PoolDesc), Table.find n (s.hub hub).pools = some d → n < 4096 →
    let pool := fun (d : PoolDesc) (s : State) => s.modHub hub (fun h => { h with pools := Table.ins n d h.pools })
    let answer := fun (cmd res : Nat) (s : State) => s.modHub hub (fun h => { h with
      poolCommand := BitVec.ofNat 64 cmd, poolResult := BitVec.ofNat 64 res })
    let push := 2 ^ 61 + block * 2 ^ 16 + n
    let top := leNat (s.bytesAt 0 (d.stack + 8 * (d.count - 1)) 8) / 2 ^ 16 % 2 ^ 36
    (block < 2 ^ 36 → (s.hub hub).loose = [] → d.valid = true → d.count < d.capacity → exec (.poolPush hub n block) s =
      .next (answer push (2 ^ 63) (pool { d with count := d.count + 1 } (s.putAt 0 (d.stack + 8 * d.count) (leBytes 8 (block * 65536)))))) ∧
    (block < 2 ^ 36 → d.valid = false ∨ d.capacity ≤ d.count → exec (.poolPush hub n block) s = .next (answer push 0 s)) ∧
    ((s.hub hub).loose = [] → d.valid = true → 0 < d.count → exec (.poolPop hub n) s =
      .next (answer (2 ^ 62 + n) (2 ^ 63 + top * 2 ^ 16) (pool { d with count := d.count - 1 } s))) ∧
    (d.valid = false ∨ d.count = 0 → exec (.poolPop hub n) s = .next (answer (2 ^ 62 + n) 0 s)) ∧
    ((s.hub hub).loose = [] → d.valid = false → word = 0 → exec (.poolDescriptorWrite hub n word v) s = .next (pool { d with
      valid := v.getLsbD 0, tier := v.toNat / 2 % 2, stack := v.toNat / 8 % 2 ^ 49 * 8 } s)) ∧
    ((s.hub hub).loose = [] → d.valid = false → word = 1 → exec (.poolDescriptorWrite hub n word v) s = .next (pool { d with
      capacity := v.toNat / 2 ^ 32, count := v.toNat % 2 ^ 32 } s)) ∧
    ((s.hub hub).loose = [] → d.valid = true → word = 0 → v.getLsbD 0 = false →
      exec (.poolDescriptorWrite hub n word v) s = .next (pool { d with valid := false } s)) ∧
    (d.valid = true → word ≠ 0 ∨ v.getLsbD 0 = true → exec (.poolDescriptorWrite hub n word v) s = .next s) ∧
    ((s.hub hub).loose = [] → exec (.poolReturnRetry hub) s = .next s ∧ exec (.blockReclaim hub 0) s = .next s) ∧
    (∀ (b : LooseBlock) (k : Nat) (bd : BtDesc), (s.hub hub).loose = [b] → s.btTable b.table = some (k, bd) →
      (if b.tier = 1 then bd.lpool else bd.hpool) = n → d.valid = true → d.tier = b.tier → d.count < d.capacity →
      (b.stranded = true → ∃ t : State, exec (.poolReturnRetry hub) s = .next t ∧ (t.hub hub).loose = [] ∧
        Table.find n (t.hub hub).pools = some { d with count := d.count + 1 } ∧
        t.mem = (s.putAt 0 (d.stack + 8 * d.count) (leBytes 8 (b.block * 65536))).mem) ∧
      (b.stranded = false → s.blockHeld b.block = true → exec (.blockReclaim hub 0) s = .next s) ∧
      (b.stranded = false → s.blockHeld b.block = false → ∃ t : State, exec (.blockReclaim hub 0) s = .next t ∧
        (t.hub hub).loose = [] ∧ Table.find n (t.hub hub).pools = some { d with count := d.count + 1 } ∧
        t.mem = (s.putAt 0 (d.stack + 8 * d.count) (leBytes 8 (b.block * 65536))).mem)) ∧
    (∀ (t : Nat) (e : BtDesc), Table.find t (s.hub hub).btDescs = some e → t < 65536 →
      let put := fun (e : BtDesc) => s.modHub hub (fun h => { h with btDescs := Table.put {} t e h.btDescs })
      (e.valid = false → exec (.btDescriptorWrite hub t 0 v) s = .next (put { e with
        valid := v.getLsbD 63, entries := v.toNat / 2 ^ 32 % 2 ^ 25, world := v.toNat / 2 ^ 16 % 256, vdev := v.toNat % 64 })) ∧
      (e.valid = false → exec (.btDescriptorWrite hub t 1 v) s = .next (put { e with array := v.toNat / 4096 % 2 ^ 40 * 4096 })) ∧
      (e.valid = false → exec (.btDescriptorWrite hub t 2 v) s = .next (put { e with
        lpool := v.toNat / 2 ^ 32 % 4096, hpool := v.toNat % 4096 })) ∧
      (e.valid = true → word ≠ 0 ∨ v.getLsbD 63 = true → exec (.btDescriptorWrite hub t word v) s = .next s) ∧
      (e.valid = true → v.getLsbD 63 = false → e.entries = 0 → exec (.btDescriptorWrite hub t 0 v) s = .next (put { e with valid := false }))) ∧
    (∀ (core id : Nat) (o : LeatOp) (b : BtStep) (w : Warp) (g : Wg), (s.core core).op o.id = some o → o.bt = some b →
      Table.find o.warp s.warps = some w → Table.find o.wg s.wgs = some g → g.status = .running → s.warps = [(id, w)] →
      olderTag o.gen (s.gen o.vdev) = false →
      (o.started = false → exec (.blockCopyDone core o.id) s = .next s) ∧
      (o.started = true → (s.core core).copyQ = [o] → b.kind = .alloc → ∃ t : State,
        exec (.blockCopyDone core o.id) s = .next t ∧ t.warps = [(id, { w with btOp := some (some 0) })]))

/-- R4, R176, R187, R205, R348, R377, R426 to R429, R439 (the places of the link registers as log entry 33 has them): an
aligned access of 4 or 8 bytes reaches the register that stands at its offset; one that is misaligned, of another size or at
no register has no effect. Completes: bankControlWrite, tlbInvalidate, managementRegisterWrite, managementRegisterRead. -/
def Obligations.ManagementWindow : Prop :=
  ∀ (hub n : Nat) (v : DWord) (s : State),
    let write := fun (off size : Nat) => exec (.managementRegisterWrite hub off size v) s
    let read := fun (off size : Nat) => exec (.managementRegisterRead hub off size) s
    (∀ off size, size ≠ 4 ∧ size ≠ 8 ∨ off % size ≠ 0 → write off size = .next s ∧ read off size = .next s) ∧
    write 0x200 4 = .next s ∧ read 0x200 4 = .next s ∧
    write 0x2104 4 = .next (s.modHub hub (fun h => { h with
      powerLimit := BitVec.ofNat 16 (if v.toNat % 65536 ≤ 4400 then v.toNat % 65536 else 4400) })) ∧
    (n < 1024 → write (0x10000 + 32 * n) 8 = .next (s.modHub hub (fun h => { h with
      queues := Table.put {} n { s.queue hub n with ring := v.toNat % 2 ^ 57 } h.queues }))) ∧
    (n < 1024 → write (0x10000 + 32 * n + 24) 8 = exec (.doorbellWrite hub n v.toNat) s) ∧
    (n < 65536 → write (0xB00000 + 32 * n) 8 = .next (s.modHub hub (fun h => { h with
      trapDescs := Table.put {} n { Table.get {} n h.trapDescs with
        valid := v.getLsbD 63, tbase := v.toNat / 8 % 2 ^ 54 * 8 } h.trapDescs }))) ∧
    write 0x2008 8 = .next (s.modHub hub (fun h => { h with logRead := v.toNat })) ∧
    (n < 8 → read (0x1000 + 512 * n) 8 = .next (s.modHub hub (fun h => { h with
      ports := Table.put {} n { Table.get {} n h.ports with crc := 0, replays := 0 } h.ports }))) ∧
    read 0x4000 8 = .next s ∧
    (∀ chip cluster bank value, 12 ≤ chip ∨ 8 ≤ cluster ∨ kindBanks (chipKind chip) ≤ bank →
      exec (.bankControlWrite chip cluster bank value) s = .next s) ∧
    (∀ (chip cluster bank : Nat) (value : Word), chip < 12 → cluster < 8 → bank < kindBanks (chipKind chip) →
      let b := (chip * 8 + cluster) * 256 + bank
      let old := s.bank b
      let world : Byte := BitVec.ofNat 8 (value.toNat / 65536)
      let vdev : BitVec 6 := BitVec.ofNat 6 (value.toNat / 256)
      let core : BitVec 2 := BitVec.ofNat 2 (value.toNat / 2 ^ 26)
      (old.switching = [] → old.mode = value.setWidth 2 → old.world = world → old.vdev = vdev → old.mode ≠ 3 →
        exec (.bankControlWrite chip cluster bank value) s = .next (s.setBank b { old with core := core })) ∧
      (old.mode ≠ 0 → value.setWidth 2 ≠ (0 : BitVec 2) → value.setWidth 2 ≠ old.mode → old.switching = [] → s.bankWaits b = false → s.bankReady b = true →
        ∃ t : State, exec (.bankControlWrite chip cluster bank value) s = .next t ∧
          t.bank b = ⟨value.setWidth 2, core, world, vdev, [], 0, []⟩ ∧
          t.mem = s.mem.filter (fun e => decide (e.1 < 2 ^ 56 + b * 2 ^ 17) || decide (2 ^ 56 + b * 2 ^ 17 + 2 ^ 17 ≤ e.1)) ∧
          t.warps = s.warps ∧ t.wgs = s.wgs)) ∧
    (∀ scope asid va, ∃ t : State, exec (.tlbInvalidate hub scope asid va) s = .next t ∧ t.mem = s.mem ∧ t.warps = s.warps ∧
      (scope = 3 → t.cores = s.cores) ∧
      (scope = 2 → t.cores = s.cores.map (fun e => (e.1, { e.2 with dtlb := [], dwalk := [], ftlb := [], fwalk := [] }))) ∧
      (scope = 1 → t.cores = s.cores.map (fun e => (e.1, { e.2 with
        dtlb := e.2.dtlb.filter (fun x => decide (x.asid ≠ asid)), dwalk := e.2.dwalk.filter (fun x => decide (x.asid ≠ asid))
        ftlb := e.2.ftlb.filter (fun x => decide (x.asid ≠ asid)), fwalk := e.2.fwalk.filter (fun x => decide (x.asid ≠ asid)) }))))

/-- R413, R429, R446 to R448, R461, R463, Table 14.8: limits are clamped; a core without warps enters C1 and leaves it when a
warp has come, a hart that waits when its wait ends; a power command wakes a core or a chiplet or puts an idle core, or a
chiplet whose shadow storage holds nothing that has not been spilled, into C2, and one that breaks the entry condition has no
effect; with nothing under way the module enters S3, losing caches, directory, records, queues, partitions and log but keeping packets and
tenants (what of it stays is the model's reading, log entry 31), and
wakes with the ports training of each hub that has booted, every world held and the next epoch. R457, R461 and the reset columns of the
tables (what the spec states no reset value for is the model's choice, log entry 3): a module reset leaves no warp, workgroup, packet, world,
partition or cached line, in the directory, the cores, the cluster caches or the last-level cache, and raises the epoch; with every boot
image of a hub verified its ports train, and with any of them not verified its ports stay down and it logs class 3 (that hub 0 boots before
hub 1, log entry 32).
Completes: powerWakeP0, powerEnterC2, powerLimitWrite, temperatureLimitWrite, c1Entry, c1Wake, deepSleep, s3Wake, moduleReset.
-/
def Obligations.PowerAndReset : Prop :=
  (∀ (hub port core : Nat) (value : Word) (s : State),
     let chip := portChip hub port
     let c := chip * 32 + core
     exec (.powerLimitWrite hub value) s = .next (s.modHub hub (fun h => { h with
       powerLimit := BitVec.ofNat 16 (if value.toNat % 65536 ≤ 4400 then value.toNat % 65536 else 4400) })) ∧
     exec (.temperatureLimitWrite hub value) s = .next (s.modHub hub (fun h => { h with
       tempLimit := BitVec.ofNat 8 (if value.toNat % 256 ≤ 105 then value.toNat % 256 else 105) })) ∧
     (core < 512 →
       (s.warps = [] → (s.core core).power = .p0 → exec (.c1Entry core) s = .next (s.setCore core { s.core core with power := .c1 })) ∧
       ((s.core core).power = .c2 ∨ s.noWarps core = false → exec (.c1Entry core) s = .next s) ∧
       ((s.core core).power = .c1 → s.noWarps core = false →
         exec (.c1Wake core) s = .next (s.setCore core { s.core core with power := .p0 })) ∧
       ((s.core core).power ≠ .c1 ∨ s.warps = [] → exec (.c1Wake core) s = .next s)) ∧
     (∀ n : Nat, let h := s.hartOf n
       (h.power = .p0 → h.waiting = true → h.pending = [] → exec (.c1Entry (512 + n)) s = .next (s.setHart n { h with power := .c1 })) ∧
       (h.waiting = false → exec (.c1Entry (512 + n)) s = .next s) ∧
       (h.power = .c1 → h.waiting = false ∨ h.pending ≠ [] → exec (.c1Wake (512 + n)) s = .next (s.setHart n { h with power := .p0 })) ∧
       (h.power ≠ .c1 → exec (.c1Wake (512 + n)) s = .next s)) ∧
     (core ≠ 255 → core < kindCores (chipKind chip) →
       exec (.powerWakeP0 hub port core) s = .next (s.setCore c { s.core c with power := .p0 }) ∧
       (s.coreIdle c = false → exec (.powerEnterC2 hub port core) s = .next s) ∧
       (s.coreIdle c = true → exec (.powerEnterC2 hub port core) s = .next (s.setCore c { s.core c with
         dtlb := [], dwalk := [], ftlb := [], fwalk := [], copies := [], power := .c2 }))) ∧
     exec (.powerWakeP0 hub port 255) s = .next (s.setChip chip { s.chip chip with power := .p0 }) ∧
     ((∃ c ∈ chipCores chip, s.coreIdle c = false) ∨ s.shadowClear chip = false → exec (.powerEnterC2 hub port 255) s = .next s) ∧
     ((∀ c ∈ chipCores chip, s.coreIdle c = true) → s.shadowClear chip = true → ∃ t : State, exec (.powerEnterC2 hub port 255) s = .next t ∧
       (t.chip chip).power = .c2 ∧ t.warps = s.warps ∧ t.wgs = s.wgs ∧
       (∀ e ∈ t.clines, e.1 / 512 / 256 / 8 ≠ chip)) ∧
     (hub ≠ 0 ∨ s.asleep = true → exec (.deepSleep hub) s = .next s) ∧
     (s.asleep = false → s.wgs = [] → s.cores = [] → ∃ t : State, exec (.deepSleep 0) s = .next t ∧ t.asleep = true ∧ t.dir = [] ∧
       t.recs = [] ∧ t.banks = [] ∧ t.clines = [] ∧ t.llc = [] ∧ t.harts = [] ∧ t.engine.wrapped = true ∧ t.worlds = s.worlds ∧
       t.pkts = s.pkts ∧ t.tenants = s.tenants ∧ t.partsOwner = [] ∧ (∀ e ∈ t.chips, e.2.power = .s3) ∧
       (∀ h, (t.hub h).queues = [] ∧ (t.hub h).log = [] ∧ (t.hub h).conns = [] ∧ ∀ p, (t.port h p).inc = (s.port h p).inc)) ∧
     (s.asleep = false → exec .s3Wake s = .next s) ∧
     (s.asleep = true → ∃ t : State, exec .s3Wake s = .next t ∧ t.asleep = false ∧
       t.worlds = s.worlds.map (fun e => (e.1, { e.2 with held := true })) ∧ t.engine = { s.engine with
         wrapped := false, epoch := s.engine.epoch + 1 } ∧ t.mem = s.mem ∧
       (∀ h p, h < 2 → p < 8 → (s.hub h).bootFailed = false → (t.port h p).state = .training) ∧
       (∀ h p, (s.hub h).bootFailed = true → t.port h p = s.port h p))) ∧
  (∀ (s : State), ∃ t : State, exec .moduleReset s = .next t ∧ t.warps = [] ∧ t.wgs = [] ∧ t.pkts = [] ∧ t.worlds = [] ∧
     t.partsOwner = [] ∧ t.recs = [] ∧ t.dir = [] ∧ t.harts = [] ∧ t.engine.epoch = s.engine.epoch + 1 ∧ t.engine.locked = false ∧
     t.engine.wrapped = false ∧ (∀ v, t.gen v = 0) ∧
     (∀ e ∈ s.mem, e.1 < 2 ^ 56 → e ∈ t.mem) ∧ (∀ e ∈ t.mem, e ∈ s.mem) ∧
     t.cores = [] ∧ t.clines = [] ∧ t.ccopies = [] ∧ t.llc = [] ∧ t.banks = [] ∧
     (∀ h, h < 2 →
       ((∀ r, r = 1 ∨ r = 3 ∨ r = 4 ∨ r = 5 → Config.bootVerified h r = true) →
         (t.hub h).bootFailed = false ∧ ∀ p, p < 8 → (t.port h p).state = .training) ∧
       (∀ r, r = 1 ∨ r = 3 ∨ r = 4 ∨ r = 5 → Config.bootVerified h r = false →
         (t.hub h).bootFailed = true ∧ (t.hub h).log ≠ [] ∧ (∀ e ∈ (t.hub h).log, e.2.cls = 3) ∧ ∀ p, (t.port h p).state = .down)))

/-! ## Ports, links, loops, remote requests, connections, the security engine -/

/-- R431 to R436, R457, Table 14.4 (queue and register bases are free values; that a reset begins the chiplet's cycle count anew and that
isolation leaves contexts spilled to HBM4, log entry 29): a training port with a good
capability entry is assigned with its incarnation raised and its enumeration measured, and with a bad one refused; the states
of a port change only along the table's edges, and the ports of a hub whose boot failed stay down. Isolation ends every holding of the
chiplet, poisons the four sectors of each line it held Modified or Owned and no other, logs each such line once, drops the records
of its parties, its engine operations, range locks, lines and banks; its resident workgroups and those in its shadow storage are lost
with their warps and return to their slot unplaced, or with Foulo's command and a clear recovery flag count as lost and make their packet
complete TERM; other cores and memory stay. Completes: linkTrained, trainingFail, chipletAck, isolateCommand, linkDown, chipletFatalError, isolation,
portResetCommand. -/
def Obligations.Ports : Prop :=
  ∀ (hub port : Nat) (cap : List Byte) (s : State), hub < 2 → port < 8 →
    let p := s.port hub port
    let chip := portChip hub port
    let good := cap.length = 32 ∧ fieldAt cap 0 1 = chipKind chip ∧ fieldAt cap 28 4 = crc32 (cap.take 28)
    let set := fun (p' : Port) => s.modHub hub (fun h => { h with ports := Table.put {} port p' h.ports })
    (p.state ≠ .training → exec (.linkTrained hub port cap) s = .next s ∧ exec (.trainingFail hub port) s = .next s) ∧
    (p.state = .training → ¬good → exec (.linkTrained hub port cap) s = .next (set { p with state := .refused, cap := cap, up := true })) ∧
    (p.state = .training → good → ∃ t : State, exec (.linkTrained hub port cap) s = .next t ∧ (t.port hub port).state = .assigned ∧
      (t.port hub port).cap = cap ∧ (t.port hub port).up = true ∧ (t.port hub port).inc = (p.inc + 1) % 65536 ∧
      (t.port hub port).cls = p.demote.getD (if chipKind chip = 3 ∨ chipKind chip = 4 then 1 else 0) ∧
      (t.port hub port).qcount = fieldAt cap 24 2 ∧ t.mem = s.mem ∧
      t.engine.platform = listSet 6 (Config.sha512 (s.engine.platform.getD 6 [] ++ Config.sha512 (cap ++ leBytes 2 ((p.inc + 1) % 65536))))
        s.engine.platform) ∧
    (p.state = .training → p.attempts < 2 → exec (.trainingFail hub port) s = .next (set { p with attempts := p.attempts + 1 })) ∧
    (p.state = .training → 2 ≤ p.attempts → exec (.trainingFail hub port) s = .next (set { p with state := .down, attempts := 0 })) ∧
    (p.state = .assigned → exec (.chipletAck hub port) s = .next (set { p with state := .running })) ∧
    (p.state ≠ .assigned → exec (.chipletAck hub port) s = .next s) ∧
    (p.state = .running → exec (.isolateCommand hub port) s = .next (set { p with state := .isolating, command := true }) ∧
      (∃ t : State, exec (.linkDown hub port) s = .next t ∧ t.port hub port = { p with state := .isolating, command := false, up := false }) ∧
      (∃ t : State, exec (.chipletFatalError hub port) s = .next t ∧ t.port hub port = { p with state := .isolating, command := false } ∧
        ((s.hub hub).logWrite - (s.hub hub).logRead < 4096 → (t.hub hub).logWrite = (s.hub hub).logWrite + 1))) ∧
    (p.state ≠ .running → exec (.isolateCommand hub port) s = .next s ∧ exec (.chipletFatalError hub port) s = .next s) ∧
    (p.state = .isolated ∨ p.state = .refused ∨ p.state = .down → (s.hub hub).bootFailed = false →
      ∃ t : State, exec (.portResetCommand hub port) s = .next t ∧
      (t.port hub port).state = .training ∧ (t.port hub port).resets = p.resets + 1 ∧ (t.port hub port).inc = p.inc ∧
      (t.port hub port).narrow = 0 ∧ (t.port hub port).suspended = 0 ∧ (t.chip chip).cyc = 0 ∧ t.mem = s.mem) ∧
    (p.state = .training ∨ p.state = .assigned ∨ p.state = .running ∨ p.state = .isolating ∨ (s.hub hub).bootFailed = true →
      exec (.portResetCommand hub port) s = .next s) ∧
    (p.state ≠ .isolating → exec (.isolation hub port) s = .next s) ∧
    (p.state = .isolating → ∃ t : State,
      let holds := fun (line : Nat) (dirty : Bool) => ∃ e ∈ s.dir, e.1 / 128 = line ∧ e.1 % 128 / 8 = chip ∧
        (dirty = true → e.2 = .modified ∨ e.2 = .owned)
      let lost := fun (gid : Nat) (g : Wg) => Table.find gid s.wgs = some g ∧ coreChip g.core = chip ∧
        ∀ im, g.image = some im → im.out = none
      exec (.isolation hub port) s = .next t ∧ (t.port hub port).state = .isolated ∧ (t.port hub port).up = false ∧
      (∀ e ∈ t.dir, e.1 % 128 / 8 ≠ chip) ∧
      (∀ line i, line < 2 ^ 44 → i < 4 → holds line true → Table.get false (4 * line + i) t.poisoned = true) ∧
      (∀ e ∈ t.poisoned, e ∈ s.poisoned ∨ holds (e.1 / 4) true) ∧
      (∀ k st, s.dir = [(k, st)] → holds (k / 128) true → (s.hub hub).logWrite - (s.hub hub).logRead < 4096 →
        (t.hub hub).logWrite = (s.hub hub).logWrite + 1) ∧
      (∀ e ∈ t.recs, e ∈ s.recs ∧ ¬(e.2.party.chip = chip ∧ e.2.party.away = none)) ∧
      (s.dir = [] → s.cores = [] → t.recs = s.recs.filter (fun e => !(decide (e.2.party.chip = chip) && e.2.party.away.isNone))) ∧
      (∀ e ∈ t.cores, coreChip e.1 = chip → e.2.copyQ = [] ∧ e.2.drainQ = [] ∧ e.2.matQ = [] ∧ e.2.locks = [] ∧ e.2.writes = [] ∧
        e.2.copies = []) ∧ (t.chip chip).cyc = 0 ∧
      (∀ e ∈ t.clines, e.1 / 512 / 256 / 8 ≠ chip) ∧ (∀ e ∈ t.banks, e.1 / 256 / 8 ≠ chip) ∧
      (Table.sortedFrom 0 s.wgs = true → (∀ e ∈ s.cores, coreChip e.1 ≠ chip → e ∈ t.cores) ∧
        ∀ gid g, lost gid g → Table.find gid t.wgs = none ∧ ∀ e ∈ t.warps, e.2.wg ≠ gid) ∧
      (∀ gid g i, s.wgs = [(gid, g)] → lost gid g → g.status ≠ .retired → s.slotFor g.hub g.pkt g.lin = some i →
        let x := s.slot g.hub i
        let y := t.slot g.hub i
        (p.command = false ∨ x.recover = true → g.lin ∈ y.again ∧ y.state = x.state ∧ y.saved = x.saved ∧ y.lost = x.lost) ∧
        (p.command = true → x.recover = false → y.lost = x.lost + 1 ∧ y.again = x.again ∧ y.saved = x.saved ∧
          ∀ k, Table.find g.pkt s.pkts = some k → ∃ k', Table.find g.pkt t.pkts = some k' ∧ k'.lost = k.lost + 1 ∧ k'.term = true)) ∧
      (∀ e ∈ t.harts, 12 + e.1 / 40 ≠ chip) ∧
      ((∀ e ∈ s.cores, coreChip e.1 = chip → ∀ o ∈ e.2.copyQ ++ e.2.drainQ, o.bt = none) →
        (∀ e ∈ s.mem, e.1 < 2 ^ 52 → e ∈ t.mem) ∧ ∀ e ∈ t.mem, e ∈ s.mem) ∧
      (∀ q n, Table.find q (s.hub hub).queues ≠ none → (s.queue hub q).bound = some n → n < 80 → 12 + n / 40 = chip → (t.queue hub q).deaf = true))

/-- R438, R439, R444, R445, R478, Tables 14.6a and 14.7 (millisecond windows, temperature and power are free values, log entry
30): a good flit next in sequence is acknowledged and, unless its incarnation is an older one (R437), passed once; a bad one
counts as a failure and discards what follows until a replay, which waits for any equalisation pass and sends the failed flit and every
later one again; 64 replays of one flit isolate the port; a module that narrows makes a class-6 log entry, its link status says so, and
unacknowledged flits wait for their replay; a failed pass narrows its module; the loops move their settings within their bounds, Foulo's
where it has narrowed them, and count their triggers; poison found in a bank sector stands where the sector's bytes stand. Completes: flitReceive, flitReplay, equalisationPass, equalisationEnd, laneFallback,
droopResponse, frequencyStep, patrolScrub, scrubPeriodAdjust. -/
def Obligations.LinksAndLoops : Prop :=
  ∀ (hub port m seq : Nat) (msg : LinkMsg) (s : State) (p : Port), s.hubs = [(hub, { s.hub hub with ports := [(port, p)] })] → hub < 2 → port < 8 →
    let after := fun (t : State) => t.port hub port
    let count := fun (x : BitVec 16) (n : Nat) => BitVec.ofNat 16 (if x.toNat + n ≤ 65535 then x.toNat + n else 65535)
    let clamp := fun (b : Int × Int) (x : Int) => if x < b.1 then b.1 else if b.2 < x then b.2 else x
    let trigger := fun (r : LoopReg) => BitVec.ofNat 14 (if r.events.toNat + 1 ≤ 16383 then r.events.toNat + 1 else 16383)
    (p.up = false → exec (.flitReceive hub port true seq true msg) s = .next s ∧ exec (.flitReplay hub port true) s = .next s) ∧
    (p.up = true → p.toChip.buffer = [] → p.toChip.sent = seq → p.toChip.next = seq → p.toChip.expect = seq →
      p.retrain.getLsbD (seq % p.modules port) = false →
      (p.toChip.discarding = false → ∃ t : State, exec (.flitReceive hub port true seq true msg) s = .next t ∧ after t = { p with
        toChip := { sent := seq + 1, next := seq + 1, expect := seq + 1, buffer := [], discarding := false, replays := 0 }
        passed := if olderTag msg.inc p.inc then p.passed else p.passed ++ [msg.body] }) ∧
      (∃ t : State, exec (.flitReceive hub port true seq false msg) s = .next t ∧ (after t).passed = p.passed ∧
        (after t).crc = count p.crc 1 ∧ (after t).toChip = { p.toChip with
          sent := seq + 1, next := seq + 1, buffer := [⟨seq, msg⟩], discarding := true })) ∧
    (p.up = true → p.toChip.discarding = true → p.toChip.buffer.length < 128 → p.toChip.sent = seq → p.toChip.next = seq →
      p.retrain.getLsbD (seq % p.modules port) = false → ∃ t : State, exec (.flitReceive hub port true seq true msg) s = .next t ∧
      after t = { p with toChip := { p.toChip with sent := seq + 1, next := seq + 1, buffer := p.toChip.buffer ++ [⟨seq, msg⟩] } }) ∧
    (∀ e rest, p.up = true → p.toChip.buffer = e :: rest → e.seq = seq → p.toChip.discarding = false → p.toChip.next = seq →
      p.toChip.expect = seq → p.toChip.sent ≠ seq → ∃ t : State, exec (.flitReceive hub port true seq true msg) s = .next t ∧
      (after t).passed = (if olderTag e.msg.inc p.inc then p.passed else p.passed ++ [e.msg.body]) ∧ (after t).toChip.next = seq + 1 ∧
      (after t).toChip.expect = seq + 1 ∧ (after t).toChip.buffer = rest.filter (fun x => decide (seq < x.seq))) ∧
    (seq ≠ p.toChip.next → exec (.flitReceive hub port true seq true msg) s = .next s) ∧
    (p.up = true → p.toChip.discarding = true → p.toChip.buffer ≠ [] → p.retrain = 0 →
      (p.toChip.replays < 64 → ∃ t : State, exec (.flitReplay hub port true) s = .next t ∧ (after t) = { p with
        toChip := { p.toChip with replays := p.toChip.replays + 1, discarding := false, next := p.toChip.expect }
        replays := count p.replays p.toChip.buffer.length }) ∧
      (64 ≤ p.toChip.replays → p.state = .running → ∃ t : State, exec (.flitReplay hub port true) s = .next t ∧
        (after t).state = .isolating)) ∧
    (p.retrain ≠ 0 → exec (.flitReplay hub port true) s = .next s) ∧
    (p.up = true → p.narrow.getLsbD m = false → m < p.modules port → m < 16 → ∃ t : State, exec (.laneFallback hub port m) s = .next t ∧
      (after t).narrow = p.narrow ||| BitVec.ofNat 16 (2 ^ m) ∧ (after t).up = true ∧ t.mem = s.mem ∧
      (p.toChip.buffer ≠ [] → (after t).toChip.discarding = true) ∧ (p.toHub.buffer ≠ [] → (after t).toHub.discarding = true) ∧
      ((s.hub hub).logWrite - (s.hub hub).logRead < 4096 → (t.hub hub).logWrite = (s.hub hub).logWrite + 1 ∧
        ∃ e, Table.find ((s.hub hub).logWrite % 4096) (t.hub hub).log = some e ∧ e.cls = 6)) ∧
    (p.up = true → p.narrow.getLsbD m = true → exec (.laneFallback hub port m) s = .next s) ∧
    (p.up = true → m < p.modules port → m < 16 → p.retrain.getLsbD m = false → 4 < Table.get 0 m p.crcWindow →
      let r := s.loopReg hub (18 + 16 * port + m)
      ∃ t : State, exec (.equalisationPass hub port m) s = .next t ∧ t.mem = s.mem ∧
        (t.loopReg hub (18 + 16 * port + m)).events = trigger r ∧
        (((after t).retrain = p.retrain ||| BitVec.ofNat 16 (2 ^ m) ∧ (t.loopReg hub (18 + 16 * port + m)).active = true) ∨
          (r.setting ≠ 0 ∧ (after t).retrain = p.retrain ∧ (t.loopReg hub (18 + 16 * port + m)).bound = true))) ∧
    (Table.get 0 m p.crcWindow ≤ 4 → exec (.equalisationPass hub port m) s = .next s) ∧
    (p.retrain.getLsbD m = true → m < 16 → ∃ t : State, exec (.equalisationEnd hub port m true) s = .next t ∧
      (after t).retrain = p.retrain &&& ~~~(BitVec.ofNat 16 (2 ^ m)) ∧ (t.loopReg hub (18 + 16 * port + m)).active = false ∧
      (after t).narrow = p.narrow ∧ t.mem = s.mem) ∧
    (p.retrain.getLsbD m = true → m < 16 → m < p.modules port → ∃ t : State, exec (.equalisationEnd hub port m false) s = .next t ∧
      (after t).retrain = p.retrain &&& ~~~(BitVec.ofNat 16 (2 ^ m)) ∧ (t.loopReg hub (18 + 16 * port + m)).active = false ∧
      (after t).narrow = p.narrow ||| BitVec.ofNat 16 (2 ^ m) ∧ t.mem = s.mem) ∧
    (p.retrain.getLsbD m = false → exec (.equalisationEnd hub port m true) s = .next s) ∧
    (∀ (loc : Nat) (mv : Int), loc < 18 →
      let i := if loc < 16 then chipPort loc else 8
      let h := if loc < 16 then chipHub loc else loc - 16
      let r := s.loopReg h i
      let v := r.setting.toInt + mv
      ∃ t : State, exec (.droopResponse loc mv) s = .next t ∧
        (t.loopReg h i).setting = BitVec.ofInt 16 (clamp (r.limits.getD (-30, 40)) v) ∧
        (t.loopReg h i).events = trigger r ∧ t.mem = s.mem) ∧
    (∀ loc : Nat, loc < 18 → ∃ (t : State) (v : Int),
      let i := if loc < 16 then 9 + chipPort loc else 17
      let h := if loc < 16 then chipHub loc else loc - 16
      let old := (s.loopReg h i).setting.toInt
      let b := (s.loopReg h i).limits.getD (8, 16)
      exec (.frequencyStep loc) s = .next t ∧ (t.loopReg h i).setting = BitVec.ofInt 16 v ∧
        ((v = clamp b (old - 1) ∧ (t.loopReg h i).events = trigger (s.loopReg h i)) ∨
          (v = clamp b (old + 1) ∧ (t.loopReg h i).events = (s.loopReg h i).events)) ∧ t.mem = s.mem) ∧
    (∀ (kind : Bool) (n : Nat),
      let r := s.loopReg hub (if kind then 147 else 146)
      let b := r.limits.getD (240, 2880)
      (0 < n → n ≤ 16 → exec (.scrubPeriodAdjust hub kind n) s = .next s) ∧
      (16 < n → ∃ t : State, exec (.scrubPeriodAdjust hub kind n) s = .next t ∧ (t.loopReg hub (if kind then 147 else 146)).setting =
        BitVec.ofInt 16 (clamp b (r.setting.toInt / 2)) ∧ (t.loopReg hub (if kind then 147 else 146)).events = trigger r) ∧
      (n = 0 → ∃ t : State, exec (.scrubPeriodAdjust hub kind n) s = .next t ∧ (t.loopReg hub (if kind then 147 else 146)).setting =
        BitVec.ofInt 16 (clamp b (2 * r.setting.toInt)) ∧ (t.loopReg hub (if kind then 147 else 146)).events = trigger r)) ∧
    (∀ sector : Nat, exec (.patrolScrub hub sector .clean) s = .next s ∧
      (∃ t : State, exec (.patrolScrub hub sector .corrected) s = .next t ∧ t.poisoned = s.poisoned ∧ t.mem = s.mem) ∧
      (∀ cl c x, s.bankSector (64 * sector) = some (cl, c, x) →
        let dirty := Table.find (c.line * 128 + cl) s.dir = some .modified ∨ Table.find (c.line * 128 + cl) s.dir = some .owned
        let place := (64 * sector - 2 ^ 56) / 2 ^ 17 * 512 + 64 * sector % 2 ^ 17 / 256
        ∃ t : State, exec (.patrolScrub hub sector .uncorrectable) s = .next t ∧ t.mem = s.mem ∧
          (dirty → Table.find x t.poisoned = some true) ∧
          (¬dirty → t.poisoned = s.poisoned ∧ ∃ y, Table.find place t.clines = some y ∧ y.bad.getLsbD (x % 4) = true)) ∧
      (s.bankSector (64 * sector) = none → ∃ t : State, exec (.patrolScrub hub sector .uncorrectable) s = .next t ∧ Table.find sector t.poisoned = some true ∧ t.mem = s.mem))

/-- R217, R236 to R238, R250, R440, R452, Table 14.6a (how the party of another module is told apart: log entry 28): a request
of another module is executed once at its home: its operation's bytes are written and what stood there is the answer, kept so
that a duplicate changes nothing; a synchronising one that its line's record does not admit is answered as a scope failure,
and an atomic that finds poison is not performed; a request at no memory, of another size or misaligned has no effect. A
response that never comes arrives as poison: the register's lane reads 0 and is marked. Completes: ringResponseTimeout,
remoteRequest, remoteRouteTimeout. -/
def Obligations.RemoteAccesses : Prop :=
  (∀ (m seq : Nat) (req : RemoteReq) (s : State),
    let key := m * 2 ^ 64 + seq
    let n := req.size
    let line := req.pa / 256
    let plain := req.op = .load ∨ req.op = .store
    let rmw := (∃ op, req.op = .atom op) ∨ ∃ op, req.op = .red op
    let fits := (localHome req.pa).isNone = false ∧ (n = 4 ∨ n = 8 ∨ (plain ∧ (n = 1 ∨ n = 2))) ∧ req.pa % n = 0
    let old := leNat (s.bytesAt 0 req.pa n)
    let d := req.data.toNat % 2 ^ (8 * n)
    let cmp := req.compare.toNat % 2 ^ (8 * n)
    let answers := fun (kind value : Nat) (mem : List Host.Cell) => ∃ t : State, exec (.remoteRequest m seq req) s = .next t ∧
      Table.find key t.remote = some (kind, BitVec.ofNat 64 value) ∧ t.mem = mem ∧ t.warps = s.warps ∧ t.wgs = s.wgs
    let wrote := fun (x : Nat) => (s.putPieces 0 [(req.pa, leBytes n x)]).mem
    ((Table.find key s.remote).isSome = true ∨ ¬fits → exec (.remoteRequest m seq req) s = .next s) ∧
    (Table.find key s.remote = none → fits → plain ∨ Table.find line s.recs = none → s.poisonAt req.pa n = false →
      (req.op = .load ∨ req.op = .ldaq → answers 0 old s.mem) ∧ (req.op = .store ∨ req.op = .strl → answers 0 old (wrote d)) ∧
      ∀ op, req.op = .atom op ∨ req.op = .red op →
        (op = .add → answers 0 old (wrote ((old + d) % 2 ^ (8 * n)))) ∧ (op = .and → answers 0 old (wrote (old &&& d))) ∧
        (op = .or → answers 0 old (wrote (old ||| d))) ∧ (op = .xor → answers 0 old (wrote (old ^^^ d))) ∧
        (op = .exch → answers 0 old (wrote d)) ∧ (op = .minU → answers 0 old (wrote (if old ≤ d then old else d))) ∧
        (op = .maxU → answers 0 old (wrote (if old ≤ d then d else old))) ∧
        (op = .inc → answers 0 old (wrote (if d ≤ old then 0 else old + 1))) ∧
        (op = .cas → answers 0 old (if old = cmp then wrote d else s.mem))) ∧
    (Table.find key s.remote = none → fits → plain ∨ Table.find line s.recs = none → s.poisonAt req.pa n = true →
      (rmw → answers 1 0 s.mem) ∧ (req.op = .load ∨ req.op = .ldaq → answers 1 0 s.mem)) ∧
    (∀ r, Table.find key s.remote = none → fits → ¬plain → Table.find line s.recs = some r →
      inclusive r req.scope (RemoteReq.party req m) = false → answers 2 (partyDetail r) s.mem)) ∧
  (∀ (id : Nat) (s : State) (w : Warp) (g : Wg) (l : LaneLoad) (p : Pending) (r : Nat), Table.find id s.warps = some w →
    Table.find w.wg s.wgs = some g → w.pend = [p] → p.loads = [l] → p.token = none → l.slots = [r] → l.value = none → l.lane < 32 →
    let bit : Mask := BitVec.ofNat 32 (2 ^ l.lane)
    let marked := fun (t : State) => ∃ w', Table.find id t.warps = some w' ∧ w'.pend = [] ∧ w'.reg r =
      ⟨.general, listSet l.lane 0 (w.reg r).vals, (w.reg r).poison ||| bit⟩ ∧ w'.pc = w.pc
    (∀ h, isPhys l.loc = true → isRemote l.loc = false → paHome l.loc = some h → h ≠ coreHub g.core →
      ∃ t : State, exec (.ringResponseTimeout id 0) s = .next t ∧ marked t ∧ t.mem = s.mem ∧ t.hubs = s.hubs) ∧
    (isPhys l.loc = false → exec (.ringResponseTimeout id 0) s = .next s ∧ exec (.remoteRouteTimeout id 0) s = .next s) ∧
    (isRemote l.loc = true → (s.hub (coreHub g.core)).logWrite - (s.hub (coreHub g.core)).logRead < 4096 → ∃ t : State,
      exec (.remoteRouteTimeout id 0) s = .next t ∧ marked t ∧ t.mem = s.mem ∧
      (t.hub (coreHub g.core)).logWrite = (s.hub (coreHub g.core)).logWrite + 1))

/-- R417 to R424 (log entry 27): a descriptor that breaks a rule is refused, with no connection and the state event 0xF100 on
its notify core; a good one opens its connection with the state word 1. A send line that moves back or overruns its ring stops
the connection with an overrun, and so does a receive head out of its bounds: bits 4 and 5 of the state word, told by a state
event; otherwise at most the bytes the peer allows are read from the ring and sent. The part of a segment that comes in order
within the window stands in the ring, at the byte the receive tail names, and raises the receive tail, and no other byte but
those of the control block changes; a segment outside the window changes nothing but the receive head read. An acknowledgement
raises the send head and its word of the control block; bytes not acknowledged are read and sent again. A connection that does not stand, has stopped or is of an older generation does nothing. Completes:
connectionOpen, sendLineNotify, segmentReceive, ackReceive, retransmission, connectionClose. -/
def Obligations.Connections : Prop :=
  let tells := fun (s t : State) (saiga n : Nat) (c : Conn) (state : Nat) =>
    let k := c.notify / 128 % 2 * 40 + 8 + c.notify % 32
    (s.kuduGone (k / 40) = true → t.harts = s.harts) ∧
    (s.kuduGone (k / 40) = false → (s.hartOf k).events.length < 256 → (t.hartOf k).events = (s.hartOf k).events ++
      [(BitVec.ofNat 64 (5 * 2 ^ 60 + c.vdev % 64 * 2 ^ 54 + (saiga * 2 ^ 15 + n) % 2 ^ 16 * 2 ^ 32 + state % 2 ^ 32), c.gen)])
  (∀ (saiga n k seq : Nat) (data : List Byte) (s : State),
    ((s.conn saiga n = none ∨ ∃ c, s.conn saiga n = some c ∧ (c.stopped = true ∨ olderTag c.gen (s.gen c.vdev) = true)) →
      exec (.sendLineNotify saiga n k) s = .next s ∧ exec (.segmentReceive saiga n seq data) s = .next s ∧
      exec (.ackReceive saiga n k) s = .next s ∧ exec (.retransmission saiga n) s = .next s)) ∧
  (∀ (saiga n : Nat) (d : List Byte) (s : State),
    let c : Conn := {
      asid := fieldAt d 0 2, vdev := fieldAt d 2 1, world := fieldAt d 3 1, gen := fieldAt d 4 2,
      notify := fieldAt d 6 1, sendSize := fieldAt d 7 1 % 16, recvSize := fieldAt d 7 1 / 16 % 16, ctl := fieldAt d 8 8,
      send := fieldAt d 16 8, recv := fieldAt d 24 8 }
    let bad := 5 < c.sendSize ∨ 5 < c.recvSize ∨ 32 < c.vdev ∨ (∃ b ∈ d.drop 32, b ≠ 0) ∨ c.ctl % 1024 ≠ 0 ∨
      c.send % 2 ^ (12 + c.sendSize) ≠ 0 ∨ c.recv % 2 ^ (12 + c.recvSize) ≠ 0
    (32768 ≤ n ∨ 1 < saiga ∨ (s.conn saiga n).isSome = true → exec (.connectionOpen saiga n d) s = .next s) ∧
    (n < 32768 → saiga ≤ 1 → s.conn saiga n = none → bad → ∃ t : State, exec (.connectionOpen saiga n d) s = .next t ∧
      (Table.sortedFrom 0 (s.hub saiga).conns = true → Table.sortedFrom 0 s.hubs = true → t.conn saiga n = none) ∧ t.mem = s.mem ∧
      (c.notify = 127 → t.harts = s.harts) ∧ (c.notify ≠ 127 → Table.sortedFrom 0 s.hubs = true → tells s t saiga n c 0xF100)) ∧
    (n < 32768 → saiga ≤ 1 → s.conn saiga n = none → ¬bad → ∃ t : State, exec (.connectionOpen saiga n d) s = .next t ∧
      t.conn saiga n = some c ∧ (c.notify = 127 → t.harts = s.harts) ∧ (c.notify ≠ 127 → Table.sortedFrom 0 s.hubs = true → tells s t saiga n c 1) ∧
      (∀ pa, s.hubXlate c.asid ((c.ctl + 264) % 2 ^ 57) .store = some pa → Table.find (pa / 256) s.recs = none →
        t.mem = (s.putPieces (s.keyOf c.world) [(pa, leBytes 8 1)]).mem)) ∧
    (∃ t : State, exec (.connectionClose saiga n) s = .next t ∧ t.mem = s.mem ∧
      (Table.sortedFrom 0 (s.hub saiga).conns = true → Table.sortedFrom 0 s.hubs = true → t.conn saiga n = none))) ∧
  (∀ (saiga n k : Nat) (s : State) (c : Conn), s.conn saiga n = some c → c.stopped = false → olderTag c.gen (s.gen c.vdev) = false →
    (c.sent < k ∨ k ≤ c.shead → exec (.ackReceive saiga n k) s = .next s) ∧
    (c.shead < k → k ≤ c.sent → ∃ t : State, exec (.ackReceive saiga n k) s = .next t ∧ t.conn saiga n = some { c with shead := k } ∧
      (s.inv → ∀ pa, s.hubXlate c.asid ((c.ctl + 256) % 2 ^ 57) .store = some pa →
        t.bytesAt (s.keyOf c.world) pa 8 = leBytes 8 k)) ∧
    (∀ stail sctl a b, s.connRead saiga c 0 = some (stail, a) → a.connRead saiga c 8 = some (sctl, b) →
      let told := (b.sendLine c).getD c.told
      let over_ := stail < c.stail ∨ c.shead + 2 ^ (12 + c.sendSize) < stail ∨ (c.fin = true ∧ sctl % 2 = 0) ∨ 2 ≤ sctl
      (over_ → ∀ i, i = .sendLineNotify saiga n k ∨ i = .retransmission saiga n → ∃ t : State, exec i s = .next t ∧ ∃ c', t.conn saiga n = some c' ∧ c'.stopped = true ∧
        c'.state.testBit 4 = true ∧ c'.state.testBit 5 = true ∧ c'.sent = c.sent ∧ c'.wire = c.wire ∧
        (c.notify = 127 → t.harts = b.harts) ∧ (c.notify ≠ 127 → tells b t saiga n c c'.state)) ∧
      (∀ bs, ¬over_ → sctl = 0 → 0 < k → c.sent < stail → b.ringBytes { c with told := told, stail := stail, fin := false } c.sent
          (if k ≤ stail - c.sent then k else stail - c.sent) = some bs →
        ∃ t : State, exec (.sendLineNotify saiga n k) s = .next t ∧ t.conn saiga n = some { c with
          stail := stail, fin := false, told := told, sent := c.sent + (if k ≤ stail - c.sent then k else stail - c.sent)
          wire := c.wire ++ [(c.sent, bs)] }) ∧
      (∀ bs, ¬over_ → sctl = 0 → b.ringBytes { c with told := told, stail := stail, fin := false } c.shead (c.sent - c.shead) = some bs →
        bs ≠ [] → ∃ t : State, exec (.retransmission saiga n) s = .next t ∧ t.conn saiga n = some { c with
          stail := stail, fin := false, told := told, wire := c.wire ++ [(c.shead, bs)] } ∧ t.mem = b.mem)) ∧
    (∀ seq data rhead a, s.connRead saiga c 768 = some (rhead, a) →
      let window := rhead + 2 ^ (12 + c.recvSize) - c.rtail
      let bs := (data.drop (c.rtail - seq)).take window
      let ring := (c.recv + c.rtail % 2 ^ (12 + c.recvSize)) % 2 ^ 57
      (rhead < c.rhead ∨ c.rtail < rhead → ∃ t : State, exec (.segmentReceive saiga n seq data) s = .next t ∧
        ∃ c', t.conn saiga n = some c' ∧ c'.stopped = true ∧ c'.rtail = c.rtail ∧ c'.state.testBit 4 = true ∧ c'.state.testBit 5 = true ∧
          (c.notify = 127 → t.harts = a.harts) ∧ (c.notify ≠ 127 → tells a t saiga n c c'.state)) ∧
      (c.rhead ≤ rhead → rhead ≤ c.rtail →
        (c.rtail < seq ∨ (data ≠ [] ∧ (seq + data.length ≤ c.rtail ∨ window = 0)) ∨ (data = [] ∧ seq < c.rtail) →
          exec (.segmentReceive saiga n seq data) s = .next (a.setConn saiga n { c with rhead := rhead })) ∧
        (data = [] → seq = c.rtail → ∃ t : State, exec (.segmentReceive saiga n seq data) s = .next t ∧
          ∃ c', t.conn saiga n = some c' ∧ c'.rtail = c.rtail ∧ c'.rhead = rhead) ∧
        (∀ u, seq ≤ c.rtail → bs ≠ [] → c.notify = 127 → a.ringWrite saiga { c with rhead := rhead } c.rtail bs = some u →
          let told := { c with rhead := rhead, rtail := c.rtail + bs.length }
          let u' := u.connWrite saiga told 512 told.rtail
          let apart := fun (loc : Nat) =>
            (∀ q, u.hubXlate c.asid ((c.ctl + 512) % 2 ^ 57) .store = some q → loc / 16 < q / 16 ∨ (q + 7) / 16 < loc / 16) ∧
            (∀ q, u'.hubXlate c.asid ((c.ctl + 264) % 2 ^ 57) .store = some q → loc / 16 < q / 16 ∨ (q + 7) / 16 < loc / 16)
          ∃ t : State, exec (.segmentReceive saiga n seq data) s = .next t ∧
            (∃ c', t.conn saiga n = some c' ∧ c'.rtail = c.rtail + bs.length ∧ c'.rhead = rhead ∧ c'.sent = c.sent) ∧
            (a.inv → (∀ key loc, apart loc → t.byteAt key loc = u.byteAt key loc) ∧
              (∀ pa, c.rtail / 256 = (c.rtail + bs.length - 1) / 256 → a.hubXlate c.asid ring .store = some pa →
                (∀ i, i < bs.length → apart (pa + i)) → t.bytesAt (s.keyOf c.world) pa bs.length = bs) ∧
              (∀ key loc pa, c.rtail / 256 = (c.rtail + bs.length - 1) / 256 → a.hubXlate c.asid ring .store = some pa →
                loc / 16 < pa / 16 ∨ (pa + bs.length - 1) / 16 < loc / 16 → u.byteAt key loc = s.byteAt key loc))))))

/-- R453 to R464. Hash, signatures, keys, serial number and boot images are opaque (log entry 11); what is malformed, and that every
command is turned away in a wrap or a gathering, are the model's reading of R459 and R460 (log entry 32). While a wrap or a pod
gathering is in progress a command answers 2; a malformed one answers 1. The certificate has the layout of Table 15.1; worlds,
the measurement register with its lock and log and the release of a held world are as the commands' rules give; a world destroyed
leaves no cached line or copy under it. Evidence has every field of Table 15.3 and its flags; a gathering sends every module its
nonce, takes the answers that verify, and signs the record of its Merkle root. Completes: idcert, wcreate, wdestroy, extend, lock,
readlog, evidence, wrelease, podevidence, podMemberAnswer, podGatherTimeout. -/
def Obligations.SecurityCommands : Prop :=
  ∀ (s : State) (w v r : Nat) (owner item label nonce sig record : List Byte),
    let e := s.engine
    let answers := fun (i : Instr) (s' : State) (status : Nat) (data : List Byte) =>
      exec i s = .next { s' with engine := { s'.engine with answer := (status, data) } }
    let free := e.wrapped = false ∧ e.gathering = none
    let world := 1 ≤ w ∧ w ≤ 255
    let ascii := label.length ≤ 48 ∧ ∀ b ∈ label, 0 < b.toNat ∧ b.toNat < 128
    let pad := fun (n : Nat) (bs : List Byte) => (bs ++ List.replicate n 0).take n
    let cert := leBytes 4 0x43444947 ++ leBytes 2 1 ++ leBytes 2 0 ++ leBytes 8 Config.serial ++ pad 32 Config.identityKey ++
      pad 32 (Config.sha512 Config.productionKey)
    let signed := fun (kind flags vdev gen present : Nat) (nonce platform tenant : List Byte) =>
      let body := leBytes 4 0x4F455644 ++ leBytes 2 1 ++ leBytes 1 kind ++ leBytes 1 flags ++ leBytes 2 e.module ++ leBytes 1 vdev ++
        leBytes 1 0 ++ leBytes 2 gen ++ leBytes 2 present ++ pad 32 nonce ++ pad 32 Config.identityKey ++ pad 64 platform ++
        pad 64 tenant ++ (List.range 16).flatMap (fun p => leBytes 2 (s.port (p / 8) (p % 8)).inc) ++ leBytes 8 e.epoch.toNat ++
        leBytes 8 0
      body ++ pad 64 (Config.identitySign body)
    let full := if e.overflow = true then 4 else 0
    let digest := Config.sha512 (e.platform.flatMap (pad 64))
    let requests := fun (n : List Byte) => (List.range 576).map (fun m => (m, (Config.sha512 (n ++ leBytes 2 m)).take 32))
    (¬free → answers .idcert s 2 [] ∧ answers .lock s 2 [] ∧ (world → answers (.wdestroy w) s 2 []) ∧
      (world → v ≤ 32 → owner.length = 32 → answers (.wcreate w v owner) s 2 []) ∧
      (ascii → answers (.extend r item label) s 2 []) ∧ (r < e.log.length → answers (.readlog r) s 2 []) ∧
      (nonce.length = 32 → v ≤ 32 ∨ v = 255 → answers (.evidence v nonce) s 2 []) ∧
      (world → sig.length = 64 → answers (.wrelease w sig) s 2 []) ∧
      (nonce.length = 32 → e.leader = true → answers (.podevidence nonce) s 2 [])) ∧
    (¬world ∨ 32 < v ∨ owner.length ≠ 32 → answers (.wcreate w v owner) s 1 []) ∧ (¬world → answers (.wdestroy w) s 1 []) ∧
    (¬world ∨ sig.length ≠ 64 → answers (.wrelease w sig) s 1 []) ∧ (¬ascii → answers (.extend r item label) s 1 []) ∧
    (e.log.length ≤ r → answers (.readlog r) s 1 []) ∧ (nonce.length ≠ 32 ∨ (32 < v ∧ v ≠ 255) → answers (.evidence v nonce) s 1 []) ∧
    (nonce.length ≠ 32 → answers (.podevidence nonce) s 1 []) ∧
    (nonce.length = 32 → e.leader = false → answers (.podevidence nonce) s 5 []) ∧
    (free →
      answers .idcert s 0 (cert ++ pad 64 (Config.productionSign cert)) ∧
      answers .lock { s with engine := { e with locked := true } } 0 [] ∧
      (world → v ≤ 32 → owner.length = 32 → ((Table.find w s.worlds).isSome = true → answers (.wcreate w v owner) s 3 []) ∧
        (Table.find w s.worlds = none → answers (.wcreate w v owner) { s with
          worlds := Table.ins w ⟨v, owner, false⟩ s.worlds
          keyCount := Table.put 0 w (Table.get 0 w s.keyCount + 1) s.keyCount } 0 [])) ∧
      (world → (Table.find w s.worlds = none ∨ s.worldUsed w = true → answers (.wdestroy w) s 3 []) ∧
        (Table.find w s.worlds ≠ none → s.worldUsed w = false → ∃ t : State, exec (.wdestroy w) s = .next t ∧
          t.engine = { e with answer := (0, []) } ∧ t.worlds = Table.del w s.worlds ∧ (∀ x ∈ t.clines, x.2.world ≠ w) ∧
          (∀ x ∈ t.ccopies, x.1 % 256 ≠ w) ∧ ∀ c, ∀ x ∈ (t.core c).copies, x.1 % 256 ≠ w)) ∧
      (∀ x, world → sig.length = 64 → Table.find w s.worlds = some x →
        let message := leBytes 8 e.epoch.toNat ++ [BitVec.ofNat 8 w]
        (Config.verifies x.owner message sig = true →
          answers (.wrelease w sig) { s with worlds := Table.ins w { x with held := false } s.worlds } 0 []) ∧
        (Config.verifies x.owner message sig = false → answers (.wrelease w sig) s 6 [])) ∧
      (world → sig.length = 64 → Table.find w s.worlds = none → answers (.wrelease w sig) s 3 []) ∧
      (ascii → (r ≠ 7 ∨ e.locked = true → answers (.extend r item label) s 4 []) ∧
        (r = 7 → e.locked = false →
          let platform := listSet 7 (Config.sha512 (e.platform.getD 7 [] ++ Config.sha512 item)) e.platform
          (e.log.length < 65536 → answers (.extend r item label) { s with engine := { e with
            log := e.log ++ [(e.log.length, 7, 0, Config.sha512 item, pad 48 label)], platform := platform } } 0 []) ∧
          (65536 ≤ e.log.length → answers (.extend r item label) { s with engine := { e with
            overflow := true, platform := platform } } 0 []))) ∧
      (∀ x, e.log[r]? = some x → answers (.readlog r) s 0 (leBytes 8 x.1 ++ leBytes 1 x.2.1 ++ leBytes 1 x.2.2.1 ++ List.replicate 6 0
        ++ pad 64 x.2.2.2.1 ++ pad 48 x.2.2.2.2)) ∧
      (nonce.length = 32 → answers (.evidence 255 nonce) s 0 (signed 1 full 255 0 0 nonce digest (List.replicate 64 0))) ∧
      (nonce.length = 32 → v ≤ 32 → ∃ flags : Nat, flags < 16 ∧
        answers (.evidence v nonce) s 0 (signed 1 flags v (s.gen v) 0 nonce digest (s.tenant v).reg) ∧
        (flags.testBit 0 = true ↔ ∀ x ∈ s.wgs, x.2.vdev = v → x.2.stands = false) ∧
        (flags.testBit 1 = true ↔ ∃ p, (p, v) ∈ s.partsOwner ∧ (∃ x ∈ s.cores, x.2.part = some p) ∧
          ∀ x ∈ s.cores, x.2.part = some p → x.2.power = .c2 ∨ (s.chip (coreChip x.1)).power = .c2) ∧
        flags.testBit 2 = e.overflow ∧
        (flags.testBit 3 = true ↔ ∃ h, h ≤ 1 ∧ ∃ d ∈ (s.hub h).trapDescs, d.2.dbg = true ∧
          ((∃ k, k ≤ 1 ∧ ∃ q ∈ (s.hub k).queues, q.2.vdev = v ∧ q.2.asid = d.1) ∨ ∃ x ∈ s.wgs, x.2.vdev = v ∧ x.2.asid = d.1))) ∧
      (nonce.length = 32 → e.leader = true → exec (.podevidence nonce) s = .next { s with engine := { e with
        gathering := some nonce, answers := [], sent := requests nonce } }) ∧
      exec (.podMemberAnswer v record) s = .next s ∧ exec .podGatherTimeout s = .next s) ∧
    (∀ n, e.gathering = some n →
      let ok := v ≤ 575 ∧ record.length = 320 ∧ (record.drop 16).take 32 = (Config.sha512 (n ++ leBytes 2 v)).take 32 ∧
        Config.verifies ((record.drop 48).take 32) (record.take 256) (record.drop 256) = true ∧
        Table.find v e.sent ≠ none ∧ Table.find v e.answers = none
      (ok → exec (.podMemberAnswer v record) s = .next { s with engine := { e with
        answers := Table.ins v (Config.sha512 (0 :: record)) e.answers } }) ∧
      (¬ok → exec (.podMemberAnswer v record) s = .next s)) ∧
    (∀ n, e.gathering = some n →
      let leaf := fun (m : Nat) => (Table.find m e.answers).getD (Config.sha512 (2 :: leBytes 2 m))
      let level := fun (l : List (List Byte)) => (List.range (l.length / 2)).map (fun i =>
        Config.sha512 (1 :: (l.getD (2 * i) [] ++ l.getD (2 * i + 1) [])))
      let root := ((List.range 10).foldl (fun l _ => level l) ((List.range 1024).map leaf)).headD []
      exec .podGatherTimeout s = .next { s with engine := { e with
        gathering := none, answers := [], sent := []
        answer := (0, signed 2 full 255 0 e.answers.length n root (List.replicate 64 0)) } })

/-! ## The machine: decoding, the step, its invariant, reset -/

/-- R33, R34, R408: every well-formed instruction of a core decodes from the bytes of its word, low byte first: no bit of a
field of its encoding is dropped. An event of the package stands behind no word. -/
def Obligations.DecodeOfEncode : Prop :=
  ∀ i : Instr, i.wellFormed = true →
    (∀ w, encodeVodon i = some w → decodeBytes (leBytes 8 w.toNat) = .ok i ∧ decodeTableWord 64 w.toNat = some i) ∧
    (∀ w, encodeKudu i = some w → decodeBytes (leBytes 4 w.toNat) = .ok i ∧ decodeTableWord 32 w.toNat = some i) ∧
    (encodeVodon i = none ∨ encodeKudu i = none)

/-- The example words of the spec decode to the instructions they stand for. -/
def Obligations.DecodedWords : Prop :=
  let z : Hdr := ⟨0, false, false, 0⟩
  decodeTableWord 64 0x0082C5093F800000 = some (.li ⟨2, true, true, 5⟩ 9 0x3F800000#32) ∧
  decodeTableWord 64 0x003A00010A0C1401 = some (.cpyG2p z 1 10 12 20) ∧
  decodeTableWord 64 0x003F000500001801 = some (.srd z 5 0x18) ∧
  decodeTableWord 64 0x003F000000000008 = some (.tret z) ∧
  decodeTableWord 64 0x003E000000000008 = some (.taskend z) ∧
  decodeTableWord 32 0x9924828B = some (.vspawn 5 9 18 19) ∧
  decodeTableWord 32 0x0005950B = some (.vjoin 10 11)

/-- R37, R135, R381, R408: a warp that is due issues the word it fetches: a step runs the instruction it decodes to, with the
fetch's own effects made, or skips a word whose path has no active lane, or raises the cause of its fetch or of a word that is
no instruction. A hart runs the instruction of its word; an event that the agenda names happens. -/
def Obligations.StepRuns : Prop :=
  (∀ (s : State) (id : Nat) (rest : List Agent) (w : Warp) (g : Wg), s.agenda = .warp id :: rest → s.asleep = false →
    Table.find id s.warps = some w → Table.find w.wg s.wgs = some g → g.status = .running → w.sync = none → w.inWindow = false →
    ((s.core g.core).tasks.contains g.pkt = false → step s = .next { s with agenda := rest }) ∧
    ((s.core g.core).tasks.contains g.pkt = true →
    let r := State.fetchWord { s with agenda := rest } w g
    (∀ x i, r.1 = .word x → w.skipsRaw (Raw.ofWord x) = false → r.2.breaks w g = false → decodeBytes (leBytes 8 x.toNat) = .ok i →
      step s = exec i { r.2 with me := id }) ∧
    (∀ x, r.1 = .word x → w.skipsRaw (Raw.ofWord x) = true →
      step s = .next (r.2.modWarp id (fun w => { w with pc := w.pc + 8, wait := .none }))) ∧
    (∀ x, r.1 = .word x → w.skipsRaw (Raw.ofWord x) = false → r.2.breaks w g = true →
      step s = .next (r.2.raise id ⟨0x48, 1, true, laneSplat (w.pc.setWidth 32), laneSplat ((w.pc >>> 32).setWidth 32)⟩)) ∧
    (∀ x e, r.1 = .word x → w.skipsRaw (Raw.ofWord x) = false → r.2.breaks w g = false → decodeBytes (leBytes 8 x.toNat) = .error e →
      step s = .next (r.2.raise id (decodeCause e))) ∧
    (∀ c, r.1 = .bad c → step s = .next (r.2.raise id c)))) ∧
  (∀ (s : State) (n : Nat) (rest : List Agent), s.agenda = .hart n :: rest → s.asleep = false → n < 80 → s.kuduGone (n / 40) = false →
    (s.chip (12 + n / 40)).power = .p0 → (s.hartOf n).power = .p0 → (s.hartOf n).nextIrq = none →
    (∀ w i, s.fetchHart (s.hartOf n) = .ok w → decodeBytes (leBytes 4 w.toNat) = .ok i →
      step s = exec i { s with agenda := rest, hart := n }) ∧
    (∀ e, s.fetchHart (s.hartOf n) = .error e → step s = .next (State.hartFault { s with agenda := rest } n e (s.hartOf n).pc)) ∧
    (∀ w, s.fetchHart (s.hartOf n) = .ok w → decodeBytes (leBytes 4 w.toNat) = .error .base →
      step s = .next (State.runRv { s with agenda := rest } n w)) ∧
    (∀ w e, s.fetchHart (s.hartOf n) = .ok w → decodeBytes (leBytes 4 w.toNat) = .error e → e ≠ .base →
      step s = .next (State.hartExc { s with agenda := rest } n 2 (w.setWidth 64)))) ∧
  (∀ (s : State) (i : Instr) (rest : List Agent), s.agenda = .event i :: rest → s.asleep = false → i.wellFormed = true →
    encodeVodon i = none → encodeKudu i = none → step s = exec i { s with agenda := rest })

/-- R43, Table 02.7: the checks of an instruction come in the table's order, whatever its operands are read for (active lanes, the
mask's lanes, lane 0, the leader lane, every lane, a few lanes, picked lanes, the name alone) and wherever it is legal: a guard
register at or beyond the budget, the first register it names that lies there, a budget too small for what it reaches, trap mode,
a counted window, a melded region, a rename entry, hardware the chiplet kind lacks, then the first marked operand of each lane. The
subcodes 0 and 1 of cause 0x08 where both conditions hold, and BRS's register as a guard (R158), are the model's reading (log entry 12);
that a reserved scope, cause 0x22, comes before a marked operand, and that a marked guard is none, are its choices (log entries 12
and 48). -/
def Obligations.IssueChecks : Prop :=
  ∀ (h : Hdr) (dst a b : Reg) (imm : BitVec 16) (sc : BitVec 4) (w64 : Bool) (wf : WgtFmt) (s : State) (c : Ctx), s.ctx h = some c →
    let wide := if w64 then 2 else 1
    let rows : List (Instr × Use) := [
      (.add h dst a b, { srcs := [⟨a.toNat, 1, .active⟩, ⟨b.toNat, 1, .active⟩], dsts := [(dst.toNat, 1)] }),
      (.add64 h dst a b, { srcs := [⟨a.toNat, 2, .active⟩, ⟨b.toNat, 2, .active⟩], dsts := [(dst.toNat, 2)] }),
      (.form h dst a, { srcs := [⟨a.toNat, 1, .none⟩], dsts := [(dst.toNat, 1)] }),
      (.spcmp h dst a b, { srcs := [⟨a.toNat, 1, .picked b.toNat⟩, ⟨b.toNat, 1, .active⟩], dsts := [(dst.toNat, 1)], meld := false }),
      (.mand h dst a, { srcs := [⟨a.toNat, 1, .mask⟩], dsts := [(dst.toNat, 1)], maskClass := true, wide := true }),
      (.mset h a, { srcs := [⟨a.toNat, 1, .lane0⟩], maskClass := true }),
      (.jmp h a, { srcs := [⟨a.toNat, 2, .leader⟩], window := false, meld := false }),
      (.ld h .glob .w64 dst a imm, { srcs := [⟨a.toNat, 2, .active⟩], dsts := [(dst.toNat, 2)], window := false }),
      (.st h .priv .w32 b a imm, { srcs := [⟨a.toNat, 1, .active⟩, ⟨b.toNat, 1, .active⟩] }),
      (.redAdd h sc .glob w64 a b, { srcs := [⟨a.toNat, 2, .active⟩, ⟨b.toNat, wide, .active⟩], window := false, scope := some sc.toNat }),
      (.genwait h dst a, { srcs := [⟨a.toNat, 1, .lane0⟩], dsts := [(dst.toNat, 1)], window := false, meld := false }),
      (.tret h, { trapOnly := true }), (.tretNext h, { trapOnly := true }),
      (.xwr h a imm, { srcs := [⟨a.toNat, 1, .all⟩], trapOnly := true, room := 241 + imm.toNat }),
      (.swr h a 0x18, { srcs := [⟨a.toNat, 1, .first 1⟩], trapOnly := true })]
    let shaped : List (Instr × Use) := [
      (.mlw h wf a b, { srcs := [⟨a.toNat, 1, .leader⟩, ⟨b.toNat, 1, .none⟩, ⟨b.toNat + 1, 1, .leader⟩], meld := false
                        absent := !coreEland c.g.core })]
    let raises := fun (i : Instr) (code sub : Nat) (v : Word) =>
      exec i s = .next (s.raise c.id ⟨BitVec.ofNat 8 code, BitVec.ofNat 8 sub, false, laneSplat v, []⟩)
    let bare := fun (i : Instr) (code sub : Nat) => exec i s = .next (s.raise c.id ⟨BitVec.ofNat 8 code, BitVec.ofNat 8 sub, false, [], []⟩)
    let regs := fun (l : List (Nat × Nat)) => l.flatMap (fun r => (List.range r.2).map (r.1 + ·))
    let over_ := fun (n : Nat) => decide (c.w.budget ≤ n) && !(decide (240 ≤ n ∧ n < 256) && (c.w.trap || c.w.melded))
    let guarded := h.g = true ∧ c.w.budget ≤ h.guard.toNat
    let inside := c.w.window = true ∧ c.w.trap = false
    let melded := c.w.melded = true ∧ c.w.trap = false
    let renames := fun (u : Use) (bad : Nat → Bool) => ∃ n l, n ∈ regs u.dsts ∧ 240 ≤ n ∧ n < 256 ∧ l < 32 ∧ c.act.getLsbD l = true ∧
      bad (c.w.rename n l) = true
    (c.w.skips h = true → ∀ r ∈ rows ++ shaped, exec r.1 s = .next { s with
      warps := Table.ins c.id { c.w with pc := c.w.pc + 8, wait := .none } s.warps }) ∧
    (c.w.skips h = false → guarded → ∀ r ∈ rows ++ shaped, bare r.1 2 2) ∧
    (c.w.budget ≤ h.guard.toNat → ∀ off, bare (.brs h a off) 2 2) ∧
    (c.w.skips h = false → ¬guarded → ∀ i u, (i, u) ∈ rows ++ shaped →
      let named := regs (u.srcs.map (fun x => (x.reg, x.count)) ++ u.dsts)
      (∀ n, named.find? over_ = some n → raises i 2 4 (BitVec.ofNat 32 n)) ∧
      (named.find? over_ = none →
        (c.w.budget < u.room → bare i 2 4) ∧
        (u.room ≤ c.w.budget → u.trapOnly = true → c.w.trap = false → bare i 2 5) ∧
        (u.room ≤ c.w.budget → (u.trapOnly = true → c.w.trap = true) →
          (u.window = false → inside → bare i 10 0) ∧
          ((u.window = false → ¬inside) →
            let illegal := u.meld = false ∨ c.w.meldReg.toNat ∈ regs u.dsts ∨ renames u (fun n => decide (n = c.w.meldReg.toNat)) ∨
              (u.maskClass = true ∧ ∃ r ∈ u.srcs.map (fun x => (x.reg, x.count)) ++ u.dsts, 240 ≤ r.1)
            (melded → illegal → bare i 8 0) ∧
            (melded → ¬illegal → renames u (fun n => decide (c.w.budget ≤ n ∨ 240 ≤ n)) →
              ∃ n, 240 ≤ n ∧ n < 256 ∧ raises i 8 1 (BitVec.ofNat 32 n)) ∧
            (¬melded → u.absent = true → bare i 4 0) ∧
            (¬melded → ∀ k, u.scope = some k → 11 ≤ k → bare i 0x22 0) ∧
            (¬melded → (i, u) ∈ rows → c.w.pend = [] → c.w.landing = [] → (∀ k, u.scope = some k → k < 11) →
              let marked := fun (l : Nat) => (u.srcs.flatMap (fun x => if (x.lanes c.w c.act).getLsbD l = true
                then (List.range x.count).map (x.reg + ·) else [])).find? (fun n => (c.w.reg (c.w.slot n l)).poison.getLsbD l)
              (∃ l, l < 32 ∧ (marked l).isSome = true) →
                exec i s = .next (s.raise c.id ⟨0x28, 0, false,
                  laneBuild (fun l => match marked l with
                    | some n => BitVec.ofNat 32 (if 256 ≤ c.w.slot n l then c.w.slot n l - 16 else c.w.slot n l)
                    | none => 0),
                  laneBuild (fun l => if (marked l).isSome = true then 0x80000000 else 0)⟩))))))

/-- Every step keeps memory and the keys of its sealed units in their canonical form, from every state in that form. -/
def Obligations.StepKeepsInvariant : Prop := ∀ s t : State, s.inv → step s = .next t → t.inv

/-- No step faults or is refused, whatever the state: the machine goes on. -/
def Obligations.StepGoesOn : Prop := ∀ s : State, s.goesOn

/-- The state after reset meets the invariant; nothing is resident; and what the spec gives a reset value has it (Tables 01.1,
06.3, 06.4, 11.7, 12.1, 14.4 and 14.5, R38, R53, R354): memory that nothing has written reads 0 and what no rule states are
the model's choices (log entries 3 and 4). -/
def Obligations.ResetState : Prop :=
  let s := State.reset
  s.inv ∧ s.mem = [] ∧ s.warps = [] ∧ s.wgs = [] ∧ s.pkts = [] ∧ s.worlds = [] ∧ s.asleep = false ∧
  (∀ h p, (s.port h p).state = .down) ∧ (∀ b, (s.bank b).mode = 0) ∧ (∀ h, (s.hub h).powerLimit = 4400 ∧ (s.hub h).tempLimit = 105) ∧
  (∀ c, (s.core c).limit = 64) ∧ (∀ h a v, (s.bucket h a v).depth = 64 ∧ (s.bucket h a v).guarantee = 0) ∧
  (∀ v, s.gen v = 0) ∧ (∀ h a, (Table.get {} a (s.hub h).trapDescs).valid = false) ∧ (∀ h q, (s.queue h q).enabled = false) ∧
  (∀ h i, (s.slot h i).state = .free) ∧ (∀ c, c < 16 → (s.chip c).cls = if 6 ≤ c ∧ c ≤ 11 ∨ 14 ≤ c then 1 else 0) ∧
  (∀ c, c < 16 → (s.chip c).power = .p0) ∧ ∀ k, (Table.get WayRegs.reset k s.lways).fill = 0xFFFF
end

