-- ==== Sys2Proof/Laws/Dispatch.lean ====
section
/-! SUPPORT. The meaning that each instruction or event is dispatched to, one lemma for each constructor. -/

namespace Sys2Proof.Machine

theorem exec_abs (h : Hdr) (dst : Reg) (a : Reg) (s : State) : exec (.abs h dst a) s = execAbs h dst a s := rfl

theorem exec_add (h : Hdr) (dst : Reg) (a : Reg) (b : Reg) (s : State) : exec (.add h dst a b) s = execAdd h dst a b s := rfl

theorem exec_addImm (h : Hdr) (dst : Reg) (a : Reg) (imm : BitVec 16) (s : State) : exec (.addImm h dst a imm) s = execAddImm h dst a imm s := rfl

theorem exec_sub (h : Hdr) (dst : Reg) (a : Reg) (b : Reg) (s : State) : exec (.sub h dst a b) s = execSub h dst a b s := rfl

theorem exec_addSat (h : Hdr) (ty : IntTy) (dst : Reg) (a : Reg) (b : Reg) (s : State) : exec (.addSat h ty dst a b) s = execAddSat h ty dst a b s := rfl

theorem exec_subSat (h : Hdr) (ty : IntTy) (dst : Reg) (a : Reg) (b : Reg) (s : State) : exec (.subSat h ty dst a b) s = execSubSat h ty dst a b s := rfl

theorem exec_add64 (h : Hdr) (dst : Reg) (a : Reg) (b : Reg) (s : State) : exec (.add64 h dst a b) s = execAdd64 h dst a b s := rfl

theorem exec_sub64 (h : Hdr) (dst : Reg) (a : Reg) (b : Reg) (s : State) : exec (.sub64 h dst a b) s = execSub64 h dst a b s := rfl

theorem exec_adda (h : Hdr) (sc : Fin 5) (dst : Reg) (a : Reg) (imm : BitVec 16) (s : State) : exec (.adda h sc dst a imm) s = execAdda h sc dst a imm s := rfl

theorem exec_addx (h : Hdr) (ty : IntTy) (sc : Fin 5) (dst : Reg) (a : Reg) (b : Reg) (s : State) : exec (.addx h ty sc dst a b) s = execAddx h ty sc dst a b s := rfl

theorem exec_aff (h : Hdr) (dst : Reg) (a : Reg) (b : Reg) (s : State) : exec (.aff h dst a b) s = execAff h dst a b s := rfl

theorem exec_andR (h : Hdr) (dst : Reg) (a : Reg) (b : Reg) (s : State) : exec (.andR h dst a b) s = execAndR h dst a b s := rfl

theorem exec_andImm (h : Hdr) (dst : Reg) (a : Reg) (imm : BitVec 16) (s : State) : exec (.andImm h dst a imm) s = execAndImm h dst a imm s := rfl

theorem exec_orR (h : Hdr) (dst : Reg) (a : Reg) (b : Reg) (s : State) : exec (.orR h dst a b) s = execOrR h dst a b s := rfl

theorem exec_orImm (h : Hdr) (dst : Reg) (a : Reg) (imm : BitVec 16) (s : State) : exec (.orImm h dst a imm) s = execOrImm h dst a imm s := rfl

theorem exec_xorR (h : Hdr) (dst : Reg) (a : Reg) (b : Reg) (s : State) : exec (.xorR h dst a b) s = execXorR h dst a b s := rfl

theorem exec_xorImm (h : Hdr) (dst : Reg) (a : Reg) (imm : BitVec 16) (s : State) : exec (.xorImm h dst a imm) s = execXorImm h dst a imm s := rfl

theorem exec_andn (h : Hdr) (dst : Reg) (a : Reg) (b : Reg) (s : State) : exec (.andn h dst a b) s = execAndn h dst a b s := rfl

theorem exec_bfi (h : Hdr) (dst : Reg) (a : Reg) (b : Reg) (c : Reg) (s : State) : exec (.bfi h dst a b c) s = execBfi h dst a b c s := rfl

theorem exec_bfx (h : Hdr) (ty : IntTy) (dst : Reg) (a : Reg) (b : Reg) (s : State) : exec (.bfx h ty dst a b) s = execBfx h ty dst a b s := rfl

theorem exec_brev (h : Hdr) (dst : Reg) (a : Reg) (s : State) : exec (.brev h dst a) s = execBrev h dst a s := rfl

theorem exec_clz (h : Hdr) (dst : Reg) (a : Reg) (s : State) : exec (.clz h dst a) s = execClz h dst a s := rfl

theorem exec_ctz (h : Hdr) (dst : Reg) (a : Reg) (s : State) : exec (.ctz h dst a) s = execCtz h dst a s := rfl

theorem exec_popc (h : Hdr) (dst : Reg) (a : Reg) (s : State) : exec (.popc h dst a) s = execPopc h dst a s := rfl

theorem exec_form (h : Hdr) (dst : Reg) (a : Reg) (s : State) : exec (.form h dst a) s = execForm h dst a s := rfl

theorem exec_li (h : Hdr) (dst : Reg) (imm : Word) (s : State) : exec (.li h dst imm) s = execLi h dst imm s := rfl

theorem exec_mul (h : Hdr) (dst : Reg) (a : Reg) (b : Reg) (s : State) : exec (.mul h dst a b) s = execMul h dst a b s := rfl

theorem exec_mulImm (h : Hdr) (dst : Reg) (a : Reg) (imm : BitVec 16) (s : State) : exec (.mulImm h dst a imm) s = execMulImm h dst a imm s := rfl

theorem exec_mad (h : Hdr) (dst : Reg) (a : Reg) (b : Reg) (c : Reg) (s : State) : exec (.mad h dst a b c) s = execMad h dst a b c s := rfl

theorem exec_min (h : Hdr) (ty : IntTy) (dst : Reg) (a : Reg) (b : Reg) (s : State) : exec (.min h ty dst a b) s = execMin h ty dst a b s := rfl

theorem exec_max (h : Hdr) (ty : IntTy) (dst : Reg) (a : Reg) (b : Reg) (s : State) : exec (.max h ty dst a b) s = execMax h ty dst a b s := rfl

theorem exec_mulhi (h : Hdr) (ty : IntTy) (dst : Reg) (a : Reg) (b : Reg) (s : State) : exec (.mulhi h ty dst a b) s = execMulhi h ty dst a b s := rfl

theorem exec_mulw (h : Hdr) (ty : IntTy) (dst : Reg) (a : Reg) (b : Reg) (s : State) : exec (.mulw h ty dst a b) s = execMulw h ty dst a b s := rfl

theorem exec_shl (h : Hdr) (dst : Reg) (a : Reg) (b : Reg) (s : State) : exec (.shl h dst a b) s = execShl h dst a b s := rfl

theorem exec_shlImm (h : Hdr) (dst : Reg) (a : Reg) (n : BitVec 5) (s : State) : exec (.shlImm h dst a n) s = execShlImm h dst a n s := rfl

theorem exec_shr (h : Hdr) (dst : Reg) (a : Reg) (b : Reg) (s : State) : exec (.shr h dst a b) s = execShr h dst a b s := rfl

theorem exec_shrImm (h : Hdr) (dst : Reg) (a : Reg) (n : BitVec 5) (s : State) : exec (.shrImm h dst a n) s = execShrImm h dst a n s := rfl

theorem exec_sra (h : Hdr) (dst : Reg) (a : Reg) (b : Reg) (s : State) : exec (.sra h dst a b) s = execSra h dst a b s := rfl

theorem exec_sraImm (h : Hdr) (dst : Reg) (a : Reg) (n : BitVec 5) (s : State) : exec (.sraImm h dst a n) s = execSraImm h dst a n s := rfl

theorem exec_rol (h : Hdr) (dst : Reg) (a : Reg) (b : Reg) (s : State) : exec (.rol h dst a b) s = execRol h dst a b s := rfl

theorem exec_rolImm (h : Hdr) (dst : Reg) (a : Reg) (n : BitVec 5) (s : State) : exec (.rolImm h dst a n) s = execRolImm h dst a n s := rfl

theorem exec_sel (h : Hdr) (dst : Reg) (a : Reg) (b : Reg) (c : Reg) (s : State) : exec (.sel h dst a b c) s = execSel h dst a b c s := rfl

theorem exec_set (h : Hdr) (cc : SetCc) (dst : Reg) (a : Reg) (b : Reg) (s : State) : exec (.set h cc dst a b) s = execSet h cc dst a b s := rfl

theorem exec_rcp (h : Hdr) (dst : Reg) (a : Reg) (s : State) : exec (.rcp h dst a) s = execRcp h dst a s := rfl

theorem exec_rsq (h : Hdr) (dst : Reg) (a : Reg) (s : State) : exec (.rsq h dst a) s = execRsq h dst a s := rfl

theorem exec_ex2 (h : Hdr) (dst : Reg) (a : Reg) (s : State) : exec (.ex2 h dst a) s = execEx2 h dst a s := rfl

theorem exec_lg2 (h : Hdr) (dst : Reg) (a : Reg) (s : State) : exec (.lg2 h dst a) s = execLg2 h dst a s := rfl

theorem exec_sin (h : Hdr) (dst : Reg) (a : Reg) (s : State) : exec (.sin h dst a) s = execSin h dst a s := rfl

theorem exec_cos (h : Hdr) (dst : Reg) (a : Reg) (s : State) : exec (.cos h dst a) s = execCos h dst a s := rfl

theorem exec_tanh (h : Hdr) (dst : Reg) (a : Reg) (s : State) : exec (.tanh h dst a) s = execTanh h dst a s := rfl

theorem exec_cvtF32Si32 (h : Hdr) (m : Rnd) (dst : Reg) (a : Reg) (s : State) : exec (.cvtF32Si32 h m dst a) s = execCvtF32Si32 h m dst a s := rfl

theorem exec_cvtF32Ui32 (h : Hdr) (m : Rnd) (dst : Reg) (a : Reg) (s : State) : exec (.cvtF32Ui32 h m dst a) s = execCvtF32Ui32 h m dst a s := rfl

theorem exec_cvtSi32F32 (h : Hdr) (m : Rnd) (dst : Reg) (a : Reg) (s : State) : exec (.cvtSi32F32 h m dst a) s = execCvtSi32F32 h m dst a s := rfl

theorem exec_cvtUi32F32 (h : Hdr) (m : Rnd) (dst : Reg) (a : Reg) (s : State) : exec (.cvtUi32F32 h m dst a) s = execCvtUi32F32 h m dst a s := rfl

theorem exec_cvtBf16F32 (h : Hdr) (m : Rnd) (dst : Reg) (a : Reg) (b : Reg) (c : Reg) (s : State) : exec (.cvtBf16F32 h m dst a b c) s = execCvtBf16F32 h m dst a b c s := rfl

theorem exec_cvtF16F32 (h : Hdr) (m : Rnd) (dst : Reg) (a : Reg) (b : Reg) (c : Reg) (s : State) : exec (.cvtF16F32 h m dst a b c) s = execCvtF16F32 h m dst a b c s := rfl

theorem exec_cvtE4m3F32 (h : Hdr) (half : Bool) (m : Rnd) (dst : Reg) (a : Reg) (b : Reg) (c : Reg) (s : State) : exec (.cvtE4m3F32 h half m dst a b c) s = execCvtE4m3F32 h half m dst a b c s := rfl

theorem exec_cvtE5m2F32 (h : Hdr) (half : Bool) (m : Rnd) (dst : Reg) (a : Reg) (b : Reg) (c : Reg) (s : State) : exec (.cvtE5m2F32 h half m dst a b c) s = execCvtE5m2F32 h half m dst a b c s := rfl

theorem exec_cvtF32Bf16 (h : Hdr) (half : Bool) (dst : Reg) (a : Reg) (s : State) : exec (.cvtF32Bf16 h half dst a) s = execCvtF32Bf16 h half dst a s := rfl

theorem exec_cvtF32F16 (h : Hdr) (half : Bool) (dst : Reg) (a : Reg) (s : State) : exec (.cvtF32F16 h half dst a) s = execCvtF32F16 h half dst a s := rfl

theorem exec_cvtF32E4m3 (h : Hdr) (byte : BitVec 2) (dst : Reg) (a : Reg) (s : State) : exec (.cvtF32E4m3 h byte dst a) s = execCvtF32E4m3 h byte dst a s := rfl

theorem exec_cvtF32E5m2 (h : Hdr) (byte : BitVec 2) (dst : Reg) (a : Reg) (s : State) : exec (.cvtF32E5m2 h byte dst a) s = execCvtF32E5m2 h byte dst a s := rfl

theorem exec_fabs (h : Hdr) (dst : Reg) (a : Reg) (s : State) : exec (.fabs h dst a) s = execFabs h dst a s := rfl

theorem exec_fneg (h : Hdr) (dst : Reg) (a : Reg) (s : State) : exec (.fneg h dst a) s = execFneg h dst a s := rfl

theorem exec_fadd (h : Hdr) (m : Rnd) (dst : Reg) (a : Reg) (b : Reg) (s : State) : exec (.fadd h m dst a b) s = execFadd h m dst a b s := rfl

theorem exec_fsub (h : Hdr) (m : Rnd) (dst : Reg) (a : Reg) (b : Reg) (s : State) : exec (.fsub h m dst a b) s = execFsub h m dst a b s := rfl

theorem exec_fmul (h : Hdr) (m : Rnd) (dst : Reg) (a : Reg) (b : Reg) (s : State) : exec (.fmul h m dst a b) s = execFmul h m dst a b s := rfl

theorem exec_ffma (h : Hdr) (m : Rnd) (dst : Reg) (a : Reg) (b : Reg) (c : Reg) (s : State) : exec (.ffma h m dst a b c) s = execFfma h m dst a b c s := rfl

theorem exec_fclass (h : Hdr) (dst : Reg) (a : Reg) (s : State) : exec (.fclass h dst a) s = execFclass h dst a s := rfl

theorem exec_fmin (h : Hdr) (dst : Reg) (a : Reg) (b : Reg) (s : State) : exec (.fmin h dst a b) s = execFmin h dst a b s := rfl

theorem exec_fmax (h : Hdr) (dst : Reg) (a : Reg) (b : Reg) (s : State) : exec (.fmax h dst a b) s = execFmax h dst a b s := rfl

theorem exec_frnd (h : Hdr) (m : Rnd) (dst : Reg) (a : Reg) (s : State) : exec (.frnd h m dst a) s = execFrnd h m dst a s := rfl

theorem exec_fset (h : Hdr) (cc : FsetCc) (dst : Reg) (a : Reg) (b : Reg) (s : State) : exec (.fset h cc dst a b) s = execFset h cc dst a b s := rfl

theorem exec_padd (h : Hdr) (f : PackFmt) (m : Rnd) (dst : Reg) (a : Reg) (b : Reg) (s : State) : exec (.padd h f m dst a b) s = execPadd h f m dst a b s := rfl

theorem exec_pmul (h : Hdr) (f : PackFmt) (m : Rnd) (dst : Reg) (a : Reg) (b : Reg) (s : State) : exec (.pmul h f m dst a b) s = execPmul h f m dst a b s := rfl

theorem exec_pfma (h : Hdr) (f : PackFmt) (m : Rnd) (dst : Reg) (a : Reg) (b : Reg) (c : Reg) (s : State) : exec (.pfma h f m dst a b c) s = execPfma h f m dst a b c s := rfl

theorem exec_pmin (h : Hdr) (f : PackFmt) (dst : Reg) (a : Reg) (b : Reg) (s : State) : exec (.pmin h f dst a b) s = execPmin h f dst a b s := rfl

theorem exec_pmax (h : Hdr) (f : PackFmt) (dst : Reg) (a : Reg) (b : Reg) (s : State) : exec (.pmax h f dst a b) s = execPmax h f dst a b s := rfl

theorem exec_pdot (h : Hdr) (f : PackFmt) (m : Rnd) (dst : Reg) (a : Reg) (b : Reg) (c : Reg) (s : State) : exec (.pdot h f m dst a b c) s = execPdot h f m dst a b c s := rfl

theorem exec_qnt (h : Hdr) (q : QFmt) (m : Rnd) (dst : Reg) (a : Reg) (b : Reg) (c : Reg) (s : State) : exec (.qnt h q m dst a b c) s = execQnt h q m dst a b c s := rfl

theorem exec_qpk (h : Hdr) (q : QFmt) (dst : Reg) (a : Reg) (s : State) : exec (.qpk h q dst a) s = execQpk h q dst a s := rfl

theorem exec_qunpk (h : Hdr) (q : QFmt) (dst : Reg) (a : Reg) (s : State) : exec (.qunpk h q dst a) s = execQunpk h q dst a s := rfl

theorem exec_spmk (h : Hdr) (dst : Reg) (a : Reg) (s : State) : exec (.spmk h dst a) s = execSpmk h dst a s := rfl

theorem exec_spcmp (h : Hdr) (dst : Reg) (a : Reg) (b : Reg) (s : State) : exec (.spcmp h dst a b) s = execSpcmp h dst a b s := rfl

theorem exec_bra (h : Hdr) (off : BitVec 24) (s : State) : exec (.bra h off) s = execBra h off s := rfl

theorem exec_braAll (h : Hdr) (off : BitVec 24) (s : State) : exec (.braAll h off) s = execBraAll h off s := rfl

theorem exec_braNone (h : Hdr) (off : BitVec 24) (s : State) : exec (.braNone h off) s = execBraNone h off s := rfl

theorem exec_brs (h : Hdr) (live : Reg) (off : BitVec 24) (s : State) : exec (.brs h live off) s = execBrs h live off s := rfl

theorem exec_call (h : Hdr) (link : Reg) (off : BitVec 24) (s : State) : exec (.call h link off) s = execCall h link off s := rfl

theorem exec_endmeld (h : Hdr) (s : State) : exec (.endmeld h) s = execEndmeld h s := rfl

theorem exec_exit (h : Hdr) (s : State) : exec (.exit h) s = execExit h s := rfl

theorem exec_jmp (h : Hdr) (a : Reg) (s : State) : exec (.jmp h a) s = execJmp h a s := rfl

theorem exec_jmpl (h : Hdr) (dst : Reg) (a : Reg) (s : State) : exec (.jmpl h dst a) s = execJmpl h dst a s := rfl

theorem exec_ret (h : Hdr) (a : Reg) (s : State) : exec (.ret h a) s = execRet h a s := rfl

theorem exec_loop (h : Hdr) (n : Fin 6) (off : BitVec 16) (s : State) : exec (.loop h n off) s = execLoop h n off s := rfl

theorem exec_mand (h : Hdr) (dst : Reg) (a : Reg) (s : State) : exec (.mand h dst a) s = execMand h dst a s := rfl

theorem exec_mandn (h : Hdr) (dst : Reg) (a : Reg) (s : State) : exec (.mandn h dst a) s = execMandn h dst a s := rfl

theorem exec_meld (h : Hdr) (vp : BitVec 6) (s : State) : exec (.meld h vp) s = execMeld h vp s := rfl

theorem exec_melse (h : Hdr) (a : Reg) (s : State) : exec (.melse h a) s = execMelse h a s := rfl

theorem exec_mset (h : Hdr) (a : Reg) (s : State) : exec (.mset h a) s = execMset h a s := rfl

theorem exec_mvote (h : Hdr) (dst : Reg) (a : Reg) (s : State) : exec (.mvote h dst a) s = execMvote h dst a s := rfl

theorem exec_nop (h : Hdr) (s : State) : exec (.nop h) s = execNop h s := rfl

theorem exec_rnm (h : Hdr) (idx : BitVec 4) (x : Reg) (y : Reg) (s : State) : exec (.rnm h idx x y) s = execRnm h idx x y s := rfl

theorem exec_align (h : Hdr) (a : Reg) (s : State) : exec (.align h a) s = execAlign h a s := rfl

theorem exec_unalign (h : Hdr) (s : State) : exec (.unalign h) s = execUnalign h s := rfl

theorem exec_ld (h : Hdr) (sp : Space) (k : LdKind) (dst : Reg) (a : Reg) (imm : BitVec 16) (s : State) : exec (.ld h sp k dst a imm) s = execLd h sp k dst a imm s := rfl

theorem exec_st (h : Hdr) (sp : Space) (k : StKind) (d : Reg) (a : Reg) (imm : BitVec 16) (s : State) : exec (.st h sp k d a imm) s = execSt h sp k d a imm s := rfl

theorem exec_flushG (h : Hdr) (a : Reg) (imm : BitVec 16) (s : State) : exec (.flushG h a imm) s = execFlushG h a imm s := rfl

theorem exec_invalG (h : Hdr) (a : Reg) (imm : BitVec 16) (s : State) : exec (.invalG h a imm) s = execInvalG h a imm s := rfl

theorem exec_lda (h : Hdr) (sp : Space) (w : Width) (dst : Reg) (a : Reg) (tok : Reg) (s : State) : exec (.lda h sp w dst a tok) s = execLda h sp w dst a tok s := rfl

theorem exec_sopenLd (h : Hdr) (slot : BitVec 3) (rec : Reg) (coord : Reg) (s : State) : exec (.sopenLd h slot rec coord) s = execSopenLd h slot rec coord s := rfl

theorem exec_sopenSt (h : Hdr) (slot : BitVec 3) (rec : Reg) (coord : Reg) (s : State) : exec (.sopenSt h slot rec coord) s = execSopenSt h slot rec coord s := rfl

theorem exec_sclose (h : Hdr) (slot : BitVec 3) (s : State) : exec (.sclose h slot) s = execSclose h slot s := rfl

theorem exec_sld (h : Hdr) (w : Width) (dst : Reg) (slot : BitVec 3) (s : State) : exec (.sld h w dst slot) s = execSld h w dst slot s := rfl

theorem exec_sst (h : Hdr) (w : Width) (slot : BitVec 3) (a : Reg) (s : State) : exec (.sst h w slot a) s = execSst h w slot a s := rfl

theorem exec_sstat (h : Hdr) (dst : Reg) (slot : BitVec 3) (s : State) : exec (.sstat h dst slot) s = execSstat h dst slot s := rfl

theorem exec_sstatStall (h : Hdr) (dst : Reg) (slot : BitVec 3) (s : State) : exec (.sstatStall h dst slot) s = execSstatStall h dst slot s := rfl

theorem exec_sstatPoison (h : Hdr) (dst : Reg) (slot : BitVec 3) (s : State) : exec (.sstatPoison h dst slot) s = execSstatPoison h dst slot s := rfl

theorem exec_bankmode (h : Hdr) (dst : Reg) (a : Reg) (b : Reg) (s : State) : exec (.bankmode h dst a b) s = execBankmode h dst a b s := rfl

theorem exec_bankq (h : Hdr) (dst : Reg) (a : Reg) (b : Reg) (s : State) : exec (.bankq h dst a b) s = execBankq h dst a b s := rfl

theorem exec_ldaq (h : Hdr) (sc : BitVec 4) (sp : Space) (w64 : Bool) (dst : Reg) (a : Reg) (s : State) : exec (.ldaq h sc sp w64 dst a) s = execLdaq h sc sp w64 dst a s := rfl

theorem exec_strl (h : Hdr) (sc : BitVec 4) (sp : Space) (w64 : Bool) (a : Reg) (b : Reg) (s : State) : exec (.strl h sc sp w64 a b) s = execStrl h sc sp w64 a b s := rfl

theorem exec_atomAdd (h : Hdr) (sc : BitVec 4) (sp : Space) (w64 : Bool) (dst : Reg) (a : Reg) (b : Reg) (s : State) : exec (.atomAdd h sc sp w64 dst a b) s = execAtomAdd h sc sp w64 dst a b s := rfl

theorem exec_atomAddF32 (h : Hdr) (sc : BitVec 4) (sp : Space) (dst : Reg) (a : Reg) (b : Reg) (s : State) : exec (.atomAddF32 h sc sp dst a b) s = execAtomAddF32 h sc sp dst a b s := rfl

theorem exec_atomMin (h : Hdr) (ty : IntTy) (sc : BitVec 4) (sp : Space) (dst : Reg) (a : Reg) (b : Reg) (s : State) : exec (.atomMin h ty sc sp dst a b) s = execAtomMin h ty sc sp dst a b s := rfl

theorem exec_atomMax (h : Hdr) (ty : IntTy) (sc : BitVec 4) (sp : Space) (dst : Reg) (a : Reg) (b : Reg) (s : State) : exec (.atomMax h ty sc sp dst a b) s = execAtomMax h ty sc sp dst a b s := rfl

theorem exec_atomAnd (h : Hdr) (sc : BitVec 4) (sp : Space) (w64 : Bool) (dst : Reg) (a : Reg) (b : Reg) (s : State) : exec (.atomAnd h sc sp w64 dst a b) s = execAtomAnd h sc sp w64 dst a b s := rfl

theorem exec_atomOr (h : Hdr) (sc : BitVec 4) (sp : Space) (w64 : Bool) (dst : Reg) (a : Reg) (b : Reg) (s : State) : exec (.atomOr h sc sp w64 dst a b) s = execAtomOr h sc sp w64 dst a b s := rfl

theorem exec_atomXor (h : Hdr) (sc : BitVec 4) (sp : Space) (w64 : Bool) (dst : Reg) (a : Reg) (b : Reg) (s : State) : exec (.atomXor h sc sp w64 dst a b) s = execAtomXor h sc sp w64 dst a b s := rfl

theorem exec_atomExch (h : Hdr) (sc : BitVec 4) (sp : Space) (w64 : Bool) (dst : Reg) (a : Reg) (b : Reg) (s : State) : exec (.atomExch h sc sp w64 dst a b) s = execAtomExch h sc sp w64 dst a b s := rfl

theorem exec_atomCas (h : Hdr) (sc : BitVec 4) (sp : Space) (w64 : Bool) (dst : Reg) (a : Reg) (b : Reg) (s : State) : exec (.atomCas h sc sp w64 dst a b) s = execAtomCas h sc sp w64 dst a b s := rfl

theorem exec_atomInc (h : Hdr) (sc : BitVec 4) (sp : Space) (dst : Reg) (a : Reg) (b : Reg) (s : State) : exec (.atomInc h sc sp dst a b) s = execAtomInc h sc sp dst a b s := rfl

theorem exec_redAdd (h : Hdr) (sc : BitVec 4) (sp : Space) (w64 : Bool) (a : Reg) (b : Reg) (s : State) : exec (.redAdd h sc sp w64 a b) s = execRedAdd h sc sp w64 a b s := rfl

theorem exec_redAddF32 (h : Hdr) (sc : BitVec 4) (sp : Space) (a : Reg) (b : Reg) (s : State) : exec (.redAddF32 h sc sp a b) s = execRedAddF32 h sc sp a b s := rfl

theorem exec_redMin (h : Hdr) (ty : IntTy) (sc : BitVec 4) (sp : Space) (a : Reg) (b : Reg) (s : State) : exec (.redMin h ty sc sp a b) s = execRedMin h ty sc sp a b s := rfl

theorem exec_redMax (h : Hdr) (ty : IntTy) (sc : BitVec 4) (sp : Space) (a : Reg) (b : Reg) (s : State) : exec (.redMax h ty sc sp a b) s = execRedMax h ty sc sp a b s := rfl

theorem exec_redAnd (h : Hdr) (sc : BitVec 4) (sp : Space) (w64 : Bool) (a : Reg) (b : Reg) (s : State) : exec (.redAnd h sc sp w64 a b) s = execRedAnd h sc sp w64 a b s := rfl

theorem exec_redOr (h : Hdr) (sc : BitVec 4) (sp : Space) (w64 : Bool) (a : Reg) (b : Reg) (s : State) : exec (.redOr h sc sp w64 a b) s = execRedOr h sc sp w64 a b s := rfl

theorem exec_redXor (h : Hdr) (sc : BitVec 4) (sp : Space) (w64 : Bool) (a : Reg) (b : Reg) (s : State) : exec (.redXor h sc sp w64 a b) s = execRedXor h sc sp w64 a b s := rfl

theorem exec_fenceRel (h : Hdr) (sc : BitVec 4) (s : State) : exec (.fenceRel h sc) s = execFenceRel h sc s := rfl

theorem exec_fenceAcq (h : Hdr) (sc : BitVec 4) (s : State) : exec (.fenceAcq h sc) s = execFenceAcq h sc s := rfl

theorem exec_fenceAr (h : Hdr) (sc : BitVec 4) (s : State) : exec (.fenceAr h sc) s = execFenceAr h sc s := rfl

theorem exec_binit (h : Hdr) (bar : BitVec 4) (a : Reg) (s : State) : exec (.binit h bar a) s = execBinit h bar a s := rfl

theorem exec_barv (h : Hdr) (bar : BitVec 4) (s : State) : exec (.barv h bar) s = execBarv h bar s := rfl

theorem exec_barvExp (h : Hdr) (bar : BitVec 4) (a : Reg) (s : State) : exec (.barvExp h bar a) s = execBarvExp h bar a s := rfl

theorem exec_bexp (h : Hdr) (bar : BitVec 4) (a : Reg) (s : State) : exec (.bexp h bar a) s = execBexp h bar a s := rfl

theorem exec_bdrop (h : Hdr) (bar : BitVec 4) (s : State) : exec (.bdrop h bar) s = execBdrop h bar s := rfl

theorem exec_bwait (h : Hdr) (dst : Reg) (bar : BitVec 4) (a : Reg) (s : State) : exec (.bwait h dst bar a) s = execBwait h dst bar a s := rfl

theorem exec_btest (h : Hdr) (dst : Reg) (bar : BitVec 4) (s : State) : exec (.btest h dst bar) s = execBtest h dst bar s := rfl

theorem exec_bsync (h : Hdr) (bar : BitVec 4) (s : State) : exec (.bsync h bar) s = execBsync h bar s := rfl

theorem exec_qmovPush (h : Hdr) (q : BitVec 3) (a : Reg) (s : State) : exec (.qmovPush h q a) s = execQmovPush h q a s := rfl

theorem exec_qmovPop (h : Hdr) (dst : Reg) (q : BitVec 3) (s : State) : exec (.qmovPop h dst q) s = execQmovPop h dst q s := rfl

theorem exec_qmovPeek (h : Hdr) (dst : Reg) (q : BitVec 3) (s : State) : exec (.qmovPeek h dst q) s = execQmovPeek h dst q s := rfl

theorem exec_qmovStat (h : Hdr) (dst : Reg) (q : BitVec 3) (s : State) : exec (.qmovStat h dst q) s = execQmovStat h dst q s := rfl

theorem exec_jadd (h : Hdr) (sc : BitVec 4) (sp : Space) (a : Reg) (b : Reg) (s : State) : exec (.jadd h sc sp a b) s = execJadd h sc sp a b s := rfl

theorem exec_jarr (h : Hdr) (sc : BitVec 4) (sp : Space) (a : Reg) (s : State) : exec (.jarr h sc sp a) s = execJarr h sc sp a s := rfl

theorem exec_jwait (h : Hdr) (sc : BitVec 4) (sp : Space) (a : Reg) (s : State) : exec (.jwait h sc sp a) s = execJwait h sc sp a s := rfl

theorem exec_jpoll (h : Hdr) (sc : BitVec 4) (sp : Space) (dst : Reg) (a : Reg) (s : State) : exec (.jpoll h sc sp dst a) s = execJpoll h sc sp dst a s := rfl

theorem exec_cpyG2p (h : Hdr) (bar : BitVec 4) (rec : Reg) (coord : Reg) (follow : Reg) (s : State) : exec (.cpyG2p h bar rec coord follow) s = execCpyG2p h bar rec coord follow s := rfl

theorem exec_cpyP2g (h : Hdr) (bar : BitVec 4) (rec : Reg) (coord : Reg) (follow : Reg) (s : State) : exec (.cpyP2g h bar rec coord follow) s = execCpyP2g h bar rec coord follow s := rfl

theorem exec_cpyC2p (h : Hdr) (bar : BitVec 4) (rec : Reg) (coord : Reg) (follow : Reg) (s : State) : exec (.cpyC2p h bar rec coord follow) s = execCpyC2p h bar rec coord follow s := rfl

theorem exec_cpyP2c (h : Hdr) (bar : BitVec 4) (rec : Reg) (coord : Reg) (follow : Reg) (s : State) : exec (.cpyP2c h bar rec coord follow) s = execCpyP2c h bar rec coord follow s := rfl

theorem exec_cpyG2c (h : Hdr) (bar : BitVec 4) (rec : Reg) (coord : Reg) (follow : Reg) (s : State) : exec (.cpyG2c h bar rec coord follow) s = execCpyG2c h bar rec coord follow s := rfl

theorem exec_cpylG (h : Hdr) (bar : BitVec 4) (va : Reg) (vd : Reg) (s : State) : exec (.cpylG h bar va vd) s = execCpylG h bar va vd s := rfl

theorem exec_drnSt (h : Hdr) (bar : BitVec 4) (rec : Reg) (coord : Reg) (s : State) : exec (.drnSt h bar rec coord) s = execDrnSt h bar rec coord s := rfl

theorem exec_drnAdd (h : Hdr) (bar : BitVec 4) (rec : Reg) (coord : Reg) (s : State) : exec (.drnAdd h bar rec coord) s = execDrnAdd h bar rec coord s := rfl

theorem exec_cperr (h : Hdr) (dst : Reg) (s : State) : exec (.cperr h dst) s = execCperr h dst s := rfl

theorem exec_btalloc (h : Hdr) (dst : Reg) (a : Reg) (b : Reg) (c : Reg) (s : State) : exec (.btalloc h dst a b c) s = execBtalloc h dst a b c s := rfl

theorem exec_btshare (h : Hdr) (dst : Reg) (a : Reg) (b : Reg) (c : Reg) (s : State) : exec (.btshare h dst a b c) s = execBtshare h dst a b c s := rfl

theorem exec_btcow (h : Hdr) (dst : Reg) (a : Reg) (b : Reg) (s : State) : exec (.btcow h dst a b) s = execBtcow h dst a b s := rfl

theorem exec_btfree (h : Hdr) (dst : Reg) (a : Reg) (b : Reg) (s : State) : exec (.btfree h dst a b) s = execBtfree h dst a b s := rfl

theorem exec_btmove (h : Hdr) (dst : Reg) (a : Reg) (b : Reg) (c : Reg) (s : State) : exec (.btmove h dst a b c) s = execBtmove h dst a b c s := rfl

theorem exec_btrd (h : Hdr) (dst : Reg) (a : Reg) (b : Reg) (s : State) : exec (.btrd h dst a b) s = execBtrd h dst a b s := rfl

theorem exec_btstat (h : Hdr) (dst : Reg) (a : Reg) (s : State) : exec (.btstat h dst a) s = execBtstat h dst a s := rfl

theorem exec_mma (h : Hdr) (af : ActFmt) (wf : WgtFmt) (rec : Reg) (coord : Reg) (s : State) : exec (.mma h af wf rec coord) s = execMma h af wf rec coord s := rfl

theorem exec_mmaSp (h : Hdr) (af : ActFmt) (wf : WgtFmt) (rec : Reg) (coord : Reg) (s : State) : exec (.mmaSp h af wf rec coord) s = execMmaSp h af wf rec coord s := rfl

theorem exec_mlw (h : Hdr) (wf : WgtFmt) (rec : Reg) (coord : Reg) (s : State) : exec (.mlw h wf rec coord) s = execMlw h wf rec coord s := rfl

theorem exec_mlwSp (h : Hdr) (wf : WgtFmt) (rec : Reg) (coord : Reg) (s : State) : exec (.mlwSp h wf rec coord) s = execMlwSp h wf rec coord s := rfl

theorem exec_aclr (h : Hdr) (a : Reg) (s : State) : exec (.aclr h a) s = execAclr h a s := rfl

theorem exec_ard (h : Hdr) (dst : Reg) (a : Reg) (b : Reg) (s : State) : exec (.ard h dst a b) s = execArd h dst a b s := rfl

theorem exec_awr (h : Hdr) (a : Reg) (b : Reg) (c : Reg) (s : State) : exec (.awr h a b c) s = execAwr h a b c s := rfl

theorem exec_mstat (h : Hdr) (dst : Reg) (s : State) : exec (.mstat h dst) s = execMstat h dst s := rfl

theorem exec_mstatClr (h : Hdr) (dst : Reg) (s : State) : exec (.mstatClr h dst) s = execMstatClr h dst s := rfl

theorem exec_sacc (h : Hdr) (init : Bool) (sf : ScaleFmt) (mode : SaccMode) (a : Reg) (b : Reg) (c : Reg) (s : State) : exec (.sacc h init sf mode a b c) s = execSacc h init sf mode a b c s := rfl

theorem exec_opb (h : Hdr) (a : Reg) (s : State) : exec (.opb h a) s = execOpb h a s := rfl

theorem exec_taskend (h : Hdr) (s : State) : exec (.taskend h) s = execTaskend h s := rfl

theorem exec_prio (h : Hdr) (a : Reg) (s : State) : exec (.prio h a) s = execPrio h a s := rfl

theorem exec_wgq (h : Hdr) (dst : Reg) (a : Reg) (s : State) : exec (.wgq h dst a) s = execWgq h dst a s := rfl

theorem exec_pktst (h : Hdr) (a : Reg) (s : State) : exec (.pktst h a) s = execPktst h a s := rfl

theorem exec_srd (h : Hdr) (dst : Reg) (sr : BitVec 16) (s : State) : exec (.srd h dst sr) s = execSrd h dst sr s := rfl

theorem exec_swr (h : Hdr) (a : Reg) (sr : BitVec 16) (s : State) : exec (.swr h a sr) s = execSwr h a sr s := rfl

theorem exec_tret (h : Hdr) (s : State) : exec (.tret h) s = execTret h s := rfl

theorem exec_tretNext (h : Hdr) (s : State) : exec (.tretNext h) s = execTretNext h s := rfl

theorem exec_brk (h : Hdr) (imm : BitVec 16) (s : State) : exec (.brk h imm) s = execBrk h imm s := rfl

theorem exec_trapi (h : Hdr) (imm : BitVec 16) (s : State) : exec (.trapi h imm) s = execTrapi h imm s := rfl

theorem exec_xrd (h : Hdr) (dst : Reg) (n : BitVec 16) (s : State) : exec (.xrd h dst n) s = execXrd h dst n s := rfl

theorem exec_xwr (h : Hdr) (a : Reg) (n : BitVec 16) (s : State) : exec (.xwr h a n) s = execXwr h a n s := rfl

theorem exec_cxrd (h : Hdr) (dst : Reg) (item : BitVec 16) (s : State) : exec (.cxrd h dst item) s = execCxrd h dst item s := rfl

theorem exec_cxwr (h : Hdr) (a : Reg) (item : BitVec 16) (s : State) : exec (.cxwr h a item) s = execCxwr h a item s := rfl

theorem exec_pmrd (h : Hdr) (dst : Reg) (a : Reg) (s : State) : exec (.pmrd h dst a) s = execPmrd h dst a s := rfl

theorem exec_pmrst (h : Hdr) (s : State) : exec (.pmrst h) s = execPmrst h s := rfl

theorem exec_genwait (h : Hdr) (dst : Reg) (a : Reg) (s : State) : exec (.genwait h dst a) s = execGenwait h dst a s := rfl

theorem exec_wgabort (h : Hdr) (a : Reg) (s : State) : exec (.wgabort h a) s = execWgabort h a s := rfl

theorem exec_vspawn (rd : XReg) (rs1 : XReg) (rs2 : XReg) (rs3 : XReg) (s : State) : exec (.vspawn rd rs1 rs2 rs3) s = execVspawn rd rs1 rs2 rs3 s := rfl

theorem exec_vjoin (rd : XReg) (rs1 : XReg) (s : State) : exec (.vjoin rd rs1) s = execVjoin rd rs1 s := rfl

theorem exec_vpoll (rd : XReg) (rs1 : XReg) (s : State) : exec (.vpoll rd rs1) s = execVpoll rd rs1 s := rfl

theorem exec_vjadd (rd : XReg) (rs1 : XReg) (rs2 : XReg) (s : State) : exec (.vjadd rd rs1 rs2) s = execVjadd rd rs1 rs2 s := rfl

theorem exec_vqbind (rd : XReg) (rs1 : XReg) (rs2 : XReg) (s : State) : exec (.vqbind rd rs1 rs2) s = execVqbind rd rs1 rs2 s := rfl

theorem exec_vqwait (rd : XReg) (s : State) : exec (.vqwait rd) s = execVqwait rd s := rfl

theorem exec_spawnCsrAccess (hart : Nat) (csr : CsrName) (write : Bool) (value : DWord) (rd : XReg) (s : State) : exec (.spawnCsrAccess hart csr write value rd) s = execSpawnCsrAccess hart csr write value rd s := rfl

theorem exec_trapEntry (w : Nat) (c : CauseInfo) (s : State) : exec (.trapEntry w c) s = execTrapEntry w c s := rfl

theorem exec_fouloReport (w : Nat) (c : CauseInfo) (s : State) : exec (.fouloReport w c) s = execFouloReport w c s := rfl

theorem exec_fouloResume (w : Nat) (s : State) : exec (.fouloResume w) s = execFouloResume w s := rfl

theorem exec_fouloDeliver (w : Nat) (s : State) : exec (.fouloDeliver w) s = execFouloDeliver w s := rfl

theorem exec_fouloSave (w : Nat) (s : State) : exec (.fouloSave w) s = execFouloSave w s := rfl

theorem exec_fouloTerminate (w : Nat) (s : State) : exec (.fouloTerminate w) s = execFouloTerminate w s := rfl

theorem exec_fouloKill (w : Nat) (s : State) : exec (.fouloKill w) s = execFouloKill w s := rfl

theorem exec_asyncEventDelivery (w : Nat) (s : State) : exec (.asyncEventDelivery w) s = execAsyncEventDelivery w s := rfl

theorem exec_referenceTick (chip : Nat) (s : State) : exec (.referenceTick chip) s = execReferenceTick chip s := rfl

theorem exec_watchdogStall (w : Nat) (s : State) : exec (.watchdogStall w) s = execWatchdogStall w s := rfl

theorem exec_watchdogOperator (g : Nat) (s : State) : exec (.watchdogOperator g) s = execWatchdogOperator g s := rfl

theorem exec_resultLanding (w : Nat) (idx : Nat) (s : State) : exec (.resultLanding w idx) s = execResultLanding w idx s := rfl

theorem exec_ldaLanding (w : Nat) (idx : Nat) (s : State) : exec (.ldaLanding w idx) s = execLdaLanding w idx s := rfl

theorem exec_windowStart (g : Nat) (s : State) : exec (.windowStart g) s = execWindowStart g s := rfl

theorem exec_windowResume (g : Nat) (s : State) : exec (.windowResume g) s = execWindowResume g s := rfl

theorem exec_windowEnd (g : Nat) (s : State) : exec (.windowEnd g) s = execWindowEnd g s := rfl

theorem exec_binTimeout (g : Nat) (bin : Nat) (s : State) : exec (.binTimeout g bin) s = execBinTimeout g bin s := rfl

theorem exec_warpForm (core : Nat) (s : State) : exec (.warpForm core) s = execWarpForm core s := rfl

theorem exec_streamElementForm (core : Nat) (s : State) : exec (.streamElementForm core) s = execStreamElementForm core s := rfl

theorem exec_streamDataReturn (g : Nat) (slot : Nat) (s : State) : exec (.streamDataReturn g slot) s = execStreamDataReturn g slot s := rfl

theorem exec_translationWalk (core : Nat) (fetch : Bool) (asid : Nat) (va : Nat) (acc : AccessKind) (s : State) : exec (.translationWalk core fetch asid va acc) s = execTranslationWalk core fetch asid va acc s := rfl

theorem exec_writeAtOwner (core : Nat) (idx : Nat) (s : State) : exec (.writeAtOwner core idx) s = execWriteAtOwner core idx s := rfl

theorem exec_scopeCheckerAnswer (w : Nat) (s : State) : exec (.scopeCheckerAnswer w) s = execScopeCheckerAnswer w s := rfl

theorem exec_barrierUpdate (g : Nat) (idx : Nat) (s : State) : exec (.barrierUpdate g idx) s = execBarrierUpdate g idx s := rfl

theorem exec_leatOperationStart (core : Nat) (drain : Bool) (s : State) : exec (.leatOperationStart core drain) s = execLeatOperationStart core drain s := rfl

theorem exec_leatLanding (core : Nat) (idx : Nat) (n : Nat) (s : State) : exec (.leatLanding core idx n) s = execLeatLanding core idx n s := rfl

theorem exec_leatArrival (core : Nat) (idx : Nat) (s : State) : exec (.leatArrival core idx) s = execLeatArrival core idx s := rfl

theorem exec_followOnDelivery (core : Nat) (idx : Nat) (s : State) : exec (.followOnDelivery core idx) s = execFollowOnDelivery core idx s := rfl

theorem exec_followOnEnterQueue (core : Nat) (s : State) : exec (.followOnEnterQueue core) s = execFollowOnEnterQueue core s := rfl

theorem exec_blockCopyDone (core : Nat) (idx : Nat) (s : State) : exec (.blockCopyDone core idx) s = execBlockCopyDone core idx s := rfl

theorem exec_blockReclaim (hub : Nat) (idx : Nat) (s : State) : exec (.blockReclaim hub idx) s = execBlockReclaim hub idx s := rfl

theorem exec_poolReturnRetry (hub : Nat) (s : State) : exec (.poolReturnRetry hub) s = execPoolReturnRetry hub s := rfl

theorem exec_matrixCommandStart (core : Nat) (idx : Nat) (s : State) : exec (.matrixCommandStart core idx) s = execMatrixCommandStart core idx s := rfl

theorem exec_matrixCommandComplete (core : Nat) (idx : Nat) (s : State) : exec (.matrixCommandComplete core idx) s = execMatrixCommandComplete core idx s := rfl

theorem exec_doorbellWrite (hub : Nat) (q : Nat) (value : Nat) (s : State) : exec (.doorbellWrite hub q value) s = execDoorbellWrite hub q value s := rfl

theorem exec_packetTake (hub : Nat) (q : Nat) (s : State) : exec (.packetTake hub q) s = execPacketTake hub q s := rfl

theorem exec_packetCompletion (p : Nat) (s : State) : exec (.packetCompletion p) s = execPacketCompletion p s := rfl

theorem exec_bindRecordWrite (hub : Nat) (slot : Nat) (w0 : Word) (w1 : Word) (w2 : Word) (w3 : Word) (s : State) : exec (.bindRecordWrite hub slot w0 w1 w2 w3) s = execBindRecordWrite hub slot w0 w1 w2 w3 s := rfl

theorem exec_dispatchPlace (hub : Nat) (s : State) : exec (.dispatchPlace hub) s = execDispatchPlace hub s := rfl

theorem exec_workgroupRetire (g : Nat) (s : State) : exec (.workgroupRetire g) s = execWorkgroupRetire g s := rfl

theorem exec_operatorBoundaryReached (g : Nat) (s : State) : exec (.operatorBoundaryReached g) s = execOperatorBoundaryReached g s := rfl

theorem exec_cooperativeHold (p : Nat) (s : State) : exec (.cooperativeHold p) s = execCooperativeHold p s := rfl

theorem exec_workgroupResume (g : Nat) (core : Nat) (s : State) : exec (.workgroupResume g core) s = execWorkgroupResume g core s := rfl

theorem exec_sluiceGrant (hub : Nat) (arb : Nat) (reqs : List Nat) (s : State) : exec (.sluiceGrant hub arb reqs) s = execSluiceGrant hub arb reqs s := rfl

theorem exec_sluiceGuaranteeWrite (hub : Nat) (arb : Nat) (vdev : Nat) (value : Word) (s : State) : exec (.sluiceGuaranteeWrite hub arb vdev value) s = execSluiceGuaranteeWrite hub arb vdev value s := rfl

theorem exec_weirRotation (hub : Nat) (s : State) : exec (.weirRotation hub) s = execWeirRotation hub s := rfl

theorem exec_admissionLimitWrite (core : Nat) (limit : Nat) (s : State) : exec (.admissionLimitWrite core limit) s = execAdmissionLimitWrite core limit s := rfl

theorem exec_partitionChange (part : Nat) (vdev : Nat) (cores : List Nat) (s : State) : exec (.partitionChange part vdev cores) s = execPartitionChange part vdev cores s := rfl

theorem exec_preemptSliceEnd (hub : Nat) (isPart : Bool) (target : Nat) (s : State) : exec (.preemptSliceEnd hub isPart target) s = execPreemptSliceEnd hub isPart target s := rfl

theorem exec_preemptUrgentHalt (hub : Nat) (isPart : Bool) (target : Nat) (s : State) : exec (.preemptUrgentHalt hub isPart target) s = execPreemptUrgentHalt hub isPart target s := rfl

theorem exec_preemptComplete (hub : Nat) (s : State) : exec (.preemptComplete hub) s = execPreemptComplete hub s := rfl

theorem exec_slotResume (hub : Nat) (slot : Nat) (s : State) : exec (.slotResume hub slot) s = execSlotResume hub slot s := rfl

theorem exec_contextKill (vdev : Nat) (s : State) : exec (.contextKill vdev) s = execContextKill vdev s := rfl

theorem exec_killAck (vdev : Nat) (unit : Nat) (s : State) : exec (.killAck vdev unit) s = execKillAck vdev unit s := rfl

theorem exec_killDrainComplete (vdev : Nat) (s : State) : exec (.killDrainComplete vdev) s = execKillDrainComplete vdev s := rfl

theorem exec_bankControlWrite (chip : Nat) (cluster : Nat) (bank : Nat) (value : Word) (s : State) : exec (.bankControlWrite chip cluster bank value) s = execBankControlWrite chip cluster bank value s := rfl

theorem exec_tlbInvalidate (hub : Nat) (scope : Nat) (asid : Nat) (va : Nat) (s : State) : exec (.tlbInvalidate hub scope asid va) s = execTlbInvalidate hub scope asid va s := rfl

theorem exec_powerWakeP0 (hub : Nat) (port : Nat) (core : Nat) (s : State) : exec (.powerWakeP0 hub port core) s = execPowerWakeP0 hub port core s := rfl

theorem exec_powerEnterC2 (hub : Nat) (port : Nat) (core : Nat) (s : State) : exec (.powerEnterC2 hub port core) s = execPowerEnterC2 hub port core s := rfl

theorem exec_powerLimitWrite (hub : Nat) (value : Word) (s : State) : exec (.powerLimitWrite hub value) s = execPowerLimitWrite hub value s := rfl

theorem exec_temperatureLimitWrite (hub : Nat) (value : Word) (s : State) : exec (.temperatureLimitWrite hub value) s = execTemperatureLimitWrite hub value s := rfl

theorem exec_c1Entry (core : Nat) (s : State) : exec (.c1Entry core) s = execC1Entry core s := rfl

theorem exec_c1Wake (core : Nat) (s : State) : exec (.c1Wake core) s = execC1Wake core s := rfl

theorem exec_deepSleep (hub : Nat) (s : State) : exec (.deepSleep hub) s = execDeepSleep hub s := rfl

theorem exec_s3Wake (s : State) : exec (.s3Wake) s = execS3Wake s := rfl

theorem exec_btDescriptorWrite (hub : Nat) (t : Nat) (word : Nat) (value : DWord) (s : State) : exec (.btDescriptorWrite hub t word value) s = execBtDescriptorWrite hub t word value s := rfl

theorem exec_poolDescriptorWrite (hub : Nat) (n : Nat) (word : Nat) (value : DWord) (s : State) : exec (.poolDescriptorWrite hub n word value) s = execPoolDescriptorWrite hub n word value s := rfl

theorem exec_poolPush (hub : Nat) (n : Nat) (block : Nat) (s : State) : exec (.poolPush hub n block) s = execPoolPush hub n block s := rfl

theorem exec_poolPop (hub : Nat) (n : Nat) (s : State) : exec (.poolPop hub n) s = execPoolPop hub n s := rfl

theorem exec_managementRegisterWrite (hub : Nat) (off : Nat) (size : Nat) (value : DWord) (s : State) : exec (.managementRegisterWrite hub off size value) s = execManagementRegisterWrite hub off size value s := rfl

theorem exec_linkTrained (hub : Nat) (port : Nat) (cap : List Byte) (s : State) : exec (.linkTrained hub port cap) s = execLinkTrained hub port cap s := rfl

theorem exec_trainingFail (hub : Nat) (port : Nat) (s : State) : exec (.trainingFail hub port) s = execTrainingFail hub port s := rfl

theorem exec_chipletAck (hub : Nat) (port : Nat) (s : State) : exec (.chipletAck hub port) s = execChipletAck hub port s := rfl

theorem exec_isolateCommand (hub : Nat) (port : Nat) (s : State) : exec (.isolateCommand hub port) s = execIsolateCommand hub port s := rfl

theorem exec_linkDown (hub : Nat) (port : Nat) (s : State) : exec (.linkDown hub port) s = execLinkDown hub port s := rfl

theorem exec_chipletFatalError (hub : Nat) (port : Nat) (s : State) : exec (.chipletFatalError hub port) s = execChipletFatalError hub port s := rfl

theorem exec_isolation (hub : Nat) (port : Nat) (s : State) : exec (.isolation hub port) s = execIsolation hub port s := rfl

theorem exec_portResetCommand (hub : Nat) (port : Nat) (s : State) : exec (.portResetCommand hub port) s = execPortResetCommand hub port s := rfl

theorem exec_flitReceive (hub : Nat) (port : Nat) (dir : Bool) (seq : Nat) (good : Bool) (msg : LinkMsg) (s : State) : exec (.flitReceive hub port dir seq good msg) s = execFlitReceive hub port dir seq good msg s := rfl

theorem exec_flitReplay (hub : Nat) (port : Nat) (dir : Bool) (s : State) : exec (.flitReplay hub port dir) s = execFlitReplay hub port dir s := rfl

theorem exec_equalisationPass (hub : Nat) (port : Nat) (m : Nat) (s : State) : exec (.equalisationPass hub port m) s = execEqualisationPass hub port m s := rfl

theorem exec_equalisationEnd (hub : Nat) (port : Nat) (m : Nat) (ok : Bool) (s : State) : exec (.equalisationEnd hub port m ok) s = execEqualisationEnd hub port m ok s := rfl

theorem exec_laneFallback (hub : Nat) (port : Nat) (m : Nat) (s : State) : exec (.laneFallback hub port m) s = execLaneFallback hub port m s := rfl

theorem exec_droopResponse (loc : Nat) (mv : Int) (s : State) : exec (.droopResponse loc mv) s = execDroopResponse loc mv s := rfl

theorem exec_frequencyStep (loc : Nat) (s : State) : exec (.frequencyStep loc) s = execFrequencyStep loc s := rfl

theorem exec_patrolScrub (hub : Nat) (sector : Nat) (found : ScrubResult) (s : State) : exec (.patrolScrub hub sector found) s = execPatrolScrub hub sector found s := rfl

theorem exec_scrubPeriodAdjust (hub : Nat) (kind : Bool) (corrections : Nat) (s : State) : exec (.scrubPeriodAdjust hub kind corrections) s = execScrubPeriodAdjust hub kind corrections s := rfl

theorem exec_ringResponseTimeout (w : Nat) (idx : Nat) (s : State) : exec (.ringResponseTimeout w idx) s = execRingResponseTimeout w idx s := rfl

theorem exec_remoteRequest (m : Nat) (seq : Nat) (req : RemoteReq) (s : State) : exec (.remoteRequest m seq req) s = execRemoteRequest m seq req s := rfl

theorem exec_remoteRouteTimeout (w : Nat) (idx : Nat) (s : State) : exec (.remoteRouteTimeout w idx) s = execRemoteRouteTimeout w idx s := rfl

theorem exec_kuduCachePoisonInterrupt (hart : Nat) (line : Nat) (s : State) : exec (.kuduCachePoisonInterrupt hart line) s = execKuduCachePoisonInterrupt hart line s := rfl

theorem exec_tenantPoisonHold (hub : Nat) (vdev : Nat) (s : State) : exec (.tenantPoisonHold hub vdev) s = execTenantPoisonHold hub vdev s := rfl

theorem exec_eventPost (hub : Nat) (q : Nat) (kind : Nat) (detail : Word) (s : State) : exec (.eventPost hub q kind detail) s = execEventPost hub q kind detail s := rfl

theorem exec_connectionOpen (saiga : Nat) (conn : Nat) (desc : List Byte) (s : State) : exec (.connectionOpen saiga conn desc) s = execConnectionOpen saiga conn desc s := rfl

theorem exec_sendLineNotify (saiga : Nat) (conn : Nat) (n : Nat) (s : State) : exec (.sendLineNotify saiga conn n) s = execSendLineNotify saiga conn n s := rfl

theorem exec_segmentReceive (saiga : Nat) (conn : Nat) (seq : Nat) (data : List Byte) (s : State) : exec (.segmentReceive saiga conn seq data) s = execSegmentReceive saiga conn seq data s := rfl

theorem exec_ackReceive (saiga : Nat) (conn : Nat) (upto : Nat) (s : State) : exec (.ackReceive saiga conn upto) s = execAckReceive saiga conn upto s := rfl

theorem exec_idcert (s : State) : exec (.idcert) s = execIdcert s := rfl

theorem exec_wcreate (w : Nat) (vdev : Nat) (owner : List Byte) (s : State) : exec (.wcreate w vdev owner) s = execWcreate w vdev owner s := rfl

theorem exec_wdestroy (w : Nat) (s : State) : exec (.wdestroy w) s = execWdestroy w s := rfl

theorem exec_extend (r : Nat) (item : List Byte) (label : List Byte) (s : State) : exec (.extend r item label) s = execExtend r item label s := rfl

theorem exec_lock (s : State) : exec (.lock) s = execLock s := rfl

theorem exec_readlog (seq : Nat) (s : State) : exec (.readlog seq) s = execReadlog seq s := rfl

theorem exec_evidence (vdev : Nat) (nonce : List Byte) (s : State) : exec (.evidence vdev nonce) s = execEvidence vdev nonce s := rfl

theorem exec_wrelease (w : Nat) (sig : List Byte) (s : State) : exec (.wrelease w sig) s = execWrelease w sig s := rfl

theorem exec_podevidence (nonce : List Byte) (s : State) : exec (.podevidence nonce) s = execPodevidence nonce s := rfl

theorem exec_podMemberAnswer (m : Nat) (record : List Byte) (s : State) : exec (.podMemberAnswer m record) s = execPodMemberAnswer m record s := rfl

theorem exec_podGatherTimeout (s : State) : exec (.podGatherTimeout) s = execPodGatherTimeout s := rfl

theorem exec_moduleReset (s : State) : exec (.moduleReset) s = execModuleReset s := rfl

theorem exec_managementRegisterRead (hub : Nat) (off : Nat) (size : Nat) (s : State) : exec (.managementRegisterRead hub off size) s = execManagementRegisterRead hub off size s := rfl

theorem exec_retransmission (saiga : Nat) (conn : Nat) (s : State) : exec (.retransmission saiga conn) s = execRetransmission saiga conn s := rfl

theorem exec_connectionClose (saiga : Nat) (conn : Nat) (s : State) : exec (.connectionClose saiga conn) s = execConnectionClose saiga conn s := rfl

theorem exec_hartInterrupt (hart : Nat) (n : Nat) (s : State) : exec (.hartInterrupt hart n) s = execHartInterrupt hart n s := rfl

theorem exec_kuduHartAccess (hart : Nat) (kind : HartAccess) (rd : XReg) (va : Nat) (size : Nat) (value : DWord) (s : State) : exec (.kuduHartAccess hart kind rd va size value) s = execKuduHartAccess hart kind rd va size value s := rfl

end Sys2Proof.Machine
end

