-- ==== Sys2Proof/Laws/Encoding.lean ====
section
/-! SUPPORT. How the fields of an instruction word are joined and cut: what the encoding lemmas rest on. -/

namespace Sys2Proof.Laws

open Sys2Proof

/-- Two bytes of a number joined. -/
theorem e16 (x : BitVec 16) : x.extractLsb' 8 8 ++ x.extractLsb' 0 8 = x := by
  ext i hi
  rw [BitVec.getElem_append]; split
  · rw [BitVec.getElem_extractLsb']; simp [BitVec.getLsbD_eq_getElem hi]
  · rw [BitVec.getElem_extractLsb', show 8 + (i - 8) = i by omega, BitVec.getLsbD_eq_getElem hi]

/-- Three bytes of a number joined. -/
theorem e24 (x : BitVec 24) : x.extractLsb' 16 8 ++ x.extractLsb' 8 8 ++ x.extractLsb' 0 8 = x := by
  ext i hi
  simp only [BitVec.getElem_append, BitVec.getElem_extractLsb']
  split
  · simp [BitVec.getLsbD_eq_getElem hi]
  · split
    · rw [show 8 + (i - 8) = i by omega, BitVec.getLsbD_eq_getElem hi]
    · rw [show 16 + (i - 8 - 8) = i by omega, BitVec.getLsbD_eq_getElem hi]

/-- Four bytes of a number joined. -/
theorem e32 (x : BitVec 32) :
    x.extractLsb' 24 8 ++ x.extractLsb' 16 8 ++ x.extractLsb' 8 8 ++ x.extractLsb' 0 8 = x := by
  ext i hi
  simp only [BitVec.getElem_append, BitVec.getElem_extractLsb']
  split
  · simp [BitVec.getLsbD_eq_getElem hi]
  · split
    · rw [show 8 + (i - 8) = i by omega, BitVec.getLsbD_eq_getElem hi]
    · split
      · rw [show 16 + (i - 8 - 8) = i by omega, BitVec.getLsbD_eq_getElem hi]
      · rw [show 24 + (i - 8 - 8 - 8) = i by omega, BitVec.getLsbD_eq_getElem hi]

/-- A field of 3 bits in a byte. -/
theorem small3 (x : BitVec 3) : x.toNat % 256 < 8 := by
  have := x.isLt
  omega

/-- A field of 4 bits in a byte. -/
theorem small4 (x : BitVec 4) : x.toNat % 256 < 16 := by
  have := x.isLt
  omega

/-- A field of 5 bits in a byte. -/
theorem small5 (x : BitVec 5) : x.toNat % 256 < 32 := by
  have := x.isLt
  omega

/-- A field of 6 bits in a byte. -/
theorem small6 (x : BitVec 6) : x.toNat % 256 < 64 := by
  have := x.isLt
  omega

/-- The operation of a minor opcode that carries a scope. -/
theorem minorHi (k : Nat) (sc : BitVec 4) (h : k % 16 = 0 := by decide) (hk : k < 256 := by decide) :
    (k + sc.toNat) % 256 / 16 = k / 16 := by
  have := sc.isLt
  omega

/-- The operation of the lowest minor opcodes that carry a scope. -/
theorem minor0 (sc : BitVec 4) : sc.toNat % 256 / 16 = 0 := by
  have := sc.isLt
  omega

/-- The scope of a minor opcode that carries one. -/
theorem minorLo (k : Nat) (sc : BitVec 4) (h : k % 16 = 0 := by decide) :
    BitVec.setWidth 4 (BitVec.ofNat 8 (k + sc.toNat)) = sc := by
  have := sc.isLt
  apply BitVec.eq_of_toNat_eq
  simp
  omega

/-- Cutting the upper part of two joined fields. -/
theorem cutHigh {m n : Nat} (x : BitVec m) (y : BitVec n) (a k : Nat) (h : n ≤ a) :
    (x ++ y).extractLsb' a k = x.extractLsb' (a - n) k := by
  ext i hi
  simp only [BitVec.getElem_extractLsb', BitVec.getLsbD_append]
  rw [if_neg (by omega), show a + i - n = a - n + i by omega]

/-- Cutting the lower part of two joined fields. -/
theorem cutLow {m n : Nat} (x : BitVec m) (y : BitVec n) (a k : Nat) (h : a + k ≤ n) :
    (x ++ y).extractLsb' a k = y.extractLsb' a k := by
  ext i hi
  simp only [BitVec.getElem_extractLsb', BitVec.getLsbD_append]
  rw [if_pos (by omega)]

/-- Cutting all of a field. -/
theorem cutAll {n : Nat} (x : BitVec n) : x.extractLsb' 0 n = x := by
  simp

/-- The opcode of a custom-0 word. -/
theorem kuduOp (top : BitVec 12) (rs1 : XReg) (f3 : BitVec 3) (rd : XReg) :
    (kuduWord top rs1 f3 rd).extractLsb' 0 7 = 0x0B#7 :=
  (cutLow (top ++ rs1 ++ f3 ++ rd) 0x0B#7 0 7 (by decide)).trans (cutAll _)

/-- The destination field of a custom-0 word. -/
theorem kuduRd (top : BitVec 12) (rs1 : XReg) (f3 : BitVec 3) (rd : XReg) :
    (kuduWord top rs1 f3 rd).extractLsb' 7 5 = rd :=
  (cutHigh (top ++ rs1 ++ f3 ++ rd) 0x0B#7 7 5 (by decide)).trans
    ((cutLow (top ++ rs1 ++ f3) rd 0 5 (by decide)).trans (cutAll _))

/-- The funct3 field of a custom-0 word. -/
theorem kuduF3 (top : BitVec 12) (rs1 : XReg) (f3 : BitVec 3) (rd : XReg) :
    (kuduWord top rs1 f3 rd).extractLsb' 12 3 = f3 :=
  (cutHigh (top ++ rs1 ++ f3 ++ rd) 0x0B#7 12 3 (by decide)).trans
    ((cutHigh (top ++ rs1 ++ f3) rd 5 3 (by decide)).trans ((cutLow (top ++ rs1) f3 0 3 (by decide)).trans (cutAll _)))

/-- The first source field of a custom-0 word. -/
theorem kuduRs1 (top : BitVec 12) (rs1 : XReg) (f3 : BitVec 3) (rd : XReg) :
    (kuduWord top rs1 f3 rd).extractLsb' 15 5 = rs1 :=
  (cutHigh (top ++ rs1 ++ f3 ++ rd) 0x0B#7 15 5 (by decide)).trans
    ((cutHigh (top ++ rs1 ++ f3) rd 8 5 (by decide)).trans ((cutHigh (top ++ rs1) f3 3 5 (by decide)).trans
      ((cutLow top rs1 0 5 (by decide)).trans (cutAll _))))

/-- Fields of the top twelve bits of a custom-0 word. -/
theorem kuduTop (top : BitVec 12) (rs1 : XReg) (f3 : BitVec 3) (rd : XReg) (a k : Nat) (h : 20 ≤ a) :
    (kuduWord top rs1 f3 rd).extractLsb' a k = top.extractLsb' (a - 20) k := by
  refine (cutHigh (top ++ rs1 ++ f3 ++ rd) 0x0B#7 a k (by omega)).trans
    ((cutHigh (top ++ rs1 ++ f3) rd (a - 7) k (by omega)).trans ((cutHigh (top ++ rs1) f3 (a - 7 - 5) k (by omega)).trans
      ((cutHigh top rs1 (a - 7 - 5 - 3) k (by omega)).trans ?_)))
  rw [show a - 7 - 5 - 3 - 5 = a - 20 by omega]

/-- The top seventeen bits of a custom-0 word without sources. -/
theorem kuduLow (f3 : BitVec 3) (rd : XReg) : (kuduWord 0 0 f3 rd).extractLsb' 15 17 = 0 := by
  refine (cutHigh ((0 : BitVec 12) ++ (0 : XReg) ++ f3 ++ rd) 0x0B#7 15 17 (by decide)).trans
    ((cutHigh ((0 : BitVec 12) ++ (0 : XReg) ++ f3) rd 8 17 (by decide)).trans ?_)
  exact (cutHigh ((0 : BitVec 12) ++ (0 : XReg)) f3 3 17 (by decide)).trans (by decide)

/-- The fields that name a third source. -/
theorem top3 (x y : XReg) : (x ++ 0#2 ++ y : BitVec 12).extractLsb' 0 5 = y ∧ (x ++ 0#2 ++ y : BitVec 12).extractLsb' 5 2 = 0
    ∧ (x ++ 0#2 ++ y : BitVec 12).extractLsb' 7 5 = x :=
  ⟨(cutLow (x ++ 0#2) y 0 5 (by decide)).trans (cutAll _),
   (cutHigh (x ++ 0#2) y 5 2 (by decide)).trans ((cutLow x 0#2 0 2 (by decide)).trans (cutAll _)),
   (cutHigh (x ++ 0#2) y 7 5 (by decide)).trans ((cutHigh x 0#2 2 5 (by decide)).trans (cutAll _))⟩

/-- The fields that name a second source. -/
theorem top2 (y : XReg) : (0#7 ++ y : BitVec 12).extractLsb' 0 5 = y ∧ (0#7 ++ y : BitVec 12).extractLsb' 5 7 = 0 :=
  ⟨(cutLow 0#7 y 0 5 (by decide)).trans (cutAll _), (cutHigh 0#7 y 5 7 (by decide)).trans (cutAll _)⟩

/-- The word of VSPAWN decodes to it. -/
theorem kudu_vspawn (rd rs1 rs2 rs3 : XReg) : decodeKudu (kuduWord (rs3 ++ 0#2 ++ rs2) rs1 0 rd) = .ok (.vspawn rd rs1 rs2 rs3) := by
  simp only [decodeKudu, kuduOp, kuduRd, kuduF3, kuduRs1, kuduTop _ _ _ _ 20 5 (by decide), kuduTop _ _ _ _ 25 2 (by decide),
    kuduTop _ _ _ _ 27 5 (by decide)]
  simp only [Nat.reduceSub, (top3 rs3 rs2).1, (top3 rs3 rs2).2.1, (top3 rs3 rs2).2.2]
  rfl

/-- The word of VJOIN decodes to it. -/
theorem kudu_vjoin (rd rs1 : XReg) : decodeKudu (kuduWord 0 rs1 1 rd) = .ok (.vjoin rd rs1) := by
  simp only [decodeKudu, kuduOp, kuduRd, kuduF3, kuduRs1, kuduTop _ _ _ _ 20 12 (by decide)]
  rfl

/-- The word of VPOLL decodes to it. -/
theorem kudu_vpoll (rd rs1 : XReg) : decodeKudu (kuduWord 0 rs1 2 rd) = .ok (.vpoll rd rs1) := by
  simp only [decodeKudu, kuduOp, kuduRd, kuduF3, kuduRs1, kuduTop _ _ _ _ 20 12 (by decide)]
  rfl

/-- The word of VJADD decodes to it. -/
theorem kudu_vjadd (rd rs1 rs2 : XReg) : decodeKudu (kuduWord (0#7 ++ rs2) rs1 3 rd) = .ok (.vjadd rd rs1 rs2) := by
  simp only [decodeKudu, kuduOp, kuduRd, kuduF3, kuduRs1, kuduTop _ _ _ _ 20 5 (by decide), kuduTop _ _ _ _ 25 7 (by decide)]
  simp only [Nat.reduceSub, (top2 rs2).1, (top2 rs2).2]
  rfl

/-- The word of VQBIND decodes to it. -/
theorem kudu_vqbind (rd rs1 rs2 : XReg) : decodeKudu (kuduWord (0#7 ++ rs2) rs1 4 rd) = .ok (.vqbind rd rs1 rs2) := by
  simp only [decodeKudu, kuduOp, kuduRd, kuduF3, kuduRs1, kuduTop _ _ _ _ 20 5 (by decide), kuduTop _ _ _ _ 25 7 (by decide)]
  simp only [Nat.reduceSub, (top2 rs2).1, (top2 rs2).2]
  rfl

/-- The word of VQWAIT decodes to it. -/
theorem kudu_vqwait (rd : XReg) : decodeKudu (kuduWord 0 0 5 rd) = .ok (.vqwait rd) := by
  simp only [decodeKudu, kuduOp, kuduRd, kuduF3, kuduLow]
  rfl

/-- One bit of a word, as a field of one bit. -/
theorem bitOfCut {n : Nat} (x : BitVec n) (i : Nat) : x.getLsbD i = (x.extractLsb' i 1).getLsbD 0 := by
  simp

/-- Cutting a joined word gives its fields back. -/
theorem ofWord_toWord (r : Raw) : Raw.ofWord r.toWord = r := by
  obtain ⟨gap, major, g, s, guard, dst, a, b, c, minor⟩ := r
  simp only [Raw.toWord, Raw.ofWord, Raw.mk.injEq]
  refine ⟨?_, ?_, ?_, ?_, ?_, ?_, ?_, ?_, ?_, ?_⟩
  · exact (cutHigh (gap ++ major ++ BitVec.ofBool g ++ BitVec.ofBool s ++ guard ++ dst ++ a ++ b ++ c) minor 54 10 (by decide)).trans
      ((cutHigh (gap ++ major ++ BitVec.ofBool g ++ BitVec.ofBool s ++ guard ++ dst ++ a ++ b) c 46 10 (by decide)).trans
      ((cutHigh (gap ++ major ++ BitVec.ofBool g ++ BitVec.ofBool s ++ guard ++ dst ++ a) b 38 10 (by decide)).trans
      ((cutHigh (gap ++ major ++ BitVec.ofBool g ++ BitVec.ofBool s ++ guard ++ dst) a 30 10 (by decide)).trans
      ((cutHigh (gap ++ major ++ BitVec.ofBool g ++ BitVec.ofBool s ++ guard) dst 22 10 (by decide)).trans
      ((cutHigh (gap ++ major ++ BitVec.ofBool g ++ BitVec.ofBool s) guard 14 10 (by decide)).trans
      ((cutHigh (gap ++ major ++ BitVec.ofBool g) (BitVec.ofBool s) 8 10 (by decide)).trans
      ((cutHigh (gap ++ major) (BitVec.ofBool g) 7 10 (by decide)).trans
      ((cutHigh (gap) major 6 10 (by decide)).trans
      (cutAll _)))))))))
  · exact (cutHigh (gap ++ major ++ BitVec.ofBool g ++ BitVec.ofBool s ++ guard ++ dst ++ a ++ b ++ c) minor 48 6 (by decide)).trans
      ((cutHigh (gap ++ major ++ BitVec.ofBool g ++ BitVec.ofBool s ++ guard ++ dst ++ a ++ b) c 40 6 (by decide)).trans
      ((cutHigh (gap ++ major ++ BitVec.ofBool g ++ BitVec.ofBool s ++ guard ++ dst ++ a) b 32 6 (by decide)).trans
      ((cutHigh (gap ++ major ++ BitVec.ofBool g ++ BitVec.ofBool s ++ guard ++ dst) a 24 6 (by decide)).trans
      ((cutHigh (gap ++ major ++ BitVec.ofBool g ++ BitVec.ofBool s ++ guard) dst 16 6 (by decide)).trans
      ((cutHigh (gap ++ major ++ BitVec.ofBool g ++ BitVec.ofBool s) guard 8 6 (by decide)).trans
      ((cutHigh (gap ++ major ++ BitVec.ofBool g) (BitVec.ofBool s) 2 6 (by decide)).trans
      ((cutHigh (gap ++ major) (BitVec.ofBool g) 1 6 (by decide)).trans
      ((cutLow (gap) major 0 6 (by decide)).trans
      (cutAll _)))))))))
  · refine (bitOfCut _ _).trans ((congrArg (fun x : BitVec 1 => x.getLsbD 0) ((cutHigh (gap ++ major ++ BitVec.ofBool g ++ BitVec.ofBool s ++ guard ++ dst ++ a ++ b ++ c) minor 47 1 (by decide)).trans
      ((cutHigh (gap ++ major ++ BitVec.ofBool g ++ BitVec.ofBool s ++ guard ++ dst ++ a ++ b) c 39 1 (by decide)).trans
      ((cutHigh (gap ++ major ++ BitVec.ofBool g ++ BitVec.ofBool s ++ guard ++ dst ++ a) b 31 1 (by decide)).trans
      ((cutHigh (gap ++ major ++ BitVec.ofBool g ++ BitVec.ofBool s ++ guard ++ dst) a 23 1 (by decide)).trans
      ((cutHigh (gap ++ major ++ BitVec.ofBool g ++ BitVec.ofBool s ++ guard) dst 15 1 (by decide)).trans
      ((cutHigh (gap ++ major ++ BitVec.ofBool g ++ BitVec.ofBool s) guard 7 1 (by decide)).trans
      ((cutHigh (gap ++ major ++ BitVec.ofBool g) (BitVec.ofBool s) 1 1 (by decide)).trans
      ((cutLow (gap ++ major) (BitVec.ofBool g) 0 1 (by decide)).trans
      (cutAll _)))))))))).trans (by cases g <;> rfl))
  · refine (bitOfCut _ _).trans ((congrArg (fun x : BitVec 1 => x.getLsbD 0) ((cutHigh (gap ++ major ++ BitVec.ofBool g ++ BitVec.ofBool s ++ guard ++ dst ++ a ++ b ++ c) minor 46 1 (by decide)).trans
      ((cutHigh (gap ++ major ++ BitVec.ofBool g ++ BitVec.ofBool s ++ guard ++ dst ++ a ++ b) c 38 1 (by decide)).trans
      ((cutHigh (gap ++ major ++ BitVec.ofBool g ++ BitVec.ofBool s ++ guard ++ dst ++ a) b 30 1 (by decide)).trans
      ((cutHigh (gap ++ major ++ BitVec.ofBool g ++ BitVec.ofBool s ++ guard ++ dst) a 22 1 (by decide)).trans
      ((cutHigh (gap ++ major ++ BitVec.ofBool g ++ BitVec.ofBool s ++ guard) dst 14 1 (by decide)).trans
      ((cutHigh (gap ++ major ++ BitVec.ofBool g ++ BitVec.ofBool s) guard 6 1 (by decide)).trans
      ((cutLow (gap ++ major ++ BitVec.ofBool g) (BitVec.ofBool s) 0 1 (by decide)).trans
      (cutAll _))))))))).trans (by cases s <;> rfl))
  · exact (cutHigh (gap ++ major ++ BitVec.ofBool g ++ BitVec.ofBool s ++ guard ++ dst ++ a ++ b ++ c) minor 40 6 (by decide)).trans
      ((cutHigh (gap ++ major ++ BitVec.ofBool g ++ BitVec.ofBool s ++ guard ++ dst ++ a ++ b) c 32 6 (by decide)).trans
      ((cutHigh (gap ++ major ++ BitVec.ofBool g ++ BitVec.ofBool s ++ guard ++ dst ++ a) b 24 6 (by decide)).trans
      ((cutHigh (gap ++ major ++ BitVec.ofBool g ++ BitVec.ofBool s ++ guard ++ dst) a 16 6 (by decide)).trans
      ((cutHigh (gap ++ major ++ BitVec.ofBool g ++ BitVec.ofBool s ++ guard) dst 8 6 (by decide)).trans
      ((cutLow (gap ++ major ++ BitVec.ofBool g ++ BitVec.ofBool s) guard 0 6 (by decide)).trans
      (cutAll _))))))
  · exact (cutHigh (gap ++ major ++ BitVec.ofBool g ++ BitVec.ofBool s ++ guard ++ dst ++ a ++ b ++ c) minor 32 8 (by decide)).trans
      ((cutHigh (gap ++ major ++ BitVec.ofBool g ++ BitVec.ofBool s ++ guard ++ dst ++ a ++ b) c 24 8 (by decide)).trans
      ((cutHigh (gap ++ major ++ BitVec.ofBool g ++ BitVec.ofBool s ++ guard ++ dst ++ a) b 16 8 (by decide)).trans
      ((cutHigh (gap ++ major ++ BitVec.ofBool g ++ BitVec.ofBool s ++ guard ++ dst) a 8 8 (by decide)).trans
      ((cutLow (gap ++ major ++ BitVec.ofBool g ++ BitVec.ofBool s ++ guard) dst 0 8 (by decide)).trans
      (cutAll _)))))
  · exact (cutHigh (gap ++ major ++ BitVec.ofBool g ++ BitVec.ofBool s ++ guard ++ dst ++ a ++ b ++ c) minor 24 8 (by decide)).trans
      ((cutHigh (gap ++ major ++ BitVec.ofBool g ++ BitVec.ofBool s ++ guard ++ dst ++ a ++ b) c 16 8 (by decide)).trans
      ((cutHigh (gap ++ major ++ BitVec.ofBool g ++ BitVec.ofBool s ++ guard ++ dst ++ a) b 8 8 (by decide)).trans
      ((cutLow (gap ++ major ++ BitVec.ofBool g ++ BitVec.ofBool s ++ guard ++ dst) a 0 8 (by decide)).trans
      (cutAll _))))
  · exact (cutHigh (gap ++ major ++ BitVec.ofBool g ++ BitVec.ofBool s ++ guard ++ dst ++ a ++ b ++ c) minor 16 8 (by decide)).trans
      ((cutHigh (gap ++ major ++ BitVec.ofBool g ++ BitVec.ofBool s ++ guard ++ dst ++ a ++ b) c 8 8 (by decide)).trans
      ((cutLow (gap ++ major ++ BitVec.ofBool g ++ BitVec.ofBool s ++ guard ++ dst ++ a) b 0 8 (by decide)).trans
      (cutAll _)))
  · exact (cutHigh (gap ++ major ++ BitVec.ofBool g ++ BitVec.ofBool s ++ guard ++ dst ++ a ++ b ++ c) minor 8 8 (by decide)).trans
      ((cutLow (gap ++ major ++ BitVec.ofBool g ++ BitVec.ofBool s ++ guard ++ dst ++ a ++ b) c 0 8 (by decide)).trans
      (cutAll _))
  · exact (cutLow (gap ++ major ++ BitVec.ofBool g ++ BitVec.ofBool s ++ guard ++ dst ++ a ++ b ++ c) minor 0 8 (by decide)).trans
      (cutAll _)

end Sys2Proof.Laws
end

