-- ==== Sys2Proof/Laws/State.lean ====
section
/-! SUPPORT. The fields of a state after each named update: one lemma for each field, so that no proof unfolds an update. -/

namespace Sys2Proof.Machine

set_option Elab.async false

@[simp] theorem State.mem_setCore (s : State) (c : Nat) (x : Core) : (s.setCore c x).mem = s.mem := rfl
@[simp] theorem State.poisoned_setCore (s : State) (c : Nat) (x : Core) : (s.setCore c x).poisoned = s.poisoned := rfl
@[simp] theorem State.seals_setCore (s : State) (c : Nat) (x : Core) : (s.setCore c x).seals = s.seals := rfl
@[simp] theorem State.lines_setCore (s : State) (c : Nat) (x : Core) : (s.setCore c x).lines = s.lines := rfl
@[simp] theorem State.watched_setCore (s : State) (c : Nat) (x : Core) : (s.setCore c x).watched = s.watched := rfl
@[simp] theorem State.dir_setCore (s : State) (c : Nat) (x : Core) : (s.setCore c x).dir = s.dir := rfl
@[simp] theorem State.recs_setCore (s : State) (c : Nat) (x : Core) : (s.setCore c x).recs = s.recs := rfl
@[simp] theorem State.recOrder_setCore (s : State) (c : Nat) (x : Core) : (s.setCore c x).recOrder = s.recOrder := rfl
@[simp] theorem State.banks_setCore (s : State) (c : Nat) (x : Core) : (s.setCore c x).banks = s.banks := rfl
@[simp] theorem State.clines_setCore (s : State) (c : Nat) (x : Core) : (s.setCore c x).clines = s.clines := rfl
@[simp] theorem State.cways_setCore (s : State) (c : Nat) (x : Core) : (s.setCore c x).cways = s.cways := rfl
@[simp] theorem State.llc_setCore (s : State) (c : Nat) (x : Core) : (s.setCore c x).llc = s.llc := rfl
@[simp] theorem State.lways_setCore (s : State) (c : Nat) (x : Core) : (s.setCore c x).lways = s.lways := rfl
@[simp] theorem State.ccopies_setCore (s : State) (c : Nat) (x : Core) : (s.setCore c x).ccopies = s.ccopies := rfl
@[simp] theorem State.uses_setCore (s : State) (c : Nat) (x : Core) : (s.setCore c x).uses = s.uses := rfl
@[simp] theorem State.warps_setCore (s : State) (c : Nat) (x : Core) : (s.setCore c x).warps = s.warps := rfl
@[simp] theorem State.wgs_setCore (s : State) (c : Nat) (x : Core) : (s.setCore c x).wgs = s.wgs := rfl
@[simp] theorem State.cores_setCore (s : State) (c : Nat) (x : Core) : (s.setCore c x).cores = Table.put {} c x s.cores := rfl
@[simp] theorem State.chips_setCore (s : State) (c : Nat) (x : Core) : (s.setCore c x).chips = s.chips := rfl
@[simp] theorem State.hubs_setCore (s : State) (c : Nat) (x : Core) : (s.setCore c x).hubs = s.hubs := rfl
@[simp] theorem State.harts_setCore (s : State) (c : Nat) (x : Core) : (s.setCore c x).harts = s.harts := rfl
@[simp] theorem State.pkts_setCore (s : State) (c : Nat) (x : Core) : (s.setCore c x).pkts = s.pkts := rfl
@[simp] theorem State.warpSeq_setCore (s : State) (c : Nat) (x : Core) : (s.setCore c x).warpSeq = s.warpSeq := rfl
@[simp] theorem State.wgSeq_setCore (s : State) (c : Nat) (x : Core) : (s.setCore c x).wgSeq = s.wgSeq := rfl
@[simp] theorem State.pktSeq_setCore (s : State) (c : Nat) (x : Core) : (s.setCore c x).pktSeq = s.pktSeq := rfl
@[simp] theorem State.opSeq_setCore (s : State) (c : Nat) (x : Core) : (s.setCore c x).opSeq = s.opSeq := rfl
@[simp] theorem State.lambda_setCore (s : State) (c : Nat) (x : Core) : (s.setCore c x).lambda = s.lambda := rfl
@[simp] theorem State.worlds_setCore (s : State) (c : Nat) (x : Core) : (s.setCore c x).worlds = s.worlds := rfl
@[simp] theorem State.keyCount_setCore (s : State) (c : Nat) (x : Core) : (s.setCore c x).keyCount = s.keyCount := rfl
@[simp] theorem State.tenants_setCore (s : State) (c : Nat) (x : Core) : (s.setCore c x).tenants = s.tenants := rfl
@[simp] theorem State.partsOwner_setCore (s : State) (c : Nat) (x : Core) : (s.setCore c x).partsOwner = s.partsOwner := rfl
@[simp] theorem State.roots_setCore (s : State) (c : Nat) (x : Core) : (s.setCore c x).roots = s.roots := rfl
@[simp] theorem State.modulePower_setCore (s : State) (c : Nat) (x : Core) : (s.setCore c x).modulePower = s.modulePower := rfl
@[simp] theorem State.asleep_setCore (s : State) (c : Nat) (x : Core) : (s.setCore c x).asleep = s.asleep := rfl
@[simp] theorem State.engine_setCore (s : State) (c : Nat) (x : Core) : (s.setCore c x).engine = s.engine := rfl
@[simp] theorem State.remote_setCore (s : State) (c : Nat) (x : Core) : (s.setCore c x).remote = s.remote := rfl
@[simp] theorem State.remoteSent_setCore (s : State) (c : Nat) (x : Core) : (s.setCore c x).remoteSent = s.remoteSent := rfl
@[simp] theorem State.lastWriter_setCore (s : State) (c : Nat) (x : Core) : (s.setCore c x).lastWriter = s.lastWriter := rfl
@[simp] theorem State.me_setCore (s : State) (c : Nat) (x : Core) : (s.setCore c x).me = s.me := rfl
@[simp] theorem State.hart_setCore (s : State) (c : Nat) (x : Core) : (s.setCore c x).hart = s.hart := rfl
@[simp] theorem State.agenda_setCore (s : State) (c : Nat) (x : Core) : (s.setCore c x).agenda = s.agenda := rfl
@[simp] theorem State.round_setCore (s : State) (c : Nat) (x : Core) : (s.setCore c x).round = s.round := rfl
@[simp] theorem State.passedOver_setCore (s : State) (c : Nat) (x : Core) : (s.setCore c x).passedOver = s.passedOver := rfl
@[simp] theorem State.dbgOut_setCore (s : State) (c : Nat) (x : Core) : (s.setCore c x).dbgOut = s.dbgOut := rfl
@[simp] theorem State.free_setCore (s : State) (c : Nat) (x : Core) : (s.setCore c x).free = s.free := rfl

@[simp] theorem State.mem_setChip (s : State) (c : Nat) (x : Chip) : (s.setChip c x).mem = s.mem := rfl
@[simp] theorem State.poisoned_setChip (s : State) (c : Nat) (x : Chip) : (s.setChip c x).poisoned = s.poisoned := rfl
@[simp] theorem State.seals_setChip (s : State) (c : Nat) (x : Chip) : (s.setChip c x).seals = s.seals := rfl
@[simp] theorem State.lines_setChip (s : State) (c : Nat) (x : Chip) : (s.setChip c x).lines = s.lines := rfl
@[simp] theorem State.watched_setChip (s : State) (c : Nat) (x : Chip) : (s.setChip c x).watched = s.watched := rfl
@[simp] theorem State.dir_setChip (s : State) (c : Nat) (x : Chip) : (s.setChip c x).dir = s.dir := rfl
@[simp] theorem State.recs_setChip (s : State) (c : Nat) (x : Chip) : (s.setChip c x).recs = s.recs := rfl
@[simp] theorem State.recOrder_setChip (s : State) (c : Nat) (x : Chip) : (s.setChip c x).recOrder = s.recOrder := rfl
@[simp] theorem State.banks_setChip (s : State) (c : Nat) (x : Chip) : (s.setChip c x).banks = s.banks := rfl
@[simp] theorem State.clines_setChip (s : State) (c : Nat) (x : Chip) : (s.setChip c x).clines = s.clines := rfl
@[simp] theorem State.cways_setChip (s : State) (c : Nat) (x : Chip) : (s.setChip c x).cways = s.cways := rfl
@[simp] theorem State.llc_setChip (s : State) (c : Nat) (x : Chip) : (s.setChip c x).llc = s.llc := rfl
@[simp] theorem State.lways_setChip (s : State) (c : Nat) (x : Chip) : (s.setChip c x).lways = s.lways := rfl
@[simp] theorem State.ccopies_setChip (s : State) (c : Nat) (x : Chip) : (s.setChip c x).ccopies = s.ccopies := rfl
@[simp] theorem State.uses_setChip (s : State) (c : Nat) (x : Chip) : (s.setChip c x).uses = s.uses := rfl
@[simp] theorem State.warps_setChip (s : State) (c : Nat) (x : Chip) : (s.setChip c x).warps = s.warps := rfl
@[simp] theorem State.wgs_setChip (s : State) (c : Nat) (x : Chip) : (s.setChip c x).wgs = s.wgs := rfl
@[simp] theorem State.cores_setChip (s : State) (c : Nat) (x : Chip) : (s.setChip c x).cores = s.cores := rfl
@[simp] theorem State.chips_setChip (s : State) (c : Nat) (x : Chip) : (s.setChip c x).chips = Table.put {} c x s.chips := rfl
@[simp] theorem State.hubs_setChip (s : State) (c : Nat) (x : Chip) : (s.setChip c x).hubs = s.hubs := rfl
@[simp] theorem State.harts_setChip (s : State) (c : Nat) (x : Chip) : (s.setChip c x).harts = s.harts := rfl
@[simp] theorem State.pkts_setChip (s : State) (c : Nat) (x : Chip) : (s.setChip c x).pkts = s.pkts := rfl
@[simp] theorem State.warpSeq_setChip (s : State) (c : Nat) (x : Chip) : (s.setChip c x).warpSeq = s.warpSeq := rfl
@[simp] theorem State.wgSeq_setChip (s : State) (c : Nat) (x : Chip) : (s.setChip c x).wgSeq = s.wgSeq := rfl
@[simp] theorem State.pktSeq_setChip (s : State) (c : Nat) (x : Chip) : (s.setChip c x).pktSeq = s.pktSeq := rfl
@[simp] theorem State.opSeq_setChip (s : State) (c : Nat) (x : Chip) : (s.setChip c x).opSeq = s.opSeq := rfl
@[simp] theorem State.lambda_setChip (s : State) (c : Nat) (x : Chip) : (s.setChip c x).lambda = s.lambda := rfl
@[simp] theorem State.worlds_setChip (s : State) (c : Nat) (x : Chip) : (s.setChip c x).worlds = s.worlds := rfl
@[simp] theorem State.keyCount_setChip (s : State) (c : Nat) (x : Chip) : (s.setChip c x).keyCount = s.keyCount := rfl
@[simp] theorem State.tenants_setChip (s : State) (c : Nat) (x : Chip) : (s.setChip c x).tenants = s.tenants := rfl
@[simp] theorem State.partsOwner_setChip (s : State) (c : Nat) (x : Chip) : (s.setChip c x).partsOwner = s.partsOwner := rfl
@[simp] theorem State.roots_setChip (s : State) (c : Nat) (x : Chip) : (s.setChip c x).roots = s.roots := rfl
@[simp] theorem State.modulePower_setChip (s : State) (c : Nat) (x : Chip) : (s.setChip c x).modulePower = s.modulePower := rfl
@[simp] theorem State.asleep_setChip (s : State) (c : Nat) (x : Chip) : (s.setChip c x).asleep = s.asleep := rfl
@[simp] theorem State.engine_setChip (s : State) (c : Nat) (x : Chip) : (s.setChip c x).engine = s.engine := rfl
@[simp] theorem State.remote_setChip (s : State) (c : Nat) (x : Chip) : (s.setChip c x).remote = s.remote := rfl
@[simp] theorem State.remoteSent_setChip (s : State) (c : Nat) (x : Chip) : (s.setChip c x).remoteSent = s.remoteSent := rfl
@[simp] theorem State.lastWriter_setChip (s : State) (c : Nat) (x : Chip) : (s.setChip c x).lastWriter = s.lastWriter := rfl
@[simp] theorem State.me_setChip (s : State) (c : Nat) (x : Chip) : (s.setChip c x).me = s.me := rfl
@[simp] theorem State.hart_setChip (s : State) (c : Nat) (x : Chip) : (s.setChip c x).hart = s.hart := rfl
@[simp] theorem State.agenda_setChip (s : State) (c : Nat) (x : Chip) : (s.setChip c x).agenda = s.agenda := rfl
@[simp] theorem State.round_setChip (s : State) (c : Nat) (x : Chip) : (s.setChip c x).round = s.round := rfl
@[simp] theorem State.passedOver_setChip (s : State) (c : Nat) (x : Chip) : (s.setChip c x).passedOver = s.passedOver := rfl
@[simp] theorem State.dbgOut_setChip (s : State) (c : Nat) (x : Chip) : (s.setChip c x).dbgOut = s.dbgOut := rfl
@[simp] theorem State.free_setChip (s : State) (c : Nat) (x : Chip) : (s.setChip c x).free = s.free := rfl

@[simp] theorem State.mem_setHub (s : State) (h : Nat) (x : Hub) : (s.setHub h x).mem = s.mem := rfl
@[simp] theorem State.poisoned_setHub (s : State) (h : Nat) (x : Hub) : (s.setHub h x).poisoned = s.poisoned := rfl
@[simp] theorem State.seals_setHub (s : State) (h : Nat) (x : Hub) : (s.setHub h x).seals = s.seals := rfl
@[simp] theorem State.lines_setHub (s : State) (h : Nat) (x : Hub) : (s.setHub h x).lines = s.lines := rfl
@[simp] theorem State.watched_setHub (s : State) (h : Nat) (x : Hub) : (s.setHub h x).watched = s.watched := rfl
@[simp] theorem State.dir_setHub (s : State) (h : Nat) (x : Hub) : (s.setHub h x).dir = s.dir := rfl
@[simp] theorem State.recs_setHub (s : State) (h : Nat) (x : Hub) : (s.setHub h x).recs = s.recs := rfl
@[simp] theorem State.recOrder_setHub (s : State) (h : Nat) (x : Hub) : (s.setHub h x).recOrder = s.recOrder := rfl
@[simp] theorem State.banks_setHub (s : State) (h : Nat) (x : Hub) : (s.setHub h x).banks = s.banks := rfl
@[simp] theorem State.clines_setHub (s : State) (h : Nat) (x : Hub) : (s.setHub h x).clines = s.clines := rfl
@[simp] theorem State.cways_setHub (s : State) (h : Nat) (x : Hub) : (s.setHub h x).cways = s.cways := rfl
@[simp] theorem State.llc_setHub (s : State) (h : Nat) (x : Hub) : (s.setHub h x).llc = s.llc := rfl
@[simp] theorem State.lways_setHub (s : State) (h : Nat) (x : Hub) : (s.setHub h x).lways = s.lways := rfl
@[simp] theorem State.ccopies_setHub (s : State) (h : Nat) (x : Hub) : (s.setHub h x).ccopies = s.ccopies := rfl
@[simp] theorem State.uses_setHub (s : State) (h : Nat) (x : Hub) : (s.setHub h x).uses = s.uses := rfl
@[simp] theorem State.warps_setHub (s : State) (h : Nat) (x : Hub) : (s.setHub h x).warps = s.warps := rfl
@[simp] theorem State.wgs_setHub (s : State) (h : Nat) (x : Hub) : (s.setHub h x).wgs = s.wgs := rfl
@[simp] theorem State.cores_setHub (s : State) (h : Nat) (x : Hub) : (s.setHub h x).cores = s.cores := rfl
@[simp] theorem State.chips_setHub (s : State) (h : Nat) (x : Hub) : (s.setHub h x).chips = s.chips := rfl
@[simp] theorem State.hubs_setHub (s : State) (h : Nat) (x : Hub) : (s.setHub h x).hubs = Table.put {} h x s.hubs := rfl
@[simp] theorem State.harts_setHub (s : State) (h : Nat) (x : Hub) : (s.setHub h x).harts = s.harts := rfl
@[simp] theorem State.pkts_setHub (s : State) (h : Nat) (x : Hub) : (s.setHub h x).pkts = s.pkts := rfl
@[simp] theorem State.warpSeq_setHub (s : State) (h : Nat) (x : Hub) : (s.setHub h x).warpSeq = s.warpSeq := rfl
@[simp] theorem State.wgSeq_setHub (s : State) (h : Nat) (x : Hub) : (s.setHub h x).wgSeq = s.wgSeq := rfl
@[simp] theorem State.pktSeq_setHub (s : State) (h : Nat) (x : Hub) : (s.setHub h x).pktSeq = s.pktSeq := rfl
@[simp] theorem State.opSeq_setHub (s : State) (h : Nat) (x : Hub) : (s.setHub h x).opSeq = s.opSeq := rfl
@[simp] theorem State.lambda_setHub (s : State) (h : Nat) (x : Hub) : (s.setHub h x).lambda = s.lambda := rfl
@[simp] theorem State.worlds_setHub (s : State) (h : Nat) (x : Hub) : (s.setHub h x).worlds = s.worlds := rfl
@[simp] theorem State.keyCount_setHub (s : State) (h : Nat) (x : Hub) : (s.setHub h x).keyCount = s.keyCount := rfl
@[simp] theorem State.tenants_setHub (s : State) (h : Nat) (x : Hub) : (s.setHub h x).tenants = s.tenants := rfl
@[simp] theorem State.partsOwner_setHub (s : State) (h : Nat) (x : Hub) : (s.setHub h x).partsOwner = s.partsOwner := rfl
@[simp] theorem State.roots_setHub (s : State) (h : Nat) (x : Hub) : (s.setHub h x).roots = s.roots := rfl
@[simp] theorem State.modulePower_setHub (s : State) (h : Nat) (x : Hub) : (s.setHub h x).modulePower = s.modulePower := rfl
@[simp] theorem State.asleep_setHub (s : State) (h : Nat) (x : Hub) : (s.setHub h x).asleep = s.asleep := rfl
@[simp] theorem State.engine_setHub (s : State) (h : Nat) (x : Hub) : (s.setHub h x).engine = s.engine := rfl
@[simp] theorem State.remote_setHub (s : State) (h : Nat) (x : Hub) : (s.setHub h x).remote = s.remote := rfl
@[simp] theorem State.remoteSent_setHub (s : State) (h : Nat) (x : Hub) : (s.setHub h x).remoteSent = s.remoteSent := rfl
@[simp] theorem State.lastWriter_setHub (s : State) (h : Nat) (x : Hub) : (s.setHub h x).lastWriter = s.lastWriter := rfl
@[simp] theorem State.me_setHub (s : State) (h : Nat) (x : Hub) : (s.setHub h x).me = s.me := rfl
@[simp] theorem State.hart_setHub (s : State) (h : Nat) (x : Hub) : (s.setHub h x).hart = s.hart := rfl
@[simp] theorem State.agenda_setHub (s : State) (h : Nat) (x : Hub) : (s.setHub h x).agenda = s.agenda := rfl
@[simp] theorem State.round_setHub (s : State) (h : Nat) (x : Hub) : (s.setHub h x).round = s.round := rfl
@[simp] theorem State.passedOver_setHub (s : State) (h : Nat) (x : Hub) : (s.setHub h x).passedOver = s.passedOver := rfl
@[simp] theorem State.dbgOut_setHub (s : State) (h : Nat) (x : Hub) : (s.setHub h x).dbgOut = s.dbgOut := rfl
@[simp] theorem State.free_setHub (s : State) (h : Nat) (x : Hub) : (s.setHub h x).free = s.free := rfl

@[simp] theorem State.mem_setTenant (s : State) (v : Nat) (x : Tenant) : (s.setTenant v x).mem = s.mem := rfl
@[simp] theorem State.poisoned_setTenant (s : State) (v : Nat) (x : Tenant) : (s.setTenant v x).poisoned = s.poisoned := rfl
@[simp] theorem State.seals_setTenant (s : State) (v : Nat) (x : Tenant) : (s.setTenant v x).seals = s.seals := rfl
@[simp] theorem State.lines_setTenant (s : State) (v : Nat) (x : Tenant) : (s.setTenant v x).lines = s.lines := rfl
@[simp] theorem State.watched_setTenant (s : State) (v : Nat) (x : Tenant) : (s.setTenant v x).watched = s.watched := rfl
@[simp] theorem State.dir_setTenant (s : State) (v : Nat) (x : Tenant) : (s.setTenant v x).dir = s.dir := rfl
@[simp] theorem State.recs_setTenant (s : State) (v : Nat) (x : Tenant) : (s.setTenant v x).recs = s.recs := rfl
@[simp] theorem State.recOrder_setTenant (s : State) (v : Nat) (x : Tenant) : (s.setTenant v x).recOrder = s.recOrder := rfl
@[simp] theorem State.banks_setTenant (s : State) (v : Nat) (x : Tenant) : (s.setTenant v x).banks = s.banks := rfl
@[simp] theorem State.clines_setTenant (s : State) (v : Nat) (x : Tenant) : (s.setTenant v x).clines = s.clines := rfl
@[simp] theorem State.cways_setTenant (s : State) (v : Nat) (x : Tenant) : (s.setTenant v x).cways = s.cways := rfl
@[simp] theorem State.llc_setTenant (s : State) (v : Nat) (x : Tenant) : (s.setTenant v x).llc = s.llc := rfl
@[simp] theorem State.lways_setTenant (s : State) (v : Nat) (x : Tenant) : (s.setTenant v x).lways = s.lways := rfl
@[simp] theorem State.ccopies_setTenant (s : State) (v : Nat) (x : Tenant) : (s.setTenant v x).ccopies = s.ccopies := rfl
@[simp] theorem State.uses_setTenant (s : State) (v : Nat) (x : Tenant) : (s.setTenant v x).uses = s.uses := rfl
@[simp] theorem State.warps_setTenant (s : State) (v : Nat) (x : Tenant) : (s.setTenant v x).warps = s.warps := rfl
@[simp] theorem State.wgs_setTenant (s : State) (v : Nat) (x : Tenant) : (s.setTenant v x).wgs = s.wgs := rfl
@[simp] theorem State.cores_setTenant (s : State) (v : Nat) (x : Tenant) : (s.setTenant v x).cores = s.cores := rfl
@[simp] theorem State.chips_setTenant (s : State) (v : Nat) (x : Tenant) : (s.setTenant v x).chips = s.chips := rfl
@[simp] theorem State.hubs_setTenant (s : State) (v : Nat) (x : Tenant) : (s.setTenant v x).hubs = s.hubs := rfl
@[simp] theorem State.harts_setTenant (s : State) (v : Nat) (x : Tenant) : (s.setTenant v x).harts = s.harts := rfl
@[simp] theorem State.pkts_setTenant (s : State) (v : Nat) (x : Tenant) : (s.setTenant v x).pkts = s.pkts := rfl
@[simp] theorem State.warpSeq_setTenant (s : State) (v : Nat) (x : Tenant) : (s.setTenant v x).warpSeq = s.warpSeq := rfl
@[simp] theorem State.wgSeq_setTenant (s : State) (v : Nat) (x : Tenant) : (s.setTenant v x).wgSeq = s.wgSeq := rfl
@[simp] theorem State.pktSeq_setTenant (s : State) (v : Nat) (x : Tenant) : (s.setTenant v x).pktSeq = s.pktSeq := rfl
@[simp] theorem State.opSeq_setTenant (s : State) (v : Nat) (x : Tenant) : (s.setTenant v x).opSeq = s.opSeq := rfl
@[simp] theorem State.lambda_setTenant (s : State) (v : Nat) (x : Tenant) : (s.setTenant v x).lambda = s.lambda := rfl
@[simp] theorem State.worlds_setTenant (s : State) (v : Nat) (x : Tenant) : (s.setTenant v x).worlds = s.worlds := rfl
@[simp] theorem State.keyCount_setTenant (s : State) (v : Nat) (x : Tenant) : (s.setTenant v x).keyCount = s.keyCount := rfl
@[simp] theorem State.tenants_setTenant (s : State) (v : Nat) (x : Tenant) : (s.setTenant v x).tenants = Table.put {} v x s.tenants := rfl
@[simp] theorem State.partsOwner_setTenant (s : State) (v : Nat) (x : Tenant) : (s.setTenant v x).partsOwner = s.partsOwner := rfl
@[simp] theorem State.roots_setTenant (s : State) (v : Nat) (x : Tenant) : (s.setTenant v x).roots = s.roots := rfl
@[simp] theorem State.modulePower_setTenant (s : State) (v : Nat) (x : Tenant) : (s.setTenant v x).modulePower = s.modulePower := rfl
@[simp] theorem State.asleep_setTenant (s : State) (v : Nat) (x : Tenant) : (s.setTenant v x).asleep = s.asleep := rfl
@[simp] theorem State.engine_setTenant (s : State) (v : Nat) (x : Tenant) : (s.setTenant v x).engine = s.engine := rfl
@[simp] theorem State.remote_setTenant (s : State) (v : Nat) (x : Tenant) : (s.setTenant v x).remote = s.remote := rfl
@[simp] theorem State.remoteSent_setTenant (s : State) (v : Nat) (x : Tenant) : (s.setTenant v x).remoteSent = s.remoteSent := rfl
@[simp] theorem State.lastWriter_setTenant (s : State) (v : Nat) (x : Tenant) : (s.setTenant v x).lastWriter = s.lastWriter := rfl
@[simp] theorem State.me_setTenant (s : State) (v : Nat) (x : Tenant) : (s.setTenant v x).me = s.me := rfl
@[simp] theorem State.hart_setTenant (s : State) (v : Nat) (x : Tenant) : (s.setTenant v x).hart = s.hart := rfl
@[simp] theorem State.agenda_setTenant (s : State) (v : Nat) (x : Tenant) : (s.setTenant v x).agenda = s.agenda := rfl
@[simp] theorem State.round_setTenant (s : State) (v : Nat) (x : Tenant) : (s.setTenant v x).round = s.round := rfl
@[simp] theorem State.passedOver_setTenant (s : State) (v : Nat) (x : Tenant) : (s.setTenant v x).passedOver = s.passedOver := rfl
@[simp] theorem State.dbgOut_setTenant (s : State) (v : Nat) (x : Tenant) : (s.setTenant v x).dbgOut = s.dbgOut := rfl
@[simp] theorem State.free_setTenant (s : State) (v : Nat) (x : Tenant) : (s.setTenant v x).free = s.free := rfl

@[simp] theorem State.mem_setBank (s : State) (b : Nat) (x : Bank) : (s.setBank b x).mem = s.mem := rfl
@[simp] theorem State.poisoned_setBank (s : State) (b : Nat) (x : Bank) : (s.setBank b x).poisoned = s.poisoned := rfl
@[simp] theorem State.seals_setBank (s : State) (b : Nat) (x : Bank) : (s.setBank b x).seals = s.seals := rfl
@[simp] theorem State.lines_setBank (s : State) (b : Nat) (x : Bank) : (s.setBank b x).lines = s.lines := rfl
@[simp] theorem State.watched_setBank (s : State) (b : Nat) (x : Bank) : (s.setBank b x).watched = s.watched := rfl
@[simp] theorem State.dir_setBank (s : State) (b : Nat) (x : Bank) : (s.setBank b x).dir = s.dir := rfl
@[simp] theorem State.recs_setBank (s : State) (b : Nat) (x : Bank) : (s.setBank b x).recs = s.recs := rfl
@[simp] theorem State.recOrder_setBank (s : State) (b : Nat) (x : Bank) : (s.setBank b x).recOrder = s.recOrder := rfl
@[simp] theorem State.banks_setBank (s : State) (b : Nat) (x : Bank) : (s.setBank b x).banks = Table.put {} b x s.banks := rfl
@[simp] theorem State.clines_setBank (s : State) (b : Nat) (x : Bank) : (s.setBank b x).clines = s.clines := rfl
@[simp] theorem State.cways_setBank (s : State) (b : Nat) (x : Bank) : (s.setBank b x).cways = s.cways := rfl
@[simp] theorem State.llc_setBank (s : State) (b : Nat) (x : Bank) : (s.setBank b x).llc = s.llc := rfl
@[simp] theorem State.lways_setBank (s : State) (b : Nat) (x : Bank) : (s.setBank b x).lways = s.lways := rfl
@[simp] theorem State.ccopies_setBank (s : State) (b : Nat) (x : Bank) : (s.setBank b x).ccopies = s.ccopies := rfl
@[simp] theorem State.uses_setBank (s : State) (b : Nat) (x : Bank) : (s.setBank b x).uses = s.uses := rfl
@[simp] theorem State.warps_setBank (s : State) (b : Nat) (x : Bank) : (s.setBank b x).warps = s.warps := rfl
@[simp] theorem State.wgs_setBank (s : State) (b : Nat) (x : Bank) : (s.setBank b x).wgs = s.wgs := rfl
@[simp] theorem State.cores_setBank (s : State) (b : Nat) (x : Bank) : (s.setBank b x).cores = s.cores := rfl
@[simp] theorem State.chips_setBank (s : State) (b : Nat) (x : Bank) : (s.setBank b x).chips = s.chips := rfl
@[simp] theorem State.hubs_setBank (s : State) (b : Nat) (x : Bank) : (s.setBank b x).hubs = s.hubs := rfl
@[simp] theorem State.harts_setBank (s : State) (b : Nat) (x : Bank) : (s.setBank b x).harts = s.harts := rfl
@[simp] theorem State.pkts_setBank (s : State) (b : Nat) (x : Bank) : (s.setBank b x).pkts = s.pkts := rfl
@[simp] theorem State.warpSeq_setBank (s : State) (b : Nat) (x : Bank) : (s.setBank b x).warpSeq = s.warpSeq := rfl
@[simp] theorem State.wgSeq_setBank (s : State) (b : Nat) (x : Bank) : (s.setBank b x).wgSeq = s.wgSeq := rfl
@[simp] theorem State.pktSeq_setBank (s : State) (b : Nat) (x : Bank) : (s.setBank b x).pktSeq = s.pktSeq := rfl
@[simp] theorem State.opSeq_setBank (s : State) (b : Nat) (x : Bank) : (s.setBank b x).opSeq = s.opSeq := rfl
@[simp] theorem State.lambda_setBank (s : State) (b : Nat) (x : Bank) : (s.setBank b x).lambda = s.lambda := rfl
@[simp] theorem State.worlds_setBank (s : State) (b : Nat) (x : Bank) : (s.setBank b x).worlds = s.worlds := rfl
@[simp] theorem State.keyCount_setBank (s : State) (b : Nat) (x : Bank) : (s.setBank b x).keyCount = s.keyCount := rfl
@[simp] theorem State.tenants_setBank (s : State) (b : Nat) (x : Bank) : (s.setBank b x).tenants = s.tenants := rfl
@[simp] theorem State.partsOwner_setBank (s : State) (b : Nat) (x : Bank) : (s.setBank b x).partsOwner = s.partsOwner := rfl
@[simp] theorem State.roots_setBank (s : State) (b : Nat) (x : Bank) : (s.setBank b x).roots = s.roots := rfl
@[simp] theorem State.modulePower_setBank (s : State) (b : Nat) (x : Bank) : (s.setBank b x).modulePower = s.modulePower := rfl
@[simp] theorem State.asleep_setBank (s : State) (b : Nat) (x : Bank) : (s.setBank b x).asleep = s.asleep := rfl
@[simp] theorem State.engine_setBank (s : State) (b : Nat) (x : Bank) : (s.setBank b x).engine = s.engine := rfl
@[simp] theorem State.remote_setBank (s : State) (b : Nat) (x : Bank) : (s.setBank b x).remote = s.remote := rfl
@[simp] theorem State.remoteSent_setBank (s : State) (b : Nat) (x : Bank) : (s.setBank b x).remoteSent = s.remoteSent := rfl
@[simp] theorem State.lastWriter_setBank (s : State) (b : Nat) (x : Bank) : (s.setBank b x).lastWriter = s.lastWriter := rfl
@[simp] theorem State.me_setBank (s : State) (b : Nat) (x : Bank) : (s.setBank b x).me = s.me := rfl
@[simp] theorem State.hart_setBank (s : State) (b : Nat) (x : Bank) : (s.setBank b x).hart = s.hart := rfl
@[simp] theorem State.agenda_setBank (s : State) (b : Nat) (x : Bank) : (s.setBank b x).agenda = s.agenda := rfl
@[simp] theorem State.round_setBank (s : State) (b : Nat) (x : Bank) : (s.setBank b x).round = s.round := rfl
@[simp] theorem State.passedOver_setBank (s : State) (b : Nat) (x : Bank) : (s.setBank b x).passedOver = s.passedOver := rfl
@[simp] theorem State.dbgOut_setBank (s : State) (b : Nat) (x : Bank) : (s.setBank b x).dbgOut = s.dbgOut := rfl
@[simp] theorem State.free_setBank (s : State) (b : Nat) (x : Bank) : (s.setBank b x).free = s.free := rfl

@[simp] theorem State.mem_setHart (s : State) (h : Nat) (x : Hart) : (s.setHart h x).mem = s.mem := rfl
@[simp] theorem State.poisoned_setHart (s : State) (h : Nat) (x : Hart) : (s.setHart h x).poisoned = s.poisoned := rfl
@[simp] theorem State.seals_setHart (s : State) (h : Nat) (x : Hart) : (s.setHart h x).seals = s.seals := rfl
@[simp] theorem State.lines_setHart (s : State) (h : Nat) (x : Hart) : (s.setHart h x).lines = s.lines := rfl
@[simp] theorem State.watched_setHart (s : State) (h : Nat) (x : Hart) : (s.setHart h x).watched = s.watched := rfl
@[simp] theorem State.dir_setHart (s : State) (h : Nat) (x : Hart) : (s.setHart h x).dir = s.dir := rfl
@[simp] theorem State.recs_setHart (s : State) (h : Nat) (x : Hart) : (s.setHart h x).recs = s.recs := rfl
@[simp] theorem State.recOrder_setHart (s : State) (h : Nat) (x : Hart) : (s.setHart h x).recOrder = s.recOrder := rfl
@[simp] theorem State.banks_setHart (s : State) (h : Nat) (x : Hart) : (s.setHart h x).banks = s.banks := rfl
@[simp] theorem State.clines_setHart (s : State) (h : Nat) (x : Hart) : (s.setHart h x).clines = s.clines := rfl
@[simp] theorem State.cways_setHart (s : State) (h : Nat) (x : Hart) : (s.setHart h x).cways = s.cways := rfl
@[simp] theorem State.llc_setHart (s : State) (h : Nat) (x : Hart) : (s.setHart h x).llc = s.llc := rfl
@[simp] theorem State.lways_setHart (s : State) (h : Nat) (x : Hart) : (s.setHart h x).lways = s.lways := rfl
@[simp] theorem State.ccopies_setHart (s : State) (h : Nat) (x : Hart) : (s.setHart h x).ccopies = s.ccopies := rfl
@[simp] theorem State.uses_setHart (s : State) (h : Nat) (x : Hart) : (s.setHart h x).uses = s.uses := rfl
@[simp] theorem State.warps_setHart (s : State) (h : Nat) (x : Hart) : (s.setHart h x).warps = s.warps := rfl
@[simp] theorem State.wgs_setHart (s : State) (h : Nat) (x : Hart) : (s.setHart h x).wgs = s.wgs := rfl
@[simp] theorem State.cores_setHart (s : State) (h : Nat) (x : Hart) : (s.setHart h x).cores = s.cores := rfl
@[simp] theorem State.chips_setHart (s : State) (h : Nat) (x : Hart) : (s.setHart h x).chips = s.chips := rfl
@[simp] theorem State.hubs_setHart (s : State) (h : Nat) (x : Hart) : (s.setHart h x).hubs = s.hubs := rfl
@[simp] theorem State.harts_setHart (s : State) (h : Nat) (x : Hart) : (s.setHart h x).harts = Table.put {} h x s.harts := rfl
@[simp] theorem State.pkts_setHart (s : State) (h : Nat) (x : Hart) : (s.setHart h x).pkts = s.pkts := rfl
@[simp] theorem State.warpSeq_setHart (s : State) (h : Nat) (x : Hart) : (s.setHart h x).warpSeq = s.warpSeq := rfl
@[simp] theorem State.wgSeq_setHart (s : State) (h : Nat) (x : Hart) : (s.setHart h x).wgSeq = s.wgSeq := rfl
@[simp] theorem State.pktSeq_setHart (s : State) (h : Nat) (x : Hart) : (s.setHart h x).pktSeq = s.pktSeq := rfl
@[simp] theorem State.opSeq_setHart (s : State) (h : Nat) (x : Hart) : (s.setHart h x).opSeq = s.opSeq := rfl
@[simp] theorem State.lambda_setHart (s : State) (h : Nat) (x : Hart) : (s.setHart h x).lambda = s.lambda := rfl
@[simp] theorem State.worlds_setHart (s : State) (h : Nat) (x : Hart) : (s.setHart h x).worlds = s.worlds := rfl
@[simp] theorem State.keyCount_setHart (s : State) (h : Nat) (x : Hart) : (s.setHart h x).keyCount = s.keyCount := rfl
@[simp] theorem State.tenants_setHart (s : State) (h : Nat) (x : Hart) : (s.setHart h x).tenants = s.tenants := rfl
@[simp] theorem State.partsOwner_setHart (s : State) (h : Nat) (x : Hart) : (s.setHart h x).partsOwner = s.partsOwner := rfl
@[simp] theorem State.roots_setHart (s : State) (h : Nat) (x : Hart) : (s.setHart h x).roots = s.roots := rfl
@[simp] theorem State.modulePower_setHart (s : State) (h : Nat) (x : Hart) : (s.setHart h x).modulePower = s.modulePower := rfl
@[simp] theorem State.asleep_setHart (s : State) (h : Nat) (x : Hart) : (s.setHart h x).asleep = s.asleep := rfl
@[simp] theorem State.engine_setHart (s : State) (h : Nat) (x : Hart) : (s.setHart h x).engine = s.engine := rfl
@[simp] theorem State.remote_setHart (s : State) (h : Nat) (x : Hart) : (s.setHart h x).remote = s.remote := rfl
@[simp] theorem State.remoteSent_setHart (s : State) (h : Nat) (x : Hart) : (s.setHart h x).remoteSent = s.remoteSent := rfl
@[simp] theorem State.lastWriter_setHart (s : State) (h : Nat) (x : Hart) : (s.setHart h x).lastWriter = s.lastWriter := rfl
@[simp] theorem State.me_setHart (s : State) (h : Nat) (x : Hart) : (s.setHart h x).me = s.me := rfl
@[simp] theorem State.hart_setHart (s : State) (h : Nat) (x : Hart) : (s.setHart h x).hart = s.hart := rfl
@[simp] theorem State.agenda_setHart (s : State) (h : Nat) (x : Hart) : (s.setHart h x).agenda = s.agenda := rfl
@[simp] theorem State.round_setHart (s : State) (h : Nat) (x : Hart) : (s.setHart h x).round = s.round := rfl
@[simp] theorem State.passedOver_setHart (s : State) (h : Nat) (x : Hart) : (s.setHart h x).passedOver = s.passedOver := rfl
@[simp] theorem State.dbgOut_setHart (s : State) (h : Nat) (x : Hart) : (s.setHart h x).dbgOut = s.dbgOut := rfl
@[simp] theorem State.free_setHart (s : State) (h : Nat) (x : Hart) : (s.setHart h x).free = s.free := rfl

@[simp] theorem State.mem_setWarp (s : State) (w : Nat) (x : Warp) : (s.setWarp w x).mem = s.mem := rfl
@[simp] theorem State.poisoned_setWarp (s : State) (w : Nat) (x : Warp) : (s.setWarp w x).poisoned = s.poisoned := rfl
@[simp] theorem State.seals_setWarp (s : State) (w : Nat) (x : Warp) : (s.setWarp w x).seals = s.seals := rfl
@[simp] theorem State.lines_setWarp (s : State) (w : Nat) (x : Warp) : (s.setWarp w x).lines = s.lines := rfl
@[simp] theorem State.watched_setWarp (s : State) (w : Nat) (x : Warp) : (s.setWarp w x).watched = s.watched := rfl
@[simp] theorem State.dir_setWarp (s : State) (w : Nat) (x : Warp) : (s.setWarp w x).dir = s.dir := rfl
@[simp] theorem State.recs_setWarp (s : State) (w : Nat) (x : Warp) : (s.setWarp w x).recs = s.recs := rfl
@[simp] theorem State.recOrder_setWarp (s : State) (w : Nat) (x : Warp) : (s.setWarp w x).recOrder = s.recOrder := rfl
@[simp] theorem State.banks_setWarp (s : State) (w : Nat) (x : Warp) : (s.setWarp w x).banks = s.banks := rfl
@[simp] theorem State.clines_setWarp (s : State) (w : Nat) (x : Warp) : (s.setWarp w x).clines = s.clines := rfl
@[simp] theorem State.cways_setWarp (s : State) (w : Nat) (x : Warp) : (s.setWarp w x).cways = s.cways := rfl
@[simp] theorem State.llc_setWarp (s : State) (w : Nat) (x : Warp) : (s.setWarp w x).llc = s.llc := rfl
@[simp] theorem State.lways_setWarp (s : State) (w : Nat) (x : Warp) : (s.setWarp w x).lways = s.lways := rfl
@[simp] theorem State.ccopies_setWarp (s : State) (w : Nat) (x : Warp) : (s.setWarp w x).ccopies = s.ccopies := rfl
@[simp] theorem State.uses_setWarp (s : State) (w : Nat) (x : Warp) : (s.setWarp w x).uses = s.uses := rfl
@[simp] theorem State.warps_setWarp (s : State) (w : Nat) (x : Warp) : (s.setWarp w x).warps = Table.ins w x s.warps := rfl
@[simp] theorem State.wgs_setWarp (s : State) (w : Nat) (x : Warp) : (s.setWarp w x).wgs = s.wgs := rfl
@[simp] theorem State.cores_setWarp (s : State) (w : Nat) (x : Warp) : (s.setWarp w x).cores = s.cores := rfl
@[simp] theorem State.chips_setWarp (s : State) (w : Nat) (x : Warp) : (s.setWarp w x).chips = s.chips := rfl
@[simp] theorem State.hubs_setWarp (s : State) (w : Nat) (x : Warp) : (s.setWarp w x).hubs = s.hubs := rfl
@[simp] theorem State.harts_setWarp (s : State) (w : Nat) (x : Warp) : (s.setWarp w x).harts = s.harts := rfl
@[simp] theorem State.pkts_setWarp (s : State) (w : Nat) (x : Warp) : (s.setWarp w x).pkts = s.pkts := rfl
@[simp] theorem State.warpSeq_setWarp (s : State) (w : Nat) (x : Warp) : (s.setWarp w x).warpSeq = s.warpSeq := rfl
@[simp] theorem State.wgSeq_setWarp (s : State) (w : Nat) (x : Warp) : (s.setWarp w x).wgSeq = s.wgSeq := rfl
@[simp] theorem State.pktSeq_setWarp (s : State) (w : Nat) (x : Warp) : (s.setWarp w x).pktSeq = s.pktSeq := rfl
@[simp] theorem State.opSeq_setWarp (s : State) (w : Nat) (x : Warp) : (s.setWarp w x).opSeq = s.opSeq := rfl
@[simp] theorem State.lambda_setWarp (s : State) (w : Nat) (x : Warp) : (s.setWarp w x).lambda = s.lambda := rfl
@[simp] theorem State.worlds_setWarp (s : State) (w : Nat) (x : Warp) : (s.setWarp w x).worlds = s.worlds := rfl
@[simp] theorem State.keyCount_setWarp (s : State) (w : Nat) (x : Warp) : (s.setWarp w x).keyCount = s.keyCount := rfl
@[simp] theorem State.tenants_setWarp (s : State) (w : Nat) (x : Warp) : (s.setWarp w x).tenants = s.tenants := rfl
@[simp] theorem State.partsOwner_setWarp (s : State) (w : Nat) (x : Warp) : (s.setWarp w x).partsOwner = s.partsOwner := rfl
@[simp] theorem State.roots_setWarp (s : State) (w : Nat) (x : Warp) : (s.setWarp w x).roots = s.roots := rfl
@[simp] theorem State.modulePower_setWarp (s : State) (w : Nat) (x : Warp) : (s.setWarp w x).modulePower = s.modulePower := rfl
@[simp] theorem State.asleep_setWarp (s : State) (w : Nat) (x : Warp) : (s.setWarp w x).asleep = s.asleep := rfl
@[simp] theorem State.engine_setWarp (s : State) (w : Nat) (x : Warp) : (s.setWarp w x).engine = s.engine := rfl
@[simp] theorem State.remote_setWarp (s : State) (w : Nat) (x : Warp) : (s.setWarp w x).remote = s.remote := rfl
@[simp] theorem State.remoteSent_setWarp (s : State) (w : Nat) (x : Warp) : (s.setWarp w x).remoteSent = s.remoteSent := rfl
@[simp] theorem State.lastWriter_setWarp (s : State) (w : Nat) (x : Warp) : (s.setWarp w x).lastWriter = s.lastWriter := rfl
@[simp] theorem State.me_setWarp (s : State) (w : Nat) (x : Warp) : (s.setWarp w x).me = s.me := rfl
@[simp] theorem State.hart_setWarp (s : State) (w : Nat) (x : Warp) : (s.setWarp w x).hart = s.hart := rfl
@[simp] theorem State.agenda_setWarp (s : State) (w : Nat) (x : Warp) : (s.setWarp w x).agenda = s.agenda := rfl
@[simp] theorem State.round_setWarp (s : State) (w : Nat) (x : Warp) : (s.setWarp w x).round = s.round := rfl
@[simp] theorem State.passedOver_setWarp (s : State) (w : Nat) (x : Warp) : (s.setWarp w x).passedOver = s.passedOver := rfl
@[simp] theorem State.dbgOut_setWarp (s : State) (w : Nat) (x : Warp) : (s.setWarp w x).dbgOut = s.dbgOut := rfl
@[simp] theorem State.free_setWarp (s : State) (w : Nat) (x : Warp) : (s.setWarp w x).free = s.free := rfl

@[simp] theorem State.mem_setWg (s : State) (g : Nat) (x : Wg) : (s.setWg g x).mem = s.mem := rfl
@[simp] theorem State.poisoned_setWg (s : State) (g : Nat) (x : Wg) : (s.setWg g x).poisoned = s.poisoned := rfl
@[simp] theorem State.seals_setWg (s : State) (g : Nat) (x : Wg) : (s.setWg g x).seals = s.seals := rfl
@[simp] theorem State.lines_setWg (s : State) (g : Nat) (x : Wg) : (s.setWg g x).lines = s.lines := rfl
@[simp] theorem State.watched_setWg (s : State) (g : Nat) (x : Wg) : (s.setWg g x).watched = s.watched := rfl
@[simp] theorem State.dir_setWg (s : State) (g : Nat) (x : Wg) : (s.setWg g x).dir = s.dir := rfl
@[simp] theorem State.recs_setWg (s : State) (g : Nat) (x : Wg) : (s.setWg g x).recs = s.recs := rfl
@[simp] theorem State.recOrder_setWg (s : State) (g : Nat) (x : Wg) : (s.setWg g x).recOrder = s.recOrder := rfl
@[simp] theorem State.banks_setWg (s : State) (g : Nat) (x : Wg) : (s.setWg g x).banks = s.banks := rfl
@[simp] theorem State.clines_setWg (s : State) (g : Nat) (x : Wg) : (s.setWg g x).clines = s.clines := rfl
@[simp] theorem State.cways_setWg (s : State) (g : Nat) (x : Wg) : (s.setWg g x).cways = s.cways := rfl
@[simp] theorem State.llc_setWg (s : State) (g : Nat) (x : Wg) : (s.setWg g x).llc = s.llc := rfl
@[simp] theorem State.lways_setWg (s : State) (g : Nat) (x : Wg) : (s.setWg g x).lways = s.lways := rfl
@[simp] theorem State.ccopies_setWg (s : State) (g : Nat) (x : Wg) : (s.setWg g x).ccopies = s.ccopies := rfl
@[simp] theorem State.uses_setWg (s : State) (g : Nat) (x : Wg) : (s.setWg g x).uses = s.uses := rfl
@[simp] theorem State.warps_setWg (s : State) (g : Nat) (x : Wg) : (s.setWg g x).warps = s.warps := rfl
@[simp] theorem State.wgs_setWg (s : State) (g : Nat) (x : Wg) : (s.setWg g x).wgs = Table.ins g x s.wgs := rfl
@[simp] theorem State.cores_setWg (s : State) (g : Nat) (x : Wg) : (s.setWg g x).cores = s.cores := rfl
@[simp] theorem State.chips_setWg (s : State) (g : Nat) (x : Wg) : (s.setWg g x).chips = s.chips := rfl
@[simp] theorem State.hubs_setWg (s : State) (g : Nat) (x : Wg) : (s.setWg g x).hubs = s.hubs := rfl
@[simp] theorem State.harts_setWg (s : State) (g : Nat) (x : Wg) : (s.setWg g x).harts = s.harts := rfl
@[simp] theorem State.pkts_setWg (s : State) (g : Nat) (x : Wg) : (s.setWg g x).pkts = s.pkts := rfl
@[simp] theorem State.warpSeq_setWg (s : State) (g : Nat) (x : Wg) : (s.setWg g x).warpSeq = s.warpSeq := rfl
@[simp] theorem State.wgSeq_setWg (s : State) (g : Nat) (x : Wg) : (s.setWg g x).wgSeq = s.wgSeq := rfl
@[simp] theorem State.pktSeq_setWg (s : State) (g : Nat) (x : Wg) : (s.setWg g x).pktSeq = s.pktSeq := rfl
@[simp] theorem State.opSeq_setWg (s : State) (g : Nat) (x : Wg) : (s.setWg g x).opSeq = s.opSeq := rfl
@[simp] theorem State.lambda_setWg (s : State) (g : Nat) (x : Wg) : (s.setWg g x).lambda = s.lambda := rfl
@[simp] theorem State.worlds_setWg (s : State) (g : Nat) (x : Wg) : (s.setWg g x).worlds = s.worlds := rfl
@[simp] theorem State.keyCount_setWg (s : State) (g : Nat) (x : Wg) : (s.setWg g x).keyCount = s.keyCount := rfl
@[simp] theorem State.tenants_setWg (s : State) (g : Nat) (x : Wg) : (s.setWg g x).tenants = s.tenants := rfl
@[simp] theorem State.partsOwner_setWg (s : State) (g : Nat) (x : Wg) : (s.setWg g x).partsOwner = s.partsOwner := rfl
@[simp] theorem State.roots_setWg (s : State) (g : Nat) (x : Wg) : (s.setWg g x).roots = s.roots := rfl
@[simp] theorem State.modulePower_setWg (s : State) (g : Nat) (x : Wg) : (s.setWg g x).modulePower = s.modulePower := rfl
@[simp] theorem State.asleep_setWg (s : State) (g : Nat) (x : Wg) : (s.setWg g x).asleep = s.asleep := rfl
@[simp] theorem State.engine_setWg (s : State) (g : Nat) (x : Wg) : (s.setWg g x).engine = s.engine := rfl
@[simp] theorem State.remote_setWg (s : State) (g : Nat) (x : Wg) : (s.setWg g x).remote = s.remote := rfl
@[simp] theorem State.remoteSent_setWg (s : State) (g : Nat) (x : Wg) : (s.setWg g x).remoteSent = s.remoteSent := rfl
@[simp] theorem State.lastWriter_setWg (s : State) (g : Nat) (x : Wg) : (s.setWg g x).lastWriter = s.lastWriter := rfl
@[simp] theorem State.me_setWg (s : State) (g : Nat) (x : Wg) : (s.setWg g x).me = s.me := rfl
@[simp] theorem State.hart_setWg (s : State) (g : Nat) (x : Wg) : (s.setWg g x).hart = s.hart := rfl
@[simp] theorem State.agenda_setWg (s : State) (g : Nat) (x : Wg) : (s.setWg g x).agenda = s.agenda := rfl
@[simp] theorem State.round_setWg (s : State) (g : Nat) (x : Wg) : (s.setWg g x).round = s.round := rfl
@[simp] theorem State.passedOver_setWg (s : State) (g : Nat) (x : Wg) : (s.setWg g x).passedOver = s.passedOver := rfl
@[simp] theorem State.dbgOut_setWg (s : State) (g : Nat) (x : Wg) : (s.setWg g x).dbgOut = s.dbgOut := rfl
@[simp] theorem State.free_setWg (s : State) (g : Nat) (x : Wg) : (s.setWg g x).free = s.free := rfl

@[simp] theorem State.mem_setPkt (s : State) (p : Nat) (x : Packet) : (s.setPkt p x).mem = s.mem := rfl
@[simp] theorem State.poisoned_setPkt (s : State) (p : Nat) (x : Packet) : (s.setPkt p x).poisoned = s.poisoned := rfl
@[simp] theorem State.seals_setPkt (s : State) (p : Nat) (x : Packet) : (s.setPkt p x).seals = s.seals := rfl
@[simp] theorem State.lines_setPkt (s : State) (p : Nat) (x : Packet) : (s.setPkt p x).lines = s.lines := rfl
@[simp] theorem State.watched_setPkt (s : State) (p : Nat) (x : Packet) : (s.setPkt p x).watched = s.watched := rfl
@[simp] theorem State.dir_setPkt (s : State) (p : Nat) (x : Packet) : (s.setPkt p x).dir = s.dir := rfl
@[simp] theorem State.recs_setPkt (s : State) (p : Nat) (x : Packet) : (s.setPkt p x).recs = s.recs := rfl
@[simp] theorem State.recOrder_setPkt (s : State) (p : Nat) (x : Packet) : (s.setPkt p x).recOrder = s.recOrder := rfl
@[simp] theorem State.banks_setPkt (s : State) (p : Nat) (x : Packet) : (s.setPkt p x).banks = s.banks := rfl
@[simp] theorem State.clines_setPkt (s : State) (p : Nat) (x : Packet) : (s.setPkt p x).clines = s.clines := rfl
@[simp] theorem State.cways_setPkt (s : State) (p : Nat) (x : Packet) : (s.setPkt p x).cways = s.cways := rfl
@[simp] theorem State.llc_setPkt (s : State) (p : Nat) (x : Packet) : (s.setPkt p x).llc = s.llc := rfl
@[simp] theorem State.lways_setPkt (s : State) (p : Nat) (x : Packet) : (s.setPkt p x).lways = s.lways := rfl
@[simp] theorem State.ccopies_setPkt (s : State) (p : Nat) (x : Packet) : (s.setPkt p x).ccopies = s.ccopies := rfl
@[simp] theorem State.uses_setPkt (s : State) (p : Nat) (x : Packet) : (s.setPkt p x).uses = s.uses := rfl
@[simp] theorem State.warps_setPkt (s : State) (p : Nat) (x : Packet) : (s.setPkt p x).warps = s.warps := rfl
@[simp] theorem State.wgs_setPkt (s : State) (p : Nat) (x : Packet) : (s.setPkt p x).wgs = s.wgs := rfl
@[simp] theorem State.cores_setPkt (s : State) (p : Nat) (x : Packet) : (s.setPkt p x).cores = s.cores := rfl
@[simp] theorem State.chips_setPkt (s : State) (p : Nat) (x : Packet) : (s.setPkt p x).chips = s.chips := rfl
@[simp] theorem State.hubs_setPkt (s : State) (p : Nat) (x : Packet) : (s.setPkt p x).hubs = s.hubs := rfl
@[simp] theorem State.harts_setPkt (s : State) (p : Nat) (x : Packet) : (s.setPkt p x).harts = s.harts := rfl
@[simp] theorem State.pkts_setPkt (s : State) (p : Nat) (x : Packet) : (s.setPkt p x).pkts = Table.ins p x s.pkts := rfl
@[simp] theorem State.warpSeq_setPkt (s : State) (p : Nat) (x : Packet) : (s.setPkt p x).warpSeq = s.warpSeq := rfl
@[simp] theorem State.wgSeq_setPkt (s : State) (p : Nat) (x : Packet) : (s.setPkt p x).wgSeq = s.wgSeq := rfl
@[simp] theorem State.pktSeq_setPkt (s : State) (p : Nat) (x : Packet) : (s.setPkt p x).pktSeq = s.pktSeq := rfl
@[simp] theorem State.opSeq_setPkt (s : State) (p : Nat) (x : Packet) : (s.setPkt p x).opSeq = s.opSeq := rfl
@[simp] theorem State.lambda_setPkt (s : State) (p : Nat) (x : Packet) : (s.setPkt p x).lambda = s.lambda := rfl
@[simp] theorem State.worlds_setPkt (s : State) (p : Nat) (x : Packet) : (s.setPkt p x).worlds = s.worlds := rfl
@[simp] theorem State.keyCount_setPkt (s : State) (p : Nat) (x : Packet) : (s.setPkt p x).keyCount = s.keyCount := rfl
@[simp] theorem State.tenants_setPkt (s : State) (p : Nat) (x : Packet) : (s.setPkt p x).tenants = s.tenants := rfl
@[simp] theorem State.partsOwner_setPkt (s : State) (p : Nat) (x : Packet) : (s.setPkt p x).partsOwner = s.partsOwner := rfl
@[simp] theorem State.roots_setPkt (s : State) (p : Nat) (x : Packet) : (s.setPkt p x).roots = s.roots := rfl
@[simp] theorem State.modulePower_setPkt (s : State) (p : Nat) (x : Packet) : (s.setPkt p x).modulePower = s.modulePower := rfl
@[simp] theorem State.asleep_setPkt (s : State) (p : Nat) (x : Packet) : (s.setPkt p x).asleep = s.asleep := rfl
@[simp] theorem State.engine_setPkt (s : State) (p : Nat) (x : Packet) : (s.setPkt p x).engine = s.engine := rfl
@[simp] theorem State.remote_setPkt (s : State) (p : Nat) (x : Packet) : (s.setPkt p x).remote = s.remote := rfl
@[simp] theorem State.remoteSent_setPkt (s : State) (p : Nat) (x : Packet) : (s.setPkt p x).remoteSent = s.remoteSent := rfl
@[simp] theorem State.lastWriter_setPkt (s : State) (p : Nat) (x : Packet) : (s.setPkt p x).lastWriter = s.lastWriter := rfl
@[simp] theorem State.me_setPkt (s : State) (p : Nat) (x : Packet) : (s.setPkt p x).me = s.me := rfl
@[simp] theorem State.hart_setPkt (s : State) (p : Nat) (x : Packet) : (s.setPkt p x).hart = s.hart := rfl
@[simp] theorem State.agenda_setPkt (s : State) (p : Nat) (x : Packet) : (s.setPkt p x).agenda = s.agenda := rfl
@[simp] theorem State.round_setPkt (s : State) (p : Nat) (x : Packet) : (s.setPkt p x).round = s.round := rfl
@[simp] theorem State.passedOver_setPkt (s : State) (p : Nat) (x : Packet) : (s.setPkt p x).passedOver = s.passedOver := rfl
@[simp] theorem State.dbgOut_setPkt (s : State) (p : Nat) (x : Packet) : (s.setPkt p x).dbgOut = s.dbgOut := rfl
@[simp] theorem State.free_setPkt (s : State) (p : Nat) (x : Packet) : (s.setPkt p x).free = s.free := rfl

@[simp] theorem State.mem_modWarp (s : State) (w : Nat) (f : Warp → Warp) : (s.modWarp w f).mem = s.mem := rfl
@[simp] theorem State.poisoned_modWarp (s : State) (w : Nat) (f : Warp → Warp) : (s.modWarp w f).poisoned = s.poisoned := rfl
@[simp] theorem State.seals_modWarp (s : State) (w : Nat) (f : Warp → Warp) : (s.modWarp w f).seals = s.seals := rfl
@[simp] theorem State.lines_modWarp (s : State) (w : Nat) (f : Warp → Warp) : (s.modWarp w f).lines = s.lines := rfl
@[simp] theorem State.watched_modWarp (s : State) (w : Nat) (f : Warp → Warp) : (s.modWarp w f).watched = s.watched := rfl
@[simp] theorem State.dir_modWarp (s : State) (w : Nat) (f : Warp → Warp) : (s.modWarp w f).dir = s.dir := rfl
@[simp] theorem State.recs_modWarp (s : State) (w : Nat) (f : Warp → Warp) : (s.modWarp w f).recs = s.recs := rfl
@[simp] theorem State.recOrder_modWarp (s : State) (w : Nat) (f : Warp → Warp) : (s.modWarp w f).recOrder = s.recOrder := rfl
@[simp] theorem State.banks_modWarp (s : State) (w : Nat) (f : Warp → Warp) : (s.modWarp w f).banks = s.banks := rfl
@[simp] theorem State.clines_modWarp (s : State) (w : Nat) (f : Warp → Warp) : (s.modWarp w f).clines = s.clines := rfl
@[simp] theorem State.cways_modWarp (s : State) (w : Nat) (f : Warp → Warp) : (s.modWarp w f).cways = s.cways := rfl
@[simp] theorem State.llc_modWarp (s : State) (w : Nat) (f : Warp → Warp) : (s.modWarp w f).llc = s.llc := rfl
@[simp] theorem State.lways_modWarp (s : State) (w : Nat) (f : Warp → Warp) : (s.modWarp w f).lways = s.lways := rfl
@[simp] theorem State.ccopies_modWarp (s : State) (w : Nat) (f : Warp → Warp) : (s.modWarp w f).ccopies = s.ccopies := rfl
@[simp] theorem State.uses_modWarp (s : State) (w : Nat) (f : Warp → Warp) : (s.modWarp w f).uses = s.uses := rfl
@[simp] theorem State.warps_modWarp (s : State) (w : Nat) (f : Warp → Warp) : (s.modWarp w f).warps = Table.modify w f s.warps := rfl
@[simp] theorem State.wgs_modWarp (s : State) (w : Nat) (f : Warp → Warp) : (s.modWarp w f).wgs = s.wgs := rfl
@[simp] theorem State.cores_modWarp (s : State) (w : Nat) (f : Warp → Warp) : (s.modWarp w f).cores = s.cores := rfl
@[simp] theorem State.chips_modWarp (s : State) (w : Nat) (f : Warp → Warp) : (s.modWarp w f).chips = s.chips := rfl
@[simp] theorem State.hubs_modWarp (s : State) (w : Nat) (f : Warp → Warp) : (s.modWarp w f).hubs = s.hubs := rfl
@[simp] theorem State.harts_modWarp (s : State) (w : Nat) (f : Warp → Warp) : (s.modWarp w f).harts = s.harts := rfl
@[simp] theorem State.pkts_modWarp (s : State) (w : Nat) (f : Warp → Warp) : (s.modWarp w f).pkts = s.pkts := rfl
@[simp] theorem State.warpSeq_modWarp (s : State) (w : Nat) (f : Warp → Warp) : (s.modWarp w f).warpSeq = s.warpSeq := rfl
@[simp] theorem State.wgSeq_modWarp (s : State) (w : Nat) (f : Warp → Warp) : (s.modWarp w f).wgSeq = s.wgSeq := rfl
@[simp] theorem State.pktSeq_modWarp (s : State) (w : Nat) (f : Warp → Warp) : (s.modWarp w f).pktSeq = s.pktSeq := rfl
@[simp] theorem State.opSeq_modWarp (s : State) (w : Nat) (f : Warp → Warp) : (s.modWarp w f).opSeq = s.opSeq := rfl
@[simp] theorem State.lambda_modWarp (s : State) (w : Nat) (f : Warp → Warp) : (s.modWarp w f).lambda = s.lambda := rfl
@[simp] theorem State.worlds_modWarp (s : State) (w : Nat) (f : Warp → Warp) : (s.modWarp w f).worlds = s.worlds := rfl
@[simp] theorem State.keyCount_modWarp (s : State) (w : Nat) (f : Warp → Warp) : (s.modWarp w f).keyCount = s.keyCount := rfl
@[simp] theorem State.tenants_modWarp (s : State) (w : Nat) (f : Warp → Warp) : (s.modWarp w f).tenants = s.tenants := rfl
@[simp] theorem State.partsOwner_modWarp (s : State) (w : Nat) (f : Warp → Warp) : (s.modWarp w f).partsOwner = s.partsOwner := rfl
@[simp] theorem State.roots_modWarp (s : State) (w : Nat) (f : Warp → Warp) : (s.modWarp w f).roots = s.roots := rfl
@[simp] theorem State.modulePower_modWarp (s : State) (w : Nat) (f : Warp → Warp) : (s.modWarp w f).modulePower = s.modulePower := rfl
@[simp] theorem State.asleep_modWarp (s : State) (w : Nat) (f : Warp → Warp) : (s.modWarp w f).asleep = s.asleep := rfl
@[simp] theorem State.engine_modWarp (s : State) (w : Nat) (f : Warp → Warp) : (s.modWarp w f).engine = s.engine := rfl
@[simp] theorem State.remote_modWarp (s : State) (w : Nat) (f : Warp → Warp) : (s.modWarp w f).remote = s.remote := rfl
@[simp] theorem State.remoteSent_modWarp (s : State) (w : Nat) (f : Warp → Warp) : (s.modWarp w f).remoteSent = s.remoteSent := rfl
@[simp] theorem State.lastWriter_modWarp (s : State) (w : Nat) (f : Warp → Warp) : (s.modWarp w f).lastWriter = s.lastWriter := rfl
@[simp] theorem State.me_modWarp (s : State) (w : Nat) (f : Warp → Warp) : (s.modWarp w f).me = s.me := rfl
@[simp] theorem State.hart_modWarp (s : State) (w : Nat) (f : Warp → Warp) : (s.modWarp w f).hart = s.hart := rfl
@[simp] theorem State.agenda_modWarp (s : State) (w : Nat) (f : Warp → Warp) : (s.modWarp w f).agenda = s.agenda := rfl
@[simp] theorem State.round_modWarp (s : State) (w : Nat) (f : Warp → Warp) : (s.modWarp w f).round = s.round := rfl
@[simp] theorem State.passedOver_modWarp (s : State) (w : Nat) (f : Warp → Warp) : (s.modWarp w f).passedOver = s.passedOver := rfl
@[simp] theorem State.dbgOut_modWarp (s : State) (w : Nat) (f : Warp → Warp) : (s.modWarp w f).dbgOut = s.dbgOut := rfl
@[simp] theorem State.free_modWarp (s : State) (w : Nat) (f : Warp → Warp) : (s.modWarp w f).free = s.free := rfl

@[simp] theorem State.mem_modWg (s : State) (g : Nat) (f : Wg → Wg) : (s.modWg g f).mem = s.mem := rfl
@[simp] theorem State.poisoned_modWg (s : State) (g : Nat) (f : Wg → Wg) : (s.modWg g f).poisoned = s.poisoned := rfl
@[simp] theorem State.seals_modWg (s : State) (g : Nat) (f : Wg → Wg) : (s.modWg g f).seals = s.seals := rfl
@[simp] theorem State.lines_modWg (s : State) (g : Nat) (f : Wg → Wg) : (s.modWg g f).lines = s.lines := rfl
@[simp] theorem State.watched_modWg (s : State) (g : Nat) (f : Wg → Wg) : (s.modWg g f).watched = s.watched := rfl
@[simp] theorem State.dir_modWg (s : State) (g : Nat) (f : Wg → Wg) : (s.modWg g f).dir = s.dir := rfl
@[simp] theorem State.recs_modWg (s : State) (g : Nat) (f : Wg → Wg) : (s.modWg g f).recs = s.recs := rfl
@[simp] theorem State.recOrder_modWg (s : State) (g : Nat) (f : Wg → Wg) : (s.modWg g f).recOrder = s.recOrder := rfl
@[simp] theorem State.banks_modWg (s : State) (g : Nat) (f : Wg → Wg) : (s.modWg g f).banks = s.banks := rfl
@[simp] theorem State.clines_modWg (s : State) (g : Nat) (f : Wg → Wg) : (s.modWg g f).clines = s.clines := rfl
@[simp] theorem State.cways_modWg (s : State) (g : Nat) (f : Wg → Wg) : (s.modWg g f).cways = s.cways := rfl
@[simp] theorem State.llc_modWg (s : State) (g : Nat) (f : Wg → Wg) : (s.modWg g f).llc = s.llc := rfl
@[simp] theorem State.lways_modWg (s : State) (g : Nat) (f : Wg → Wg) : (s.modWg g f).lways = s.lways := rfl
@[simp] theorem State.ccopies_modWg (s : State) (g : Nat) (f : Wg → Wg) : (s.modWg g f).ccopies = s.ccopies := rfl
@[simp] theorem State.uses_modWg (s : State) (g : Nat) (f : Wg → Wg) : (s.modWg g f).uses = s.uses := rfl
@[simp] theorem State.warps_modWg (s : State) (g : Nat) (f : Wg → Wg) : (s.modWg g f).warps = s.warps := rfl
@[simp] theorem State.wgs_modWg (s : State) (g : Nat) (f : Wg → Wg) : (s.modWg g f).wgs = Table.modify g f s.wgs := rfl
@[simp] theorem State.cores_modWg (s : State) (g : Nat) (f : Wg → Wg) : (s.modWg g f).cores = s.cores := rfl
@[simp] theorem State.chips_modWg (s : State) (g : Nat) (f : Wg → Wg) : (s.modWg g f).chips = s.chips := rfl
@[simp] theorem State.hubs_modWg (s : State) (g : Nat) (f : Wg → Wg) : (s.modWg g f).hubs = s.hubs := rfl
@[simp] theorem State.harts_modWg (s : State) (g : Nat) (f : Wg → Wg) : (s.modWg g f).harts = s.harts := rfl
@[simp] theorem State.pkts_modWg (s : State) (g : Nat) (f : Wg → Wg) : (s.modWg g f).pkts = s.pkts := rfl
@[simp] theorem State.warpSeq_modWg (s : State) (g : Nat) (f : Wg → Wg) : (s.modWg g f).warpSeq = s.warpSeq := rfl
@[simp] theorem State.wgSeq_modWg (s : State) (g : Nat) (f : Wg → Wg) : (s.modWg g f).wgSeq = s.wgSeq := rfl
@[simp] theorem State.pktSeq_modWg (s : State) (g : Nat) (f : Wg → Wg) : (s.modWg g f).pktSeq = s.pktSeq := rfl
@[simp] theorem State.opSeq_modWg (s : State) (g : Nat) (f : Wg → Wg) : (s.modWg g f).opSeq = s.opSeq := rfl
@[simp] theorem State.lambda_modWg (s : State) (g : Nat) (f : Wg → Wg) : (s.modWg g f).lambda = s.lambda := rfl
@[simp] theorem State.worlds_modWg (s : State) (g : Nat) (f : Wg → Wg) : (s.modWg g f).worlds = s.worlds := rfl
@[simp] theorem State.keyCount_modWg (s : State) (g : Nat) (f : Wg → Wg) : (s.modWg g f).keyCount = s.keyCount := rfl
@[simp] theorem State.tenants_modWg (s : State) (g : Nat) (f : Wg → Wg) : (s.modWg g f).tenants = s.tenants := rfl
@[simp] theorem State.partsOwner_modWg (s : State) (g : Nat) (f : Wg → Wg) : (s.modWg g f).partsOwner = s.partsOwner := rfl
@[simp] theorem State.roots_modWg (s : State) (g : Nat) (f : Wg → Wg) : (s.modWg g f).roots = s.roots := rfl
@[simp] theorem State.modulePower_modWg (s : State) (g : Nat) (f : Wg → Wg) : (s.modWg g f).modulePower = s.modulePower := rfl
@[simp] theorem State.asleep_modWg (s : State) (g : Nat) (f : Wg → Wg) : (s.modWg g f).asleep = s.asleep := rfl
@[simp] theorem State.engine_modWg (s : State) (g : Nat) (f : Wg → Wg) : (s.modWg g f).engine = s.engine := rfl
@[simp] theorem State.remote_modWg (s : State) (g : Nat) (f : Wg → Wg) : (s.modWg g f).remote = s.remote := rfl
@[simp] theorem State.remoteSent_modWg (s : State) (g : Nat) (f : Wg → Wg) : (s.modWg g f).remoteSent = s.remoteSent := rfl
@[simp] theorem State.lastWriter_modWg (s : State) (g : Nat) (f : Wg → Wg) : (s.modWg g f).lastWriter = s.lastWriter := rfl
@[simp] theorem State.me_modWg (s : State) (g : Nat) (f : Wg → Wg) : (s.modWg g f).me = s.me := rfl
@[simp] theorem State.hart_modWg (s : State) (g : Nat) (f : Wg → Wg) : (s.modWg g f).hart = s.hart := rfl
@[simp] theorem State.agenda_modWg (s : State) (g : Nat) (f : Wg → Wg) : (s.modWg g f).agenda = s.agenda := rfl
@[simp] theorem State.round_modWg (s : State) (g : Nat) (f : Wg → Wg) : (s.modWg g f).round = s.round := rfl
@[simp] theorem State.passedOver_modWg (s : State) (g : Nat) (f : Wg → Wg) : (s.modWg g f).passedOver = s.passedOver := rfl
@[simp] theorem State.dbgOut_modWg (s : State) (g : Nat) (f : Wg → Wg) : (s.modWg g f).dbgOut = s.dbgOut := rfl
@[simp] theorem State.free_modWg (s : State) (g : Nat) (f : Wg → Wg) : (s.modWg g f).free = s.free := rfl

@[simp] theorem State.mem_modCore (s : State) (c : Nat) (f : Core → Core) : (s.modCore c f).mem = s.mem := rfl
@[simp] theorem State.poisoned_modCore (s : State) (c : Nat) (f : Core → Core) : (s.modCore c f).poisoned = s.poisoned := rfl
@[simp] theorem State.seals_modCore (s : State) (c : Nat) (f : Core → Core) : (s.modCore c f).seals = s.seals := rfl
@[simp] theorem State.lines_modCore (s : State) (c : Nat) (f : Core → Core) : (s.modCore c f).lines = s.lines := rfl
@[simp] theorem State.watched_modCore (s : State) (c : Nat) (f : Core → Core) : (s.modCore c f).watched = s.watched := rfl
@[simp] theorem State.dir_modCore (s : State) (c : Nat) (f : Core → Core) : (s.modCore c f).dir = s.dir := rfl
@[simp] theorem State.recs_modCore (s : State) (c : Nat) (f : Core → Core) : (s.modCore c f).recs = s.recs := rfl
@[simp] theorem State.recOrder_modCore (s : State) (c : Nat) (f : Core → Core) : (s.modCore c f).recOrder = s.recOrder := rfl
@[simp] theorem State.banks_modCore (s : State) (c : Nat) (f : Core → Core) : (s.modCore c f).banks = s.banks := rfl
@[simp] theorem State.clines_modCore (s : State) (c : Nat) (f : Core → Core) : (s.modCore c f).clines = s.clines := rfl
@[simp] theorem State.cways_modCore (s : State) (c : Nat) (f : Core → Core) : (s.modCore c f).cways = s.cways := rfl
@[simp] theorem State.llc_modCore (s : State) (c : Nat) (f : Core → Core) : (s.modCore c f).llc = s.llc := rfl
@[simp] theorem State.lways_modCore (s : State) (c : Nat) (f : Core → Core) : (s.modCore c f).lways = s.lways := rfl
@[simp] theorem State.ccopies_modCore (s : State) (c : Nat) (f : Core → Core) : (s.modCore c f).ccopies = s.ccopies := rfl
@[simp] theorem State.uses_modCore (s : State) (c : Nat) (f : Core → Core) : (s.modCore c f).uses = s.uses := rfl
@[simp] theorem State.warps_modCore (s : State) (c : Nat) (f : Core → Core) : (s.modCore c f).warps = s.warps := rfl
@[simp] theorem State.wgs_modCore (s : State) (c : Nat) (f : Core → Core) : (s.modCore c f).wgs = s.wgs := rfl
@[simp] theorem State.cores_modCore (s : State) (c : Nat) (f : Core → Core) : (s.modCore c f).cores = Table.put {} c (f (s.core c)) s.cores := rfl
@[simp] theorem State.chips_modCore (s : State) (c : Nat) (f : Core → Core) : (s.modCore c f).chips = s.chips := rfl
@[simp] theorem State.hubs_modCore (s : State) (c : Nat) (f : Core → Core) : (s.modCore c f).hubs = s.hubs := rfl
@[simp] theorem State.harts_modCore (s : State) (c : Nat) (f : Core → Core) : (s.modCore c f).harts = s.harts := rfl
@[simp] theorem State.pkts_modCore (s : State) (c : Nat) (f : Core → Core) : (s.modCore c f).pkts = s.pkts := rfl
@[simp] theorem State.warpSeq_modCore (s : State) (c : Nat) (f : Core → Core) : (s.modCore c f).warpSeq = s.warpSeq := rfl
@[simp] theorem State.wgSeq_modCore (s : State) (c : Nat) (f : Core → Core) : (s.modCore c f).wgSeq = s.wgSeq := rfl
@[simp] theorem State.pktSeq_modCore (s : State) (c : Nat) (f : Core → Core) : (s.modCore c f).pktSeq = s.pktSeq := rfl
@[simp] theorem State.opSeq_modCore (s : State) (c : Nat) (f : Core → Core) : (s.modCore c f).opSeq = s.opSeq := rfl
@[simp] theorem State.lambda_modCore (s : State) (c : Nat) (f : Core → Core) : (s.modCore c f).lambda = s.lambda := rfl
@[simp] theorem State.worlds_modCore (s : State) (c : Nat) (f : Core → Core) : (s.modCore c f).worlds = s.worlds := rfl
@[simp] theorem State.keyCount_modCore (s : State) (c : Nat) (f : Core → Core) : (s.modCore c f).keyCount = s.keyCount := rfl
@[simp] theorem State.tenants_modCore (s : State) (c : Nat) (f : Core → Core) : (s.modCore c f).tenants = s.tenants := rfl
@[simp] theorem State.partsOwner_modCore (s : State) (c : Nat) (f : Core → Core) : (s.modCore c f).partsOwner = s.partsOwner := rfl
@[simp] theorem State.roots_modCore (s : State) (c : Nat) (f : Core → Core) : (s.modCore c f).roots = s.roots := rfl
@[simp] theorem State.modulePower_modCore (s : State) (c : Nat) (f : Core → Core) : (s.modCore c f).modulePower = s.modulePower := rfl
@[simp] theorem State.asleep_modCore (s : State) (c : Nat) (f : Core → Core) : (s.modCore c f).asleep = s.asleep := rfl
@[simp] theorem State.engine_modCore (s : State) (c : Nat) (f : Core → Core) : (s.modCore c f).engine = s.engine := rfl
@[simp] theorem State.remote_modCore (s : State) (c : Nat) (f : Core → Core) : (s.modCore c f).remote = s.remote := rfl
@[simp] theorem State.remoteSent_modCore (s : State) (c : Nat) (f : Core → Core) : (s.modCore c f).remoteSent = s.remoteSent := rfl
@[simp] theorem State.lastWriter_modCore (s : State) (c : Nat) (f : Core → Core) : (s.modCore c f).lastWriter = s.lastWriter := rfl
@[simp] theorem State.me_modCore (s : State) (c : Nat) (f : Core → Core) : (s.modCore c f).me = s.me := rfl
@[simp] theorem State.hart_modCore (s : State) (c : Nat) (f : Core → Core) : (s.modCore c f).hart = s.hart := rfl
@[simp] theorem State.agenda_modCore (s : State) (c : Nat) (f : Core → Core) : (s.modCore c f).agenda = s.agenda := rfl
@[simp] theorem State.round_modCore (s : State) (c : Nat) (f : Core → Core) : (s.modCore c f).round = s.round := rfl
@[simp] theorem State.passedOver_modCore (s : State) (c : Nat) (f : Core → Core) : (s.modCore c f).passedOver = s.passedOver := rfl
@[simp] theorem State.dbgOut_modCore (s : State) (c : Nat) (f : Core → Core) : (s.modCore c f).dbgOut = s.dbgOut := rfl
@[simp] theorem State.free_modCore (s : State) (c : Nat) (f : Core → Core) : (s.modCore c f).free = s.free := rfl

@[simp] theorem State.mem_modHub (s : State) (h : Nat) (f : Hub → Hub) : (s.modHub h f).mem = s.mem := rfl
@[simp] theorem State.poisoned_modHub (s : State) (h : Nat) (f : Hub → Hub) : (s.modHub h f).poisoned = s.poisoned := rfl
@[simp] theorem State.seals_modHub (s : State) (h : Nat) (f : Hub → Hub) : (s.modHub h f).seals = s.seals := rfl
@[simp] theorem State.lines_modHub (s : State) (h : Nat) (f : Hub → Hub) : (s.modHub h f).lines = s.lines := rfl
@[simp] theorem State.watched_modHub (s : State) (h : Nat) (f : Hub → Hub) : (s.modHub h f).watched = s.watched := rfl
@[simp] theorem State.dir_modHub (s : State) (h : Nat) (f : Hub → Hub) : (s.modHub h f).dir = s.dir := rfl
@[simp] theorem State.recs_modHub (s : State) (h : Nat) (f : Hub → Hub) : (s.modHub h f).recs = s.recs := rfl
@[simp] theorem State.recOrder_modHub (s : State) (h : Nat) (f : Hub → Hub) : (s.modHub h f).recOrder = s.recOrder := rfl
@[simp] theorem State.banks_modHub (s : State) (h : Nat) (f : Hub → Hub) : (s.modHub h f).banks = s.banks := rfl
@[simp] theorem State.clines_modHub (s : State) (h : Nat) (f : Hub → Hub) : (s.modHub h f).clines = s.clines := rfl
@[simp] theorem State.cways_modHub (s : State) (h : Nat) (f : Hub → Hub) : (s.modHub h f).cways = s.cways := rfl
@[simp] theorem State.llc_modHub (s : State) (h : Nat) (f : Hub → Hub) : (s.modHub h f).llc = s.llc := rfl
@[simp] theorem State.lways_modHub (s : State) (h : Nat) (f : Hub → Hub) : (s.modHub h f).lways = s.lways := rfl
@[simp] theorem State.ccopies_modHub (s : State) (h : Nat) (f : Hub → Hub) : (s.modHub h f).ccopies = s.ccopies := rfl
@[simp] theorem State.uses_modHub (s : State) (h : Nat) (f : Hub → Hub) : (s.modHub h f).uses = s.uses := rfl
@[simp] theorem State.warps_modHub (s : State) (h : Nat) (f : Hub → Hub) : (s.modHub h f).warps = s.warps := rfl
@[simp] theorem State.wgs_modHub (s : State) (h : Nat) (f : Hub → Hub) : (s.modHub h f).wgs = s.wgs := rfl
@[simp] theorem State.cores_modHub (s : State) (h : Nat) (f : Hub → Hub) : (s.modHub h f).cores = s.cores := rfl
@[simp] theorem State.chips_modHub (s : State) (h : Nat) (f : Hub → Hub) : (s.modHub h f).chips = s.chips := rfl
@[simp] theorem State.hubs_modHub (s : State) (h : Nat) (f : Hub → Hub) : (s.modHub h f).hubs = Table.put {} h (f (s.hub h)) s.hubs := rfl
@[simp] theorem State.harts_modHub (s : State) (h : Nat) (f : Hub → Hub) : (s.modHub h f).harts = s.harts := rfl
@[simp] theorem State.pkts_modHub (s : State) (h : Nat) (f : Hub → Hub) : (s.modHub h f).pkts = s.pkts := rfl
@[simp] theorem State.warpSeq_modHub (s : State) (h : Nat) (f : Hub → Hub) : (s.modHub h f).warpSeq = s.warpSeq := rfl
@[simp] theorem State.wgSeq_modHub (s : State) (h : Nat) (f : Hub → Hub) : (s.modHub h f).wgSeq = s.wgSeq := rfl
@[simp] theorem State.pktSeq_modHub (s : State) (h : Nat) (f : Hub → Hub) : (s.modHub h f).pktSeq = s.pktSeq := rfl
@[simp] theorem State.opSeq_modHub (s : State) (h : Nat) (f : Hub → Hub) : (s.modHub h f).opSeq = s.opSeq := rfl
@[simp] theorem State.lambda_modHub (s : State) (h : Nat) (f : Hub → Hub) : (s.modHub h f).lambda = s.lambda := rfl
@[simp] theorem State.worlds_modHub (s : State) (h : Nat) (f : Hub → Hub) : (s.modHub h f).worlds = s.worlds := rfl
@[simp] theorem State.keyCount_modHub (s : State) (h : Nat) (f : Hub → Hub) : (s.modHub h f).keyCount = s.keyCount := rfl
@[simp] theorem State.tenants_modHub (s : State) (h : Nat) (f : Hub → Hub) : (s.modHub h f).tenants = s.tenants := rfl
@[simp] theorem State.partsOwner_modHub (s : State) (h : Nat) (f : Hub → Hub) : (s.modHub h f).partsOwner = s.partsOwner := rfl
@[simp] theorem State.roots_modHub (s : State) (h : Nat) (f : Hub → Hub) : (s.modHub h f).roots = s.roots := rfl
@[simp] theorem State.modulePower_modHub (s : State) (h : Nat) (f : Hub → Hub) : (s.modHub h f).modulePower = s.modulePower := rfl
@[simp] theorem State.asleep_modHub (s : State) (h : Nat) (f : Hub → Hub) : (s.modHub h f).asleep = s.asleep := rfl
@[simp] theorem State.engine_modHub (s : State) (h : Nat) (f : Hub → Hub) : (s.modHub h f).engine = s.engine := rfl
@[simp] theorem State.remote_modHub (s : State) (h : Nat) (f : Hub → Hub) : (s.modHub h f).remote = s.remote := rfl
@[simp] theorem State.remoteSent_modHub (s : State) (h : Nat) (f : Hub → Hub) : (s.modHub h f).remoteSent = s.remoteSent := rfl
@[simp] theorem State.lastWriter_modHub (s : State) (h : Nat) (f : Hub → Hub) : (s.modHub h f).lastWriter = s.lastWriter := rfl
@[simp] theorem State.me_modHub (s : State) (h : Nat) (f : Hub → Hub) : (s.modHub h f).me = s.me := rfl
@[simp] theorem State.hart_modHub (s : State) (h : Nat) (f : Hub → Hub) : (s.modHub h f).hart = s.hart := rfl
@[simp] theorem State.agenda_modHub (s : State) (h : Nat) (f : Hub → Hub) : (s.modHub h f).agenda = s.agenda := rfl
@[simp] theorem State.round_modHub (s : State) (h : Nat) (f : Hub → Hub) : (s.modHub h f).round = s.round := rfl
@[simp] theorem State.passedOver_modHub (s : State) (h : Nat) (f : Hub → Hub) : (s.modHub h f).passedOver = s.passedOver := rfl
@[simp] theorem State.dbgOut_modHub (s : State) (h : Nat) (f : Hub → Hub) : (s.modHub h f).dbgOut = s.dbgOut := rfl
@[simp] theorem State.free_modHub (s : State) (h : Nat) (f : Hub → Hub) : (s.modHub h f).free = s.free := rfl

@[simp] theorem State.mem_setPoison (s : State) (k : Nat) (b : Bool) : (s.setPoison k b).mem = s.mem := rfl
@[simp] theorem State.poisoned_setPoison (s : State) (k : Nat) (b : Bool) : (s.setPoison k b).poisoned = Table.put false k b s.poisoned := rfl
@[simp] theorem State.seals_setPoison (s : State) (k : Nat) (b : Bool) : (s.setPoison k b).seals = s.seals := rfl
@[simp] theorem State.lines_setPoison (s : State) (k : Nat) (b : Bool) : (s.setPoison k b).lines = s.lines := rfl
@[simp] theorem State.watched_setPoison (s : State) (k : Nat) (b : Bool) : (s.setPoison k b).watched = s.watched := rfl
@[simp] theorem State.dir_setPoison (s : State) (k : Nat) (b : Bool) : (s.setPoison k b).dir = s.dir := rfl
@[simp] theorem State.recs_setPoison (s : State) (k : Nat) (b : Bool) : (s.setPoison k b).recs = s.recs := rfl
@[simp] theorem State.recOrder_setPoison (s : State) (k : Nat) (b : Bool) : (s.setPoison k b).recOrder = s.recOrder := rfl
@[simp] theorem State.banks_setPoison (s : State) (k : Nat) (b : Bool) : (s.setPoison k b).banks = s.banks := rfl
@[simp] theorem State.clines_setPoison (s : State) (k : Nat) (b : Bool) : (s.setPoison k b).clines = s.clines := rfl
@[simp] theorem State.cways_setPoison (s : State) (k : Nat) (b : Bool) : (s.setPoison k b).cways = s.cways := rfl
@[simp] theorem State.llc_setPoison (s : State) (k : Nat) (b : Bool) : (s.setPoison k b).llc = s.llc := rfl
@[simp] theorem State.lways_setPoison (s : State) (k : Nat) (b : Bool) : (s.setPoison k b).lways = s.lways := rfl
@[simp] theorem State.ccopies_setPoison (s : State) (k : Nat) (b : Bool) : (s.setPoison k b).ccopies = s.ccopies := rfl
@[simp] theorem State.uses_setPoison (s : State) (k : Nat) (b : Bool) : (s.setPoison k b).uses = s.uses := rfl
@[simp] theorem State.warps_setPoison (s : State) (k : Nat) (b : Bool) : (s.setPoison k b).warps = s.warps := rfl
@[simp] theorem State.wgs_setPoison (s : State) (k : Nat) (b : Bool) : (s.setPoison k b).wgs = s.wgs := rfl
@[simp] theorem State.cores_setPoison (s : State) (k : Nat) (b : Bool) : (s.setPoison k b).cores = s.cores := rfl
@[simp] theorem State.chips_setPoison (s : State) (k : Nat) (b : Bool) : (s.setPoison k b).chips = s.chips := rfl
@[simp] theorem State.hubs_setPoison (s : State) (k : Nat) (b : Bool) : (s.setPoison k b).hubs = s.hubs := rfl
@[simp] theorem State.harts_setPoison (s : State) (k : Nat) (b : Bool) : (s.setPoison k b).harts = s.harts := rfl
@[simp] theorem State.pkts_setPoison (s : State) (k : Nat) (b : Bool) : (s.setPoison k b).pkts = s.pkts := rfl
@[simp] theorem State.warpSeq_setPoison (s : State) (k : Nat) (b : Bool) : (s.setPoison k b).warpSeq = s.warpSeq := rfl
@[simp] theorem State.wgSeq_setPoison (s : State) (k : Nat) (b : Bool) : (s.setPoison k b).wgSeq = s.wgSeq := rfl
@[simp] theorem State.pktSeq_setPoison (s : State) (k : Nat) (b : Bool) : (s.setPoison k b).pktSeq = s.pktSeq := rfl
@[simp] theorem State.opSeq_setPoison (s : State) (k : Nat) (b : Bool) : (s.setPoison k b).opSeq = s.opSeq := rfl
@[simp] theorem State.lambda_setPoison (s : State) (k : Nat) (b : Bool) : (s.setPoison k b).lambda = s.lambda := rfl
@[simp] theorem State.worlds_setPoison (s : State) (k : Nat) (b : Bool) : (s.setPoison k b).worlds = s.worlds := rfl
@[simp] theorem State.keyCount_setPoison (s : State) (k : Nat) (b : Bool) : (s.setPoison k b).keyCount = s.keyCount := rfl
@[simp] theorem State.tenants_setPoison (s : State) (k : Nat) (b : Bool) : (s.setPoison k b).tenants = s.tenants := rfl
@[simp] theorem State.partsOwner_setPoison (s : State) (k : Nat) (b : Bool) : (s.setPoison k b).partsOwner = s.partsOwner := rfl
@[simp] theorem State.roots_setPoison (s : State) (k : Nat) (b : Bool) : (s.setPoison k b).roots = s.roots := rfl
@[simp] theorem State.modulePower_setPoison (s : State) (k : Nat) (b : Bool) : (s.setPoison k b).modulePower = s.modulePower := rfl
@[simp] theorem State.asleep_setPoison (s : State) (k : Nat) (b : Bool) : (s.setPoison k b).asleep = s.asleep := rfl
@[simp] theorem State.engine_setPoison (s : State) (k : Nat) (b : Bool) : (s.setPoison k b).engine = s.engine := rfl
@[simp] theorem State.remote_setPoison (s : State) (k : Nat) (b : Bool) : (s.setPoison k b).remote = s.remote := rfl
@[simp] theorem State.remoteSent_setPoison (s : State) (k : Nat) (b : Bool) : (s.setPoison k b).remoteSent = s.remoteSent := rfl
@[simp] theorem State.lastWriter_setPoison (s : State) (k : Nat) (b : Bool) : (s.setPoison k b).lastWriter = s.lastWriter := rfl
@[simp] theorem State.me_setPoison (s : State) (k : Nat) (b : Bool) : (s.setPoison k b).me = s.me := rfl
@[simp] theorem State.hart_setPoison (s : State) (k : Nat) (b : Bool) : (s.setPoison k b).hart = s.hart := rfl
@[simp] theorem State.agenda_setPoison (s : State) (k : Nat) (b : Bool) : (s.setPoison k b).agenda = s.agenda := rfl
@[simp] theorem State.round_setPoison (s : State) (k : Nat) (b : Bool) : (s.setPoison k b).round = s.round := rfl
@[simp] theorem State.passedOver_setPoison (s : State) (k : Nat) (b : Bool) : (s.setPoison k b).passedOver = s.passedOver := rfl
@[simp] theorem State.dbgOut_setPoison (s : State) (k : Nat) (b : Bool) : (s.setPoison k b).dbgOut = s.dbgOut := rfl
@[simp] theorem State.free_setPoison (s : State) (k : Nat) (b : Bool) : (s.setPoison k b).free = s.free := rfl

@[simp] theorem State.mem_block (s : State) (w : Nat) (k : Wait) : (s.block w k).mem = s.mem := rfl
@[simp] theorem State.poisoned_block (s : State) (w : Nat) (k : Wait) : (s.block w k).poisoned = s.poisoned := rfl
@[simp] theorem State.seals_block (s : State) (w : Nat) (k : Wait) : (s.block w k).seals = s.seals := rfl
@[simp] theorem State.lines_block (s : State) (w : Nat) (k : Wait) : (s.block w k).lines = s.lines := rfl
@[simp] theorem State.watched_block (s : State) (w : Nat) (k : Wait) : (s.block w k).watched = s.watched := rfl
@[simp] theorem State.dir_block (s : State) (w : Nat) (k : Wait) : (s.block w k).dir = s.dir := rfl
@[simp] theorem State.recs_block (s : State) (w : Nat) (k : Wait) : (s.block w k).recs = s.recs := rfl
@[simp] theorem State.recOrder_block (s : State) (w : Nat) (k : Wait) : (s.block w k).recOrder = s.recOrder := rfl
@[simp] theorem State.banks_block (s : State) (w : Nat) (k : Wait) : (s.block w k).banks = s.banks := rfl
@[simp] theorem State.clines_block (s : State) (w : Nat) (k : Wait) : (s.block w k).clines = s.clines := rfl
@[simp] theorem State.cways_block (s : State) (w : Nat) (k : Wait) : (s.block w k).cways = s.cways := rfl
@[simp] theorem State.llc_block (s : State) (w : Nat) (k : Wait) : (s.block w k).llc = s.llc := rfl
@[simp] theorem State.lways_block (s : State) (w : Nat) (k : Wait) : (s.block w k).lways = s.lways := rfl
@[simp] theorem State.ccopies_block (s : State) (w : Nat) (k : Wait) : (s.block w k).ccopies = s.ccopies := rfl
@[simp] theorem State.uses_block (s : State) (w : Nat) (k : Wait) : (s.block w k).uses = s.uses := rfl
@[simp] theorem State.warps_block (s : State) (w : Nat) (k : Wait) : (s.block w k).warps = Table.modify w (fun x => { x with wait := k }) s.warps := rfl
@[simp] theorem State.wgs_block (s : State) (w : Nat) (k : Wait) : (s.block w k).wgs = s.wgs := rfl
@[simp] theorem State.cores_block (s : State) (w : Nat) (k : Wait) : (s.block w k).cores = s.cores := rfl
@[simp] theorem State.chips_block (s : State) (w : Nat) (k : Wait) : (s.block w k).chips = s.chips := rfl
@[simp] theorem State.hubs_block (s : State) (w : Nat) (k : Wait) : (s.block w k).hubs = s.hubs := rfl
@[simp] theorem State.harts_block (s : State) (w : Nat) (k : Wait) : (s.block w k).harts = s.harts := rfl
@[simp] theorem State.pkts_block (s : State) (w : Nat) (k : Wait) : (s.block w k).pkts = s.pkts := rfl
@[simp] theorem State.warpSeq_block (s : State) (w : Nat) (k : Wait) : (s.block w k).warpSeq = s.warpSeq := rfl
@[simp] theorem State.wgSeq_block (s : State) (w : Nat) (k : Wait) : (s.block w k).wgSeq = s.wgSeq := rfl
@[simp] theorem State.pktSeq_block (s : State) (w : Nat) (k : Wait) : (s.block w k).pktSeq = s.pktSeq := rfl
@[simp] theorem State.opSeq_block (s : State) (w : Nat) (k : Wait) : (s.block w k).opSeq = s.opSeq := rfl
@[simp] theorem State.lambda_block (s : State) (w : Nat) (k : Wait) : (s.block w k).lambda = s.lambda := rfl
@[simp] theorem State.worlds_block (s : State) (w : Nat) (k : Wait) : (s.block w k).worlds = s.worlds := rfl
@[simp] theorem State.keyCount_block (s : State) (w : Nat) (k : Wait) : (s.block w k).keyCount = s.keyCount := rfl
@[simp] theorem State.tenants_block (s : State) (w : Nat) (k : Wait) : (s.block w k).tenants = s.tenants := rfl
@[simp] theorem State.partsOwner_block (s : State) (w : Nat) (k : Wait) : (s.block w k).partsOwner = s.partsOwner := rfl
@[simp] theorem State.roots_block (s : State) (w : Nat) (k : Wait) : (s.block w k).roots = s.roots := rfl
@[simp] theorem State.modulePower_block (s : State) (w : Nat) (k : Wait) : (s.block w k).modulePower = s.modulePower := rfl
@[simp] theorem State.asleep_block (s : State) (w : Nat) (k : Wait) : (s.block w k).asleep = s.asleep := rfl
@[simp] theorem State.engine_block (s : State) (w : Nat) (k : Wait) : (s.block w k).engine = s.engine := rfl
@[simp] theorem State.remote_block (s : State) (w : Nat) (k : Wait) : (s.block w k).remote = s.remote := rfl
@[simp] theorem State.remoteSent_block (s : State) (w : Nat) (k : Wait) : (s.block w k).remoteSent = s.remoteSent := rfl
@[simp] theorem State.lastWriter_block (s : State) (w : Nat) (k : Wait) : (s.block w k).lastWriter = s.lastWriter := rfl
@[simp] theorem State.me_block (s : State) (w : Nat) (k : Wait) : (s.block w k).me = s.me := rfl
@[simp] theorem State.hart_block (s : State) (w : Nat) (k : Wait) : (s.block w k).hart = s.hart := rfl
@[simp] theorem State.agenda_block (s : State) (w : Nat) (k : Wait) : (s.block w k).agenda = s.agenda := rfl
@[simp] theorem State.round_block (s : State) (w : Nat) (k : Wait) : (s.block w k).round = s.round := rfl
@[simp] theorem State.passedOver_block (s : State) (w : Nat) (k : Wait) : (s.block w k).passedOver = s.passedOver := rfl
@[simp] theorem State.dbgOut_block (s : State) (w : Nat) (k : Wait) : (s.block w k).dbgOut = s.dbgOut := rfl
@[simp] theorem State.free_block (s : State) (w : Nat) (k : Wait) : (s.block w k).free = s.free := rfl

@[simp] theorem State.mem_count (s : State) (g k n : Nat) : (s.count g k n).mem = s.mem := rfl
@[simp] theorem State.poisoned_count (s : State) (g k n : Nat) : (s.count g k n).poisoned = s.poisoned := rfl
@[simp] theorem State.seals_count (s : State) (g k n : Nat) : (s.count g k n).seals = s.seals := rfl
@[simp] theorem State.lines_count (s : State) (g k n : Nat) : (s.count g k n).lines = s.lines := rfl
@[simp] theorem State.watched_count (s : State) (g k n : Nat) : (s.count g k n).watched = s.watched := rfl
@[simp] theorem State.dir_count (s : State) (g k n : Nat) : (s.count g k n).dir = s.dir := rfl
@[simp] theorem State.recs_count (s : State) (g k n : Nat) : (s.count g k n).recs = s.recs := rfl
@[simp] theorem State.recOrder_count (s : State) (g k n : Nat) : (s.count g k n).recOrder = s.recOrder := rfl
@[simp] theorem State.banks_count (s : State) (g k n : Nat) : (s.count g k n).banks = s.banks := rfl
@[simp] theorem State.clines_count (s : State) (g k n : Nat) : (s.count g k n).clines = s.clines := rfl
@[simp] theorem State.cways_count (s : State) (g k n : Nat) : (s.count g k n).cways = s.cways := rfl
@[simp] theorem State.llc_count (s : State) (g k n : Nat) : (s.count g k n).llc = s.llc := rfl
@[simp] theorem State.lways_count (s : State) (g k n : Nat) : (s.count g k n).lways = s.lways := rfl
@[simp] theorem State.ccopies_count (s : State) (g k n : Nat) : (s.count g k n).ccopies = s.ccopies := rfl
@[simp] theorem State.uses_count (s : State) (g k n : Nat) : (s.count g k n).uses = s.uses := rfl
@[simp] theorem State.warps_count (s : State) (g k n : Nat) : (s.count g k n).warps = s.warps := rfl
@[simp] theorem State.wgs_count (s : State) (g k n : Nat) : (s.count g k n).wgs = Table.modify g (fun x => if x.stands then { x with perf := listSet k (x.perf.getD k 0 + BitVec.ofNat 64 n) x.perf } else x) s.wgs := rfl
@[simp] theorem State.cores_count (s : State) (g k n : Nat) : (s.count g k n).cores = s.cores := rfl
@[simp] theorem State.chips_count (s : State) (g k n : Nat) : (s.count g k n).chips = s.chips := rfl
@[simp] theorem State.hubs_count (s : State) (g k n : Nat) : (s.count g k n).hubs = s.hubs := rfl
@[simp] theorem State.harts_count (s : State) (g k n : Nat) : (s.count g k n).harts = s.harts := rfl
@[simp] theorem State.pkts_count (s : State) (g k n : Nat) : (s.count g k n).pkts = s.pkts := rfl
@[simp] theorem State.warpSeq_count (s : State) (g k n : Nat) : (s.count g k n).warpSeq = s.warpSeq := rfl
@[simp] theorem State.wgSeq_count (s : State) (g k n : Nat) : (s.count g k n).wgSeq = s.wgSeq := rfl
@[simp] theorem State.pktSeq_count (s : State) (g k n : Nat) : (s.count g k n).pktSeq = s.pktSeq := rfl
@[simp] theorem State.opSeq_count (s : State) (g k n : Nat) : (s.count g k n).opSeq = s.opSeq := rfl
@[simp] theorem State.lambda_count (s : State) (g k n : Nat) : (s.count g k n).lambda = s.lambda := rfl
@[simp] theorem State.worlds_count (s : State) (g k n : Nat) : (s.count g k n).worlds = s.worlds := rfl
@[simp] theorem State.keyCount_count (s : State) (g k n : Nat) : (s.count g k n).keyCount = s.keyCount := rfl
@[simp] theorem State.tenants_count (s : State) (g k n : Nat) : (s.count g k n).tenants = s.tenants := rfl
@[simp] theorem State.partsOwner_count (s : State) (g k n : Nat) : (s.count g k n).partsOwner = s.partsOwner := rfl
@[simp] theorem State.roots_count (s : State) (g k n : Nat) : (s.count g k n).roots = s.roots := rfl
@[simp] theorem State.modulePower_count (s : State) (g k n : Nat) : (s.count g k n).modulePower = s.modulePower := rfl
@[simp] theorem State.asleep_count (s : State) (g k n : Nat) : (s.count g k n).asleep = s.asleep := rfl
@[simp] theorem State.engine_count (s : State) (g k n : Nat) : (s.count g k n).engine = s.engine := rfl
@[simp] theorem State.remote_count (s : State) (g k n : Nat) : (s.count g k n).remote = s.remote := rfl
@[simp] theorem State.remoteSent_count (s : State) (g k n : Nat) : (s.count g k n).remoteSent = s.remoteSent := rfl
@[simp] theorem State.lastWriter_count (s : State) (g k n : Nat) : (s.count g k n).lastWriter = s.lastWriter := rfl
@[simp] theorem State.me_count (s : State) (g k n : Nat) : (s.count g k n).me = s.me := rfl
@[simp] theorem State.hart_count (s : State) (g k n : Nat) : (s.count g k n).hart = s.hart := rfl
@[simp] theorem State.agenda_count (s : State) (g k n : Nat) : (s.count g k n).agenda = s.agenda := rfl
@[simp] theorem State.round_count (s : State) (g k n : Nat) : (s.count g k n).round = s.round := rfl
@[simp] theorem State.passedOver_count (s : State) (g k n : Nat) : (s.count g k n).passedOver = s.passedOver := rfl
@[simp] theorem State.dbgOut_count (s : State) (g k n : Nat) : (s.count g k n).dbgOut = s.dbgOut := rfl
@[simp] theorem State.free_count (s : State) (g k n : Nat) : (s.count g k n).free = s.free := rfl

@[simp] theorem State.mem_put (s : State) (c : Ctx) (n : Nat) (m : Mask) (v : Lanes) (k : Tag) (lat : Nat) : (s.put c n m v k lat).mem = s.mem := rfl
@[simp] theorem State.poisoned_put (s : State) (c : Ctx) (n : Nat) (m : Mask) (v : Lanes) (k : Tag) (lat : Nat) : (s.put c n m v k lat).poisoned = s.poisoned := rfl
@[simp] theorem State.seals_put (s : State) (c : Ctx) (n : Nat) (m : Mask) (v : Lanes) (k : Tag) (lat : Nat) : (s.put c n m v k lat).seals = s.seals := rfl
@[simp] theorem State.lines_put (s : State) (c : Ctx) (n : Nat) (m : Mask) (v : Lanes) (k : Tag) (lat : Nat) : (s.put c n m v k lat).lines = s.lines := rfl
@[simp] theorem State.watched_put (s : State) (c : Ctx) (n : Nat) (m : Mask) (v : Lanes) (k : Tag) (lat : Nat) : (s.put c n m v k lat).watched = s.watched := rfl
@[simp] theorem State.dir_put (s : State) (c : Ctx) (n : Nat) (m : Mask) (v : Lanes) (k : Tag) (lat : Nat) : (s.put c n m v k lat).dir = s.dir := rfl
@[simp] theorem State.recs_put (s : State) (c : Ctx) (n : Nat) (m : Mask) (v : Lanes) (k : Tag) (lat : Nat) : (s.put c n m v k lat).recs = s.recs := rfl
@[simp] theorem State.recOrder_put (s : State) (c : Ctx) (n : Nat) (m : Mask) (v : Lanes) (k : Tag) (lat : Nat) : (s.put c n m v k lat).recOrder = s.recOrder := rfl
@[simp] theorem State.banks_put (s : State) (c : Ctx) (n : Nat) (m : Mask) (v : Lanes) (k : Tag) (lat : Nat) : (s.put c n m v k lat).banks = s.banks := rfl
@[simp] theorem State.clines_put (s : State) (c : Ctx) (n : Nat) (m : Mask) (v : Lanes) (k : Tag) (lat : Nat) : (s.put c n m v k lat).clines = s.clines := rfl
@[simp] theorem State.cways_put (s : State) (c : Ctx) (n : Nat) (m : Mask) (v : Lanes) (k : Tag) (lat : Nat) : (s.put c n m v k lat).cways = s.cways := rfl
@[simp] theorem State.llc_put (s : State) (c : Ctx) (n : Nat) (m : Mask) (v : Lanes) (k : Tag) (lat : Nat) : (s.put c n m v k lat).llc = s.llc := rfl
@[simp] theorem State.lways_put (s : State) (c : Ctx) (n : Nat) (m : Mask) (v : Lanes) (k : Tag) (lat : Nat) : (s.put c n m v k lat).lways = s.lways := rfl
@[simp] theorem State.ccopies_put (s : State) (c : Ctx) (n : Nat) (m : Mask) (v : Lanes) (k : Tag) (lat : Nat) : (s.put c n m v k lat).ccopies = s.ccopies := rfl
@[simp] theorem State.uses_put (s : State) (c : Ctx) (n : Nat) (m : Mask) (v : Lanes) (k : Tag) (lat : Nat) : (s.put c n m v k lat).uses = s.uses := rfl
@[simp] theorem State.warps_put (s : State) (c : Ctx) (n : Nat) (m : Mask) (v : Lanes) (k : Tag) (lat : Nat) : (s.put c n m v k lat).warps = Table.modify c.id (fun w => w.put c n m v k lat) s.warps := rfl
@[simp] theorem State.wgs_put (s : State) (c : Ctx) (n : Nat) (m : Mask) (v : Lanes) (k : Tag) (lat : Nat) : (s.put c n m v k lat).wgs = s.wgs := rfl
@[simp] theorem State.cores_put (s : State) (c : Ctx) (n : Nat) (m : Mask) (v : Lanes) (k : Tag) (lat : Nat) : (s.put c n m v k lat).cores = s.cores := rfl
@[simp] theorem State.chips_put (s : State) (c : Ctx) (n : Nat) (m : Mask) (v : Lanes) (k : Tag) (lat : Nat) : (s.put c n m v k lat).chips = s.chips := rfl
@[simp] theorem State.hubs_put (s : State) (c : Ctx) (n : Nat) (m : Mask) (v : Lanes) (k : Tag) (lat : Nat) : (s.put c n m v k lat).hubs = s.hubs := rfl
@[simp] theorem State.harts_put (s : State) (c : Ctx) (n : Nat) (m : Mask) (v : Lanes) (k : Tag) (lat : Nat) : (s.put c n m v k lat).harts = s.harts := rfl
@[simp] theorem State.pkts_put (s : State) (c : Ctx) (n : Nat) (m : Mask) (v : Lanes) (k : Tag) (lat : Nat) : (s.put c n m v k lat).pkts = s.pkts := rfl
@[simp] theorem State.warpSeq_put (s : State) (c : Ctx) (n : Nat) (m : Mask) (v : Lanes) (k : Tag) (lat : Nat) : (s.put c n m v k lat).warpSeq = s.warpSeq := rfl
@[simp] theorem State.wgSeq_put (s : State) (c : Ctx) (n : Nat) (m : Mask) (v : Lanes) (k : Tag) (lat : Nat) : (s.put c n m v k lat).wgSeq = s.wgSeq := rfl
@[simp] theorem State.pktSeq_put (s : State) (c : Ctx) (n : Nat) (m : Mask) (v : Lanes) (k : Tag) (lat : Nat) : (s.put c n m v k lat).pktSeq = s.pktSeq := rfl
@[simp] theorem State.opSeq_put (s : State) (c : Ctx) (n : Nat) (m : Mask) (v : Lanes) (k : Tag) (lat : Nat) : (s.put c n m v k lat).opSeq = s.opSeq := rfl
@[simp] theorem State.lambda_put (s : State) (c : Ctx) (n : Nat) (m : Mask) (v : Lanes) (k : Tag) (lat : Nat) : (s.put c n m v k lat).lambda = s.lambda := rfl
@[simp] theorem State.worlds_put (s : State) (c : Ctx) (n : Nat) (m : Mask) (v : Lanes) (k : Tag) (lat : Nat) : (s.put c n m v k lat).worlds = s.worlds := rfl
@[simp] theorem State.keyCount_put (s : State) (c : Ctx) (n : Nat) (m : Mask) (v : Lanes) (k : Tag) (lat : Nat) : (s.put c n m v k lat).keyCount = s.keyCount := rfl
@[simp] theorem State.tenants_put (s : State) (c : Ctx) (n : Nat) (m : Mask) (v : Lanes) (k : Tag) (lat : Nat) : (s.put c n m v k lat).tenants = s.tenants := rfl
@[simp] theorem State.partsOwner_put (s : State) (c : Ctx) (n : Nat) (m : Mask) (v : Lanes) (k : Tag) (lat : Nat) : (s.put c n m v k lat).partsOwner = s.partsOwner := rfl
@[simp] theorem State.roots_put (s : State) (c : Ctx) (n : Nat) (m : Mask) (v : Lanes) (k : Tag) (lat : Nat) : (s.put c n m v k lat).roots = s.roots := rfl
@[simp] theorem State.modulePower_put (s : State) (c : Ctx) (n : Nat) (m : Mask) (v : Lanes) (k : Tag) (lat : Nat) : (s.put c n m v k lat).modulePower = s.modulePower := rfl
@[simp] theorem State.asleep_put (s : State) (c : Ctx) (n : Nat) (m : Mask) (v : Lanes) (k : Tag) (lat : Nat) : (s.put c n m v k lat).asleep = s.asleep := rfl
@[simp] theorem State.engine_put (s : State) (c : Ctx) (n : Nat) (m : Mask) (v : Lanes) (k : Tag) (lat : Nat) : (s.put c n m v k lat).engine = s.engine := rfl
@[simp] theorem State.remote_put (s : State) (c : Ctx) (n : Nat) (m : Mask) (v : Lanes) (k : Tag) (lat : Nat) : (s.put c n m v k lat).remote = s.remote := rfl
@[simp] theorem State.remoteSent_put (s : State) (c : Ctx) (n : Nat) (m : Mask) (v : Lanes) (k : Tag) (lat : Nat) : (s.put c n m v k lat).remoteSent = s.remoteSent := rfl
@[simp] theorem State.lastWriter_put (s : State) (c : Ctx) (n : Nat) (m : Mask) (v : Lanes) (k : Tag) (lat : Nat) : (s.put c n m v k lat).lastWriter = s.lastWriter := rfl
@[simp] theorem State.me_put (s : State) (c : Ctx) (n : Nat) (m : Mask) (v : Lanes) (k : Tag) (lat : Nat) : (s.put c n m v k lat).me = s.me := rfl
@[simp] theorem State.hart_put (s : State) (c : Ctx) (n : Nat) (m : Mask) (v : Lanes) (k : Tag) (lat : Nat) : (s.put c n m v k lat).hart = s.hart := rfl
@[simp] theorem State.agenda_put (s : State) (c : Ctx) (n : Nat) (m : Mask) (v : Lanes) (k : Tag) (lat : Nat) : (s.put c n m v k lat).agenda = s.agenda := rfl
@[simp] theorem State.round_put (s : State) (c : Ctx) (n : Nat) (m : Mask) (v : Lanes) (k : Tag) (lat : Nat) : (s.put c n m v k lat).round = s.round := rfl
@[simp] theorem State.passedOver_put (s : State) (c : Ctx) (n : Nat) (m : Mask) (v : Lanes) (k : Tag) (lat : Nat) : (s.put c n m v k lat).passedOver = s.passedOver := rfl
@[simp] theorem State.dbgOut_put (s : State) (c : Ctx) (n : Nat) (m : Mask) (v : Lanes) (k : Tag) (lat : Nat) : (s.put c n m v k lat).dbgOut = s.dbgOut := rfl
@[simp] theorem State.free_put (s : State) (c : Ctx) (n : Nat) (m : Mask) (v : Lanes) (k : Tag) (lat : Nat) : (s.put c n m v k lat).free = s.free := rfl

@[simp] theorem State.mem_putAll (s : State) (c : Ctx) (n : Nat) (v : Word) (lat : Nat) : (s.putAll c n v lat).mem = s.mem := rfl
@[simp] theorem State.poisoned_putAll (s : State) (c : Ctx) (n : Nat) (v : Word) (lat : Nat) : (s.putAll c n v lat).poisoned = s.poisoned := rfl
@[simp] theorem State.seals_putAll (s : State) (c : Ctx) (n : Nat) (v : Word) (lat : Nat) : (s.putAll c n v lat).seals = s.seals := rfl
@[simp] theorem State.lines_putAll (s : State) (c : Ctx) (n : Nat) (v : Word) (lat : Nat) : (s.putAll c n v lat).lines = s.lines := rfl
@[simp] theorem State.watched_putAll (s : State) (c : Ctx) (n : Nat) (v : Word) (lat : Nat) : (s.putAll c n v lat).watched = s.watched := rfl
@[simp] theorem State.dir_putAll (s : State) (c : Ctx) (n : Nat) (v : Word) (lat : Nat) : (s.putAll c n v lat).dir = s.dir := rfl
@[simp] theorem State.recs_putAll (s : State) (c : Ctx) (n : Nat) (v : Word) (lat : Nat) : (s.putAll c n v lat).recs = s.recs := rfl
@[simp] theorem State.recOrder_putAll (s : State) (c : Ctx) (n : Nat) (v : Word) (lat : Nat) : (s.putAll c n v lat).recOrder = s.recOrder := rfl
@[simp] theorem State.banks_putAll (s : State) (c : Ctx) (n : Nat) (v : Word) (lat : Nat) : (s.putAll c n v lat).banks = s.banks := rfl
@[simp] theorem State.clines_putAll (s : State) (c : Ctx) (n : Nat) (v : Word) (lat : Nat) : (s.putAll c n v lat).clines = s.clines := rfl
@[simp] theorem State.cways_putAll (s : State) (c : Ctx) (n : Nat) (v : Word) (lat : Nat) : (s.putAll c n v lat).cways = s.cways := rfl
@[simp] theorem State.llc_putAll (s : State) (c : Ctx) (n : Nat) (v : Word) (lat : Nat) : (s.putAll c n v lat).llc = s.llc := rfl
@[simp] theorem State.lways_putAll (s : State) (c : Ctx) (n : Nat) (v : Word) (lat : Nat) : (s.putAll c n v lat).lways = s.lways := rfl
@[simp] theorem State.ccopies_putAll (s : State) (c : Ctx) (n : Nat) (v : Word) (lat : Nat) : (s.putAll c n v lat).ccopies = s.ccopies := rfl
@[simp] theorem State.uses_putAll (s : State) (c : Ctx) (n : Nat) (v : Word) (lat : Nat) : (s.putAll c n v lat).uses = s.uses := rfl
@[simp] theorem State.warps_putAll (s : State) (c : Ctx) (n : Nat) (v : Word) (lat : Nat) : (s.putAll c n v lat).warps = Table.modify c.id (fun w => w.put c n 0xFFFFFFFF#32 (laneSplat v) .uniform lat) s.warps := rfl
@[simp] theorem State.wgs_putAll (s : State) (c : Ctx) (n : Nat) (v : Word) (lat : Nat) : (s.putAll c n v lat).wgs = s.wgs := rfl
@[simp] theorem State.cores_putAll (s : State) (c : Ctx) (n : Nat) (v : Word) (lat : Nat) : (s.putAll c n v lat).cores = s.cores := rfl
@[simp] theorem State.chips_putAll (s : State) (c : Ctx) (n : Nat) (v : Word) (lat : Nat) : (s.putAll c n v lat).chips = s.chips := rfl
@[simp] theorem State.hubs_putAll (s : State) (c : Ctx) (n : Nat) (v : Word) (lat : Nat) : (s.putAll c n v lat).hubs = s.hubs := rfl
@[simp] theorem State.harts_putAll (s : State) (c : Ctx) (n : Nat) (v : Word) (lat : Nat) : (s.putAll c n v lat).harts = s.harts := rfl
@[simp] theorem State.pkts_putAll (s : State) (c : Ctx) (n : Nat) (v : Word) (lat : Nat) : (s.putAll c n v lat).pkts = s.pkts := rfl
@[simp] theorem State.warpSeq_putAll (s : State) (c : Ctx) (n : Nat) (v : Word) (lat : Nat) : (s.putAll c n v lat).warpSeq = s.warpSeq := rfl
@[simp] theorem State.wgSeq_putAll (s : State) (c : Ctx) (n : Nat) (v : Word) (lat : Nat) : (s.putAll c n v lat).wgSeq = s.wgSeq := rfl
@[simp] theorem State.pktSeq_putAll (s : State) (c : Ctx) (n : Nat) (v : Word) (lat : Nat) : (s.putAll c n v lat).pktSeq = s.pktSeq := rfl
@[simp] theorem State.opSeq_putAll (s : State) (c : Ctx) (n : Nat) (v : Word) (lat : Nat) : (s.putAll c n v lat).opSeq = s.opSeq := rfl
@[simp] theorem State.lambda_putAll (s : State) (c : Ctx) (n : Nat) (v : Word) (lat : Nat) : (s.putAll c n v lat).lambda = s.lambda := rfl
@[simp] theorem State.worlds_putAll (s : State) (c : Ctx) (n : Nat) (v : Word) (lat : Nat) : (s.putAll c n v lat).worlds = s.worlds := rfl
@[simp] theorem State.keyCount_putAll (s : State) (c : Ctx) (n : Nat) (v : Word) (lat : Nat) : (s.putAll c n v lat).keyCount = s.keyCount := rfl
@[simp] theorem State.tenants_putAll (s : State) (c : Ctx) (n : Nat) (v : Word) (lat : Nat) : (s.putAll c n v lat).tenants = s.tenants := rfl
@[simp] theorem State.partsOwner_putAll (s : State) (c : Ctx) (n : Nat) (v : Word) (lat : Nat) : (s.putAll c n v lat).partsOwner = s.partsOwner := rfl
@[simp] theorem State.roots_putAll (s : State) (c : Ctx) (n : Nat) (v : Word) (lat : Nat) : (s.putAll c n v lat).roots = s.roots := rfl
@[simp] theorem State.modulePower_putAll (s : State) (c : Ctx) (n : Nat) (v : Word) (lat : Nat) : (s.putAll c n v lat).modulePower = s.modulePower := rfl
@[simp] theorem State.asleep_putAll (s : State) (c : Ctx) (n : Nat) (v : Word) (lat : Nat) : (s.putAll c n v lat).asleep = s.asleep := rfl
@[simp] theorem State.engine_putAll (s : State) (c : Ctx) (n : Nat) (v : Word) (lat : Nat) : (s.putAll c n v lat).engine = s.engine := rfl
@[simp] theorem State.remote_putAll (s : State) (c : Ctx) (n : Nat) (v : Word) (lat : Nat) : (s.putAll c n v lat).remote = s.remote := rfl
@[simp] theorem State.remoteSent_putAll (s : State) (c : Ctx) (n : Nat) (v : Word) (lat : Nat) : (s.putAll c n v lat).remoteSent = s.remoteSent := rfl
@[simp] theorem State.lastWriter_putAll (s : State) (c : Ctx) (n : Nat) (v : Word) (lat : Nat) : (s.putAll c n v lat).lastWriter = s.lastWriter := rfl
@[simp] theorem State.me_putAll (s : State) (c : Ctx) (n : Nat) (v : Word) (lat : Nat) : (s.putAll c n v lat).me = s.me := rfl
@[simp] theorem State.hart_putAll (s : State) (c : Ctx) (n : Nat) (v : Word) (lat : Nat) : (s.putAll c n v lat).hart = s.hart := rfl
@[simp] theorem State.agenda_putAll (s : State) (c : Ctx) (n : Nat) (v : Word) (lat : Nat) : (s.putAll c n v lat).agenda = s.agenda := rfl
@[simp] theorem State.round_putAll (s : State) (c : Ctx) (n : Nat) (v : Word) (lat : Nat) : (s.putAll c n v lat).round = s.round := rfl
@[simp] theorem State.passedOver_putAll (s : State) (c : Ctx) (n : Nat) (v : Word) (lat : Nat) : (s.putAll c n v lat).passedOver = s.passedOver := rfl
@[simp] theorem State.dbgOut_putAll (s : State) (c : Ctx) (n : Nat) (v : Word) (lat : Nat) : (s.putAll c n v lat).dbgOut = s.dbgOut := rfl
@[simp] theorem State.free_putAll (s : State) (c : Ctx) (n : Nat) (v : Word) (lat : Nat) : (s.putAll c n v lat).free = s.free := rfl

end Sys2Proof.Machine
end

