-- ==== Sys2Proof/Laws/Table.lean ====
section
/-! SUPPORT. The laws of sparse tables: what is found after a change, and that every change keeps the canonical form. -/

namespace Sys2Proof.Machine

/-- What was listed is found. -/
@[simp] theorem Table.find_ins_self {β : Type} (k : Nat) (x : β) (t : Table β) : Table.find k (Table.ins k x t) = some x := by
  induction t with
  | nil => simp [Table.ins, Table.find]
  | cons e t ih =>
    obtain ⟨i, v⟩ := e
    simp only [Table.ins]
    split
    · simp [Table.find]
    · split
      · simp [Table.find]
      · rename_i h1 h2
        simp [Table.find, h1, h2, ih]

/-- Listing a value at a key changes no other key. -/
theorem Table.find_ins_ne {β : Type} {k j : Nat} (h : j ≠ k) (x : β) (t : Table β) :
    Table.find j (Table.ins k x t) = Table.find j t := by
  induction t with
  | nil => simp only [Table.ins, Table.find]; rw [if_neg (Ne.symm h)]; split <;> rfl
  | cons e t ih =>
    obtain ⟨i, v⟩ := e
    simp only [Table.ins]
    split
    · rename_i h1
      subst h1
      simp [Table.find, Ne.symm h]
    · split
      · rename_i h1 h2
        simp only [Table.find]
        rw [if_neg (Ne.symm h)]
        split
        · rename_i h3
          rw [if_neg (by omega), if_pos (by omega)]
        · rfl
      · simp only [Table.find, ih]

/-- Listing twice is listing once. -/
@[simp] theorem Table.ins_ins {β : Type} (k : Nat) (x y : β) (t : Table β) :
    Table.ins k y (Table.ins k x t) = Table.ins k y t := by
  induction t with
  | nil => simp [Table.ins]
  | cons e t ih =>
    obtain ⟨i, v⟩ := e
    simp only [Table.ins]
    split
    · simp [Table.ins]
    · rename_i h1
      split
      · simp [Table.ins]
      · rename_i h2
        simp [Table.ins, h1, h2, ih]

/-- Listing what is found changes nothing. -/
theorem Table.ins_find {β : Type} {k : Nat} {x : β} {t : Table β} (h : Table.find k t = some x) : Table.ins k x t = t := by
  induction t with
  | nil => simp [Table.find] at h
  | cons e t ih =>
    obtain ⟨i, v⟩ := e
    simp only [Table.find] at h
    simp only [Table.ins]
    split
    · rename_i h1
      rw [if_pos h1] at h
      cases h
      rw [h1]
    · rename_i h1
      rw [if_neg h1] at h
      split
      · rename_i h2
        rw [if_pos h2] at h
        cases h
      · rename_i h2
        rw [if_neg h2] at h
        rw [ih h]

/-- A change of a listed value. -/
theorem Table.modify_of_find {β : Type} {k : Nat} {x : β} {t : Table β} (h : Table.find k t = some x) (f : β → β) :
    Table.modify k f t = Table.ins k (f x) t := by
  simp [Table.modify, h]

/-- A change of a value not listed changes nothing. -/
theorem Table.modify_of_none {β : Type} {k : Nat} {t : Table β} (h : Table.find k t = none) (f : β → β) :
    Table.modify k f t = t := by
  simp [Table.modify, h]

/-- What a change leaves at the key. -/
@[simp] theorem Table.find_modify_self {β : Type} (k : Nat) (f : β → β) (t : Table β) :
    Table.find k (Table.modify k f t) = (Table.find k t).map f := by
  cases h : Table.find k t with
  | none => simp [Table.modify, h]
  | some x => simp [Table.modify, h]

/-- A change at a key changes no other key. -/
theorem Table.find_modify_ne {β : Type} {k j : Nat} (h : j ≠ k) (f : β → β) (t : Table β) :
    Table.find j (Table.modify k f t) = Table.find j t := by
  cases hk : Table.find k t with
  | none => simp [Table.modify, hk]
  | some x => simp only [Table.modify, hk]; exact Table.find_ins_ne h _ t

/-- Two changes at one key are one. -/
@[simp] theorem Table.modify_modify {β : Type} (k : Nat) (f g : β → β) (t : Table β) :
    Table.modify k g (Table.modify k f t) = Table.modify k (fun x => g (f x)) t := by
  cases h : Table.find k t with
  | none => simp [Table.modify, h]
  | some x => simp [Table.modify, h]

/-- A change of what was just listed. -/
@[simp] theorem Table.modify_ins {β : Type} (k : Nat) (x : β) (f : β → β) (t : Table β) :
    Table.modify k f (Table.ins k x t) = Table.ins k (f x) t := by
  simp [Table.modify]

/-! ## The canonical form -/

/-- The keys of a table rise from a lower bound too. -/
theorem Table.sortedFrom_mono {β : Type} {j k : Nat} (h : j ≤ k) {t : Table β} (ht : Table.sortedFrom k t = true) :
    Table.sortedFrom j t = true := by
  cases t with
  | nil => rfl
  | cons e t =>
    simp only [Table.sortedFrom, Bool.and_eq_true, decide_eq_true_eq] at ht ⊢
    exact ⟨by omega, ht.2⟩

/-- Listing a value keeps the keys rising. -/
theorem Table.sortedFrom_ins {β : Type} {j k : Nat} {x : β} {t : Table β} (hj : j ≤ k) (ht : Table.sortedFrom j t = true) :
    Table.sortedFrom j (Table.ins k x t) = true := by
  induction t generalizing j with
  | nil => simpa [Table.ins, Table.sortedFrom] using hj
  | cons e t ih =>
    obtain ⟨i, v⟩ := e
    simp only [Table.sortedFrom, Bool.and_eq_true, decide_eq_true_eq] at ht
    simp only [Table.ins]
    split
    · rename_i h1
      subst h1
      simpa [Table.sortedFrom] using ht
    · split
      · simp only [Table.sortedFrom, Bool.and_eq_true, decide_eq_true_eq]
        exact ⟨hj, by omega, ht.2⟩
      · simp only [Table.sortedFrom, Bool.and_eq_true, decide_eq_true_eq]
        exact ⟨ht.1, ih (by omega) ht.2⟩

/-- Taking a key out keeps the keys rising. -/
theorem Table.sortedFrom_del {β : Type} {j k : Nat} {t : Table β} (ht : Table.sortedFrom j t = true) :
    Table.sortedFrom j (Table.del k t) = true := by
  induction t generalizing j with
  | nil => rfl
  | cons e t ih =>
    obtain ⟨i, v⟩ := e
    simp only [Table.sortedFrom, Bool.and_eq_true, decide_eq_true_eq] at ht
    simp only [Table.del]
    split
    · exact Table.sortedFrom_mono (by omega) ht.2
    · split
      · simpa [Table.sortedFrom] using ht
      · simp only [Table.sortedFrom, Bool.and_eq_true, decide_eq_true_eq]
        exact ⟨ht.1, ih ht.2⟩

/-- Leaving entries out keeps the keys rising. -/
theorem Table.sortedFrom_filter {β : Type} {j : Nat} {t : Table β} (p : Nat × β → Bool) (ht : Table.sortedFrom j t = true) :
    Table.sortedFrom j (t.filter p) = true := by
  induction t generalizing j with
  | nil => rfl
  | cons e t ih =>
    obtain ⟨i, v⟩ := e
    simp only [Table.sortedFrom, Bool.and_eq_true, decide_eq_true_eq] at ht
    simp only [List.filter]
    split
    · simp only [Table.sortedFrom, Bool.and_eq_true, decide_eq_true_eq]
      exact ⟨ht.1, ih ht.2⟩
    · exact ih (Table.sortedFrom_mono (by omega) ht.2)

/-- The entries after a value was listed: the old ones and it. -/
theorem Table.mem_ins {β : Type} {k : Nat} {x : β} {t : Table β} {e : Nat × β} (h : e ∈ Table.ins k x t) :
    e = (k, x) ∨ e ∈ t := by
  induction t with
  | nil => simpa [Table.ins] using h
  | cons a t ih =>
    obtain ⟨i, v⟩ := a
    simp only [Table.ins] at h
    split at h
    · simp only [List.mem_cons] at h ⊢
      exact h.imp id Or.inr
    · split at h
      · simp only [List.mem_cons] at h ⊢
        exact h
      · simp only [List.mem_cons] at h ⊢
        rcases h with h | h
        · exact Or.inr (Or.inl h)
        · exact (ih h).imp id Or.inr

/-- The entries after a key was taken out are old ones. -/
theorem Table.mem_del {β : Type} {k : Nat} {t : Table β} {e : Nat × β} (h : e ∈ Table.del k t) : e ∈ t := by
  induction t with
  | nil => simp [Table.del] at h
  | cons a t ih =>
    obtain ⟨i, v⟩ := a
    simp only [Table.del] at h
    split at h
    · exact List.mem_cons_of_mem _ h
    · split at h
      · exact h
      · simp only [List.mem_cons] at h ⊢
        exact h.imp id ih

/-- The canonical form in its two parts. -/
theorem Table.wf_iff {β : Type} [DecidableEq β] (d : β) (t : Table β) :
    Table.wf d t = true ↔ Table.sortedFrom 0 t = true ∧ ∀ e ∈ t, e.2 ≠ d := by
  simp [Table.wf]

/-- The empty table is canonical. -/
theorem Table.wf_nil {β : Type} [DecidableEq β] (d : β) : Table.wf d ([] : Table β) = true := rfl

/-- A write keeps the canonical form. -/
theorem Table.wf_put {β : Type} [DecidableEq β] {d : β} {t : Table β} (k : Nat) (x : β) (h : Table.wf d t = true) :
    Table.wf d (Table.put d k x t) = true := by
  rw [Table.wf_iff] at h ⊢
  unfold Table.put
  split
  · exact ⟨Table.sortedFrom_del h.1, fun e he => h.2 e (Table.mem_del he)⟩
  · rename_i hx
    refine ⟨Table.sortedFrom_ins (Nat.zero_le k) h.1, fun e he => ?_⟩
    rcases Table.mem_ins he with rfl | he
    · exact hx
    · exact h.2 e he

/-- Leaving entries out keeps the canonical form. -/
theorem Table.wf_filter {β : Type} [DecidableEq β] {d : β} {t : Table β} (p : Nat × β → Bool) (h : Table.wf d t = true) :
    Table.wf d (t.filter p) = true := by
  rw [Table.wf_iff] at h ⊢
  exact ⟨Table.sortedFrom_filter p h.1, fun e he => h.2 e (List.mem_filter.1 he).1⟩

/-- Writing bytes keeps the canonical form. -/
theorem Table.wf_putBytes {t : Table Byte} (a : Nat) (bs : List Byte) (h : Table.wf 0 t = true) :
    Table.wf 0 (Table.putBytes t a bs) = true := by
  induction bs generalizing t a with
  | nil => exact h
  | cons b bs ih => exact ih (a + 1) (Table.wf_put a b h)

/-- Below the bound of a table nothing is found. -/
theorem Table.find_below {β : Type} {j k : Nat} {t : Table β} (h : Table.sortedFrom k t = true) (hj : j < k) :
    Table.find j t = none := by
  cases t with
  | nil => rfl
  | cons e t =>
    obtain ⟨i, v⟩ := e
    simp only [Table.sortedFrom, Bool.and_eq_true, decide_eq_true_eq] at h
    simp only [Table.find]
    rw [if_neg (by omega), if_pos (by omega)]

/-- What is found after a key was taken out of a table whose keys rise. -/
theorem Table.find_del {β : Type} {j k b : Nat} {t : Table β} (h : Table.sortedFrom b t = true) :
    Table.find j (Table.del k t) = if j = k then none else Table.find j t := by
  induction t generalizing b with
  | nil => simp [Table.del, Table.find]
  | cons e t ih =>
    obtain ⟨i, v⟩ := e
    simp only [Table.sortedFrom, Bool.and_eq_true, decide_eq_true_eq] at h
    simp only [Table.del]
    by_cases h1 : i = k
    · subst h1
      rw [if_pos rfl]
      by_cases h2 : j = i
      · subst h2
        rw [if_pos rfl]
        exact Table.find_below h.2 (by omega)
      · rw [if_neg h2]
        simp only [Table.find]
        rw [if_neg (Ne.symm h2)]
        split
        · exact Table.find_below h.2 (by omega)
        · rfl
    · rw [if_neg h1]
      by_cases h3 : k < i
      · rw [if_pos h3]
        by_cases h2 : j = k
        · subst h2
          rw [if_pos rfl]
          simp only [Table.find]
          rw [if_neg h1, if_pos h3]
        · rw [if_neg h2]
      · rw [if_neg h3]
        simp only [Table.find]
        rw [ih h.2]
        by_cases h2 : j = k
        · subst h2
          simp [h1, h3]
        · simp [h2]

/-- A read after a write to a canonical table: the value at its key, the old value at any other. -/
theorem Table.get_put {β : Type} [DecidableEq β] {d : β} {t : Table β} (j k : Nat) (x : β) (h : Table.wf d t = true) :
    Table.get d j (Table.put d k x t) = if j = k then x else Table.get d j t := by
  rw [Table.wf_iff] at h
  unfold Table.get Table.put
  split
  · rename_i hx
    rw [Table.find_del h.1]
    split
    · simp [hx]
    · rfl
  · split
    · rename_i hj
      subst hj
      simp
    · rename_i hj
      rw [Table.find_ins_ne hj]

end Sys2Proof.Machine
end

