-- ==== Sys2Proof/Laws/Issue.lean ====
section
/-! SUPPORT. What issuing an instruction comes to: the context, the answer of the body, completion, and the arithmetic forms. -/

namespace Sys2Proof.Machine

/-- The context of an issue is that of the executing warp. -/
theorem State.ctx_spec {s : State} {h : Hdr} {c : Ctx} (hc : s.ctx h = some c) :
    c.id = s.me ∧ Table.find s.me s.warps = some c.w ∧ Table.find c.w.wg s.wgs = some c.g ∧ c.act = c.w.active h := by
  unfold State.ctx at hc
  cases hw : Table.find s.me s.warps with
  | none => simp [hw] at hc
  | some w =>
    cases hg : Table.find w.wg s.wgs with
    | none => simp [hw, hg] at hc
    | some g =>
      simp [hw, hg] at hc
      subst hc
      exact ⟨rfl, rfl, hg, rfl⟩

/-- A warp with a workgroup has a context. -/
theorem State.ctx_of_find {s : State} (h : Hdr) {w : Warp} {g : Wg} (hw : Table.find s.me s.warps = some w)
    (hg : Table.find w.wg s.wgs = some g) : s.ctx h = some ⟨s.me, w, g, w.active h⟩ := by
  simp [State.ctx, hw, hg]

/-- Issuing in a context. -/
theorem issue_of_ctx {s : State} {h : Hdr} {c : Ctx} (hc : s.ctx h = some c) (u : Use) (body : Ctx → State → Res) :
    issue h u s body = .next (issueIn h u c s body) := by
  simp [issue, hc]

/-- Issuing stops only for want of a warp. -/
theorem issue_cases (h : Hdr) (u : Use) (s : State) (body : Ctx → State → Res) :
    (s.ctx h = none ∧ issue h u s body = .fault .noWarp) ∨ ∃ c, s.ctx h = some c ∧ issue h u s body = .next (issueIn h u c s body) := by
  cases hc : s.ctx h with
  | none => exact Or.inl ⟨rfl, by simp [issue, hc]⟩
  | some c => exact Or.inr ⟨c, rfl, issue_of_ctx hc u body⟩

/-- With every check passed, the body's answer is what happens. -/
theorem issueIn_of_clear {h : Hdr} {u : Use} {c : Ctx} (hu : u.clear h c) (s : State) (body : Ctx → State → Res) :
    issueIn h u c s body = (body c s).settle c := by
  obtain ⟨h1, h2, h3, h4⟩ := hu
  simp [issueIn, h1, h2, h3, h4]

/-- Issuing with every check passed. -/
theorem issue_of_clear {s : State} {h : Hdr} {u : Use} {c : Ctx} (hc : s.ctx h = some c) (hu : u.clear h c)
    (body : Ctx → State → Res) : issue h u s body = .next ((body c s).settle c) := by
  rw [issue_of_ctx hc, issueIn_of_clear hu]

/-- Completion without a step event. -/
theorem State.finish_of_calm {c : Ctx} (hc : c.calm) (s : State) (t : Option Nat) :
    s.finish c t = (s.count c.w.wg 1 1).modWarp c.id
      (fun w => w.stepTo c.wc (match t with | some t => BitVec.ofNat 57 t | none => c.w.next)) := by
  unfold Ctx.calm at hc
  cases t <;> simp [State.finish, State.stepEvent, hc]

/-- Raising one counter. -/
theorem Wg.counted_one (g : Wg) (k n : Nat) : g.counted [(k, n)] =
    if g.stands then { g with perf := listSet k (g.perf.getD k 0 + BitVec.ofNat 64 n) g.perf } else g := rfl

/-- Raising counters one after another. -/
theorem Wg.counted_two (g : Wg) (a b : Nat × Nat) : (g.counted [a]).counted [b] = g.counted [a, b] := by
  by_cases hs : g.stands = true
  · have h1 : g.counted [a] = { g with perf := listSet a.1 (g.perf.getD a.1 0 + BitVec.ofNat 64 a.2) g.perf } := by
      simp only [Wg.counted, hs]; rfl
    have h2 : (g.counted [a]).stands = true := by rw [h1]; exact hs
    rw [Wg.counted, if_pos h2, h1, Wg.counted, if_pos hs]
    rfl
  · simp [Wg.counted, hs]

/-- An instruction that edits its warp and raises a counter of its unit, in one state. -/
theorem after_edit {s : State} {h : Hdr} {c : Ctx} (hc : s.ctx h = some c) (k n : Nat) (f : Warp → Warp) (pc : BitVec 57) :
    (((s.count c.w.wg k n).modWarp c.id f).count c.w.wg 1 1).modWarp c.id (fun w => w.stepTo c.wc pc)
      = c.after s ((f c.w).stepTo c.wc pc) (c.g.counted [(k, n), (1, 1)]) := by
  obtain ⟨h1, h2, h3, -⟩ := State.ctx_spec hc
  have h2' : Table.find c.id s.warps = some c.w := by rw [h1]; exact h2
  rw [← Wg.counted_two]
  simp only [State.count, State.modWg, State.modWarp, Ctx.after, Table.modify_of_find h2',
    Table.modify_of_find h3, Table.modify_ins, Wg.counted_one]

/-- The same without a counter of the unit. -/
theorem after_plain {s : State} {h : Hdr} {c : Ctx} (hc : s.ctx h = some c) (f : Warp → Warp) (pc : BitVec 57) :
    ((s.modWarp c.id f).count c.w.wg 1 1).modWarp c.id (fun w => w.stepTo c.wc pc)
      = c.after s ((f c.w).stepTo c.wc pc) (c.g.counted [(1, 1)]) := by
  obtain ⟨h1, h2, h3, -⟩ := State.ctx_spec hc
  have h2' : Table.find c.id s.warps = some c.w := by rw [h1]; exact h2
  simp only [State.count, State.modWg, State.modWarp, Ctx.after, Table.modify_of_find h2',
    Table.modify_of_find h3, Table.modify_ins, Wg.counted_one]

/-- What the arithmetic form does once its checks pass. -/
theorem alu_spec {s : State} {h : Hdr} {c : Ctx} {dst : Reg} {srcs : List Reg} (hr : c.ready s h (useA srcs dst))
    (aff : Ctx → Bool) (lat : Nat × Nat) (f : (Reg → Word) → Nat → Word) :
    ∃ tag lt u, (u = 2 ∨ u = 3) ∧ alu h dst srcs aff lat f s = .next (c.after s
      ((c.w.put c dst.toNat c.act (laneBuild (fun l => f (fun n => c.w.rd n.toNat l) l)) tag lt).stepTo c.wc c.w.next)
      (c.g.counted [(u, 1), (1, 1)])) := by
  obtain ⟨hc, hu, hs⟩ := hr
  unfold alu
  rw [issue_of_clear hc hu]
  by_cases ha : c.affineUnit h (dst :: srcs) (aff c) = true
  · refine ⟨affineTag (laneBuild (fun l => f (fun n => c.w.rd n.toNat l) l)), 2, 3, Or.inr rfl, ?_⟩
    simp only [if_pos ha, Res.settle, State.finish_of_calm hs, State.put]
    rw [after_edit hc]
  · refine ⟨c.laneTag h srcs, c.lat lat.1 lat.2, 2, Or.inl rfl, ?_⟩
    simp only [if_neg ha, Res.settle, State.finish_of_calm hs, State.put]
    rw [after_edit hc]

/-- What the arithmetic form with a 64-bit result does once its checks pass. -/
theorem alu64_spec {s : State} {h : Hdr} {c : Ctx} {dst : Reg} {srcs : List (Reg × Nat)}
    (hr : c.ready s h { srcs := srcs.map (fun x => srcA x.1 x.2), dsts := [(dst.toNat, 2)] }) (lat : Nat × Nat)
    (f : Warp → Nat → DWord) :
    ∃ tag lt, alu64 h dst srcs lat f s = .next (c.after s
      (((c.w.put c dst.toNat c.act (laneBuild (fun l => (f c.w l).setWidth 32)) tag lt).put c (dst.toNat + 1) c.act
        (laneBuild (fun l => ((f c.w l) >>> 32).setWidth 32)) tag lt).stepTo c.wc c.w.next)
      (c.g.counted [(2, 1), (1, 1)])) := by
  obtain ⟨hc, hu, hs⟩ := hr
  unfold alu64
  rw [issue_of_clear hc hu]
  refine ⟨c.laneTag h (srcs.flatMap (fun x => if x.2 = 2 then [x.1, x.1 + 1] else [x.1])), c.lat lat.1 lat.2, ?_⟩
  have e := after_edit hc 2 1 (fun w => (w.put c dst.toNat c.act (laneBuild (fun l => (f c.w l).setWidth 32))
    (c.laneTag h (srcs.flatMap (fun x => if x.2 = 2 then [x.1, x.1 + 1] else [x.1]))) (c.lat lat.1 lat.2)).put c (dst.toNat + 1) c.act
      (laneBuild (fun l => ((f c.w l) >>> 32).setWidth 32))
      (c.laneTag h (srcs.flatMap (fun x => if x.2 = 2 then [x.1, x.1 + 1] else [x.1]))) (c.lat lat.1 lat.2)) c.w.next
  rw [← e]
  simp only [Res.settle, State.finish_of_calm hs, State.put, State.modWarp, Table.modify_modify]

/-- An instruction of the arithmetic form computes what its function gives. -/
theorem computes_of {i : Instr} {s : State} {h : Hdr} {c : Ctx} {dst : Reg} {srcs : List Reg} {aff : Ctx → Bool}
    {lat : Nat × Nat} {f : (Reg → Word) → Nat → Word} {g : Nat → Word} (he : exec i s = alu h dst srcs aff lat f s)
    (hf : ∀ l, f (fun n => c.w.rd n.toNat l) l = g l) (hr : c.ready s h (useA srcs dst)) : Computes i s c dst g := by
  obtain ⟨tag, lt, u, hu, e⟩ := alu_spec hr aff lat f
  refine ⟨tag, lt, u, hu, ?_⟩
  have hg : (fun l => f (fun n => c.w.rd n.toNat l) l) = g := funext hf
  unfold Completes Continues
  rw [he, e, hg]

/-- An instruction of the arithmetic form with a 64-bit result computes what its function gives. -/
theorem computes64_of {i : Instr} {s : State} {h : Hdr} {c : Ctx} {dst : Reg} {srcs : List (Reg × Nat)} {lat : Nat × Nat}
    {f : Warp → Nat → DWord} {g : Nat → DWord} (he : exec i s = alu64 h dst srcs lat f s) (hf : ∀ l, f c.w l = g l)
    (hr : c.ready s h { srcs := srcs.map (fun x => srcA x.1 x.2), dsts := [(dst.toNat, 2)] }) : Computes64 i s c dst g := by
  obtain ⟨tag, lt, e⟩ := alu64_spec hr lat f
  refine ⟨tag, lt, ?_⟩
  have hg : f c.w = g := funext hf
  unfold Completes Continues
  rw [he, e, hg]

/-! ## From the body of an instruction to what executing it does -/

/-- The address at which an instruction that completes leaves its warp. -/
def Ctx.aim (c : Ctx) (t : Option Nat) : BitVec 57 := match t with | some t => BitVec.ofNat 57 t | none => c.w.next

/-- An instruction whose body traps raises its cause. -/
theorem issues_trap {i : Instr} {s : State} {h : Hdr} {c : Ctx} {u : Use} {body : Ctx → State → Res} {x : CauseInfo} {t : State}
    (he : exec i s = issue h u s body) (hr : c.ready s h u) (hb : body c s = .trap x t) : exec i s = .next (t.raise c.id x) := by
  rw [he, issue_of_clear hr.1 hr.2.1, hb]
  rfl

/-- An instruction whose body waits blocks its warp. -/
theorem issues_wait {i : Instr} {s t : State} {h : Hdr} {c : Ctx} {u : Use} {body : Ctx → State → Res} {k : Wait}
    (he : exec i s = issue h u s body) (hr : c.ready s h u) (hb : body c s = .wait k t) : exec i s = .next (t.block c.id k) := by
  rw [he, issue_of_clear hr.1 hr.2.1, hb]
  rfl

/-- An instruction whose body is over answers the body's state. -/
theorem issues_over {i : Instr} {s t : State} {h : Hdr} {c : Ctx} {u : Use} {body : Ctx → State → Res}
    (he : exec i s = issue h u s body) (hr : c.ready s h u) (hb : body c s = .over t) : exec i s = .next t := by
  rw [he, issue_of_clear hr.1 hr.2.1, hb]
  rfl

/-- An instruction whose body is done counts itself and steps its warp on. -/
theorem issues_done {i : Instr} {s t : State} {h : Hdr} {c : Ctx} {u : Use} {body : Ctx → State → Res} {d : Option Nat}
    (he : exec i s = issue h u s body) (hr : c.ready s h u) (hb : body c s = .done d t) :
    exec i s = .next ((t.count c.w.wg 1 1).modWarp c.id (fun w => w.stepTo c.wc (c.aim d))) := by
  rw [he, issue_of_clear hr.1 hr.2.1, hb]
  simp only [Res.settle, State.finish_of_calm hr.2.2]
  rfl

/-- An instruction that edits its warp and counts for its unit. -/
theorem issues_edit {i : Instr} {s : State} {h : Hdr} {c : Ctx} {u : Use} {body : Ctx → State → Res} {f : Warp → Warp} {k n : Nat}
    {d : Option Nat} {w : Warp} {pc : BitVec 57} (he : exec i s = issue h u s body) (hr : c.ready s h u)
    (hb : body c s = .done d ((s.count c.w.wg k n).modWarp c.id f)) (hw : f c.w = w) (hp : c.aim d = pc) :
    Continues i s c w (c.g.counted [(k, n), (1, 1)]) pc := by
  unfold Continues
  rw [issues_done he hr hb, after_edit hr.1, hw, hp]

/-- An instruction that edits its warp. -/
theorem issues_plain {i : Instr} {s : State} {h : Hdr} {c : Ctx} {u : Use} {body : Ctx → State → Res} {f : Warp → Warp}
    {d : Option Nat} {w : Warp} {pc : BitVec 57} (he : exec i s = issue h u s body) (hr : c.ready s h u)
    (hb : body c s = .done d (s.modWarp c.id f)) (hw : f c.w = w) (hp : c.aim d = pc) :
    Continues i s c w (c.g.counted [(1, 1)]) pc := by
  unfold Continues
  rw [issues_done he hr hb, after_plain hr.1, hw, hp]

/-- An instruction that only goes on. -/
theorem issues_bare {i : Instr} {s : State} {h : Hdr} {c : Ctx} {u : Use} {body : Ctx → State → Res} {d : Option Nat} {pc : BitVec 57}
    (he : exec i s = issue h u s body) (hr : c.ready s h u) (hb : body c s = .done d s) (hp : c.aim d = pc) :
    Continues i s c c.w (c.g.counted [(1, 1)]) pc := by
  have e : s.modWarp c.id id = s := by
    obtain ⟨h1, h2, -, -⟩ := State.ctx_spec hr.1
    have h2' : Table.find c.id s.warps = some c.w := by rw [h1]; exact h2
    simp only [State.modWarp, Table.modify_of_find h2', id, Table.ins_find h2']
  exact issues_plain he hr (f := id) (by rw [hb, e]) rfl hp

end Sys2Proof.Machine
end

