-- ==== Sys2Proof/Laws/Memory.lean ====
section
/-! SUPPORT. Every memory operation keeps the canonical form of memory. -/

namespace Sys2Proof.Machine

/-- The invariant of a state depends on its memory and its seals only. -/
theorem State.inv_of_mem {s t : State} (h : t.mem = s.mem) (hk : t.seals = s.seals) (hs : s.inv) : t.inv := by
  unfold State.inv at *
  rw [h, hk]
  exact hs

/-- A fold keeps the invariant that each of its steps keeps. -/
theorem State.inv_foldl {β : Type} {f : State → β → State} (hf : ∀ s x, s.inv → (f s x).inv) (l : List β) :
    ∀ s : State, s.inv → (l.foldl f s).inv := by
  induction l with
  | nil => exact fun s h => h
  | cons x l ih => exact fun s h => ih (f s x) (hf s x h)

/-- Bringing a unit under a key keeps the invariant. -/
theorem State.inv_reseal {s : State} (key u : Nat) (h : s.inv) : (s.reseal key u).inv := by
  unfold State.reseal
  split
  · exact h
  · exact ⟨Table.wf_putBytes (16 * u) (s.unit key u) h.1, Table.wf_put u key h.2⟩

/-- Writing bytes under a key keeps the invariant. -/
theorem State.inv_putAt {s : State} (key loc : Nat) (bs : List Byte) (h : s.inv) : (s.putAt key loc bs).inv := by
  unfold State.putAt
  split
  · exact h
  · have hi := State.inv_foldl (fun s i hs => State.inv_reseal key (loc / 16 + i) hs)
      (List.range ((loc + bs.length - 1) / 16 + 1 - loc / 16)) s h
    exact ⟨Table.wf_putBytes loc bs hi.1, hi.2⟩

/-- Marking poison leaves memory alone. -/
theorem State.inv_setPoison {s : State} (x : Nat) (b : Bool) (h : s.inv) : (s.setPoison x b).inv := h

/-- Clearing a range keeps the invariant. -/
theorem State.inv_clearRange {s : State} (loc n : Nat) (h : s.inv) : (s.clearRange loc n).inv :=
  ⟨Table.wf_filter _ h.1, Table.wf_filter _ h.2⟩

/-- Writing the pieces of one write keeps the invariant. -/
theorem State.inv_putPieces {s : State} (key : Nat) (pieces : List (Nat × List Byte)) (h : s.inv) :
    (s.putPieces key pieces).inv := by
  unfold State.putPieces
  refine State.inv_foldl (fun s x hs => ?_) _ _ (State.inv_foldl (fun s p hs => State.inv_putAt key _ _ hs) _ s h)
  split
  · exact State.inv_setPoison _ _ hs
  · exact hs

/-- Placing bytes at a physical address keeps the invariant. -/
theorem State.inv_placeBytes {s : State} (pa : Nat) (bs : List Byte) (h : s.inv) : (s.placeBytes pa bs).inv :=
  ⟨Table.wf_putBytes pa bs (State.inv_clearRange (pa / 64 * 64) 64 h).1, (State.inv_clearRange (pa / 64 * 64) 64 h).2⟩

end Sys2Proof.Machine
end

