-- ==== Sys2Proof/Laws/PerInstr.lean ====
section
/-! SUPPORT. The encoding of every instruction, one lemma for each constructor of `Instr`: the fields of a well-formed
instruction's word decode to the instruction. -/

open Sys2Proof

/-- An instruction that is well-formed decodes from the word it is encoded as: by its fields on a Vodon core, by its word on a
Kudu core (R33 to R36, R408). -/
def Sys2Proof.Laws.Encoding.Statement (i : Instr) : Prop :=
  i.wellFormed = true → (∀ r, encodeRaw i = some r → decodeRaw r = .ok i) ∧ (∀ w, encodeKudu i = some w → decodeKudu w = .ok i)

open Sys2Proof.Laws

set_option linter.unusedSimpArgs false
set_option Elab.async false

theorem Sys2Proof.Laws.Encoding.abs (h : Hdr) (dst : Reg) (a : Reg) : Sys2Proof.Laws.Encoding.Statement (.abs h dst a) := by
  intro hw
  refine ⟨fun r hr => ?_, fun w hk => nomatch hk⟩
  cases hr
  simp_all [decodeRaw, decode04, Raw.form, Raw.hdr, Instr.wellFormed]

theorem Sys2Proof.Laws.Encoding.add (h : Hdr) (dst : Reg) (a : Reg) (b : Reg) : Sys2Proof.Laws.Encoding.Statement (.add h dst a b) := by
  intro hw
  refine ⟨fun r hr => ?_, fun w hk => nomatch hk⟩
  cases hr
  simp_all [decodeRaw, decode00, Raw.form, Raw.hdr, Instr.wellFormed]

theorem Sys2Proof.Laws.Encoding.addImm (h : Hdr) (dst : Reg) (a : Reg) (imm : BitVec 16) : Sys2Proof.Laws.Encoding.Statement (.addImm h dst a imm) := by
  intro hw
  refine ⟨fun r hr => ?_, fun w hk => nomatch hk⟩
  cases hr
  simp_all [decodeRaw, decode01, Raw.form, Raw.hdr, Instr.wellFormed, e16]

theorem Sys2Proof.Laws.Encoding.sub (h : Hdr) (dst : Reg) (a : Reg) (b : Reg) : Sys2Proof.Laws.Encoding.Statement (.sub h dst a b) := by
  intro hw
  refine ⟨fun r hr => ?_, fun w hk => nomatch hk⟩
  cases hr
  simp_all [decodeRaw, decode00, Raw.form, Raw.hdr, Instr.wellFormed]

theorem Sys2Proof.Laws.Encoding.addSat (h : Hdr) (ty : IntTy) (dst : Reg) (a : Reg) (b : Reg) : Sys2Proof.Laws.Encoding.Statement (.addSat h ty dst a b) := by
  intro hw
  refine ⟨fun r hr => ?_, fun w hk => nomatch hk⟩
  cases hr
  cases ty <;> simp_all [decodeRaw, decode04, Raw.form, Raw.hdr, Instr.wellFormed, tyCode]

theorem Sys2Proof.Laws.Encoding.subSat (h : Hdr) (ty : IntTy) (dst : Reg) (a : Reg) (b : Reg) : Sys2Proof.Laws.Encoding.Statement (.subSat h ty dst a b) := by
  intro hw
  refine ⟨fun r hr => ?_, fun w hk => nomatch hk⟩
  cases hr
  cases ty <;> simp_all [decodeRaw, decode04, Raw.form, Raw.hdr, Instr.wellFormed, tyCode]

theorem Sys2Proof.Laws.Encoding.add64 (h : Hdr) (dst : Reg) (a : Reg) (b : Reg) : Sys2Proof.Laws.Encoding.Statement (.add64 h dst a b) := by
  intro hw
  refine ⟨fun r hr => ?_, fun w hk => nomatch hk⟩
  cases hr
  simp_all [decodeRaw, decode00, Raw.form, Raw.hdr, Instr.wellFormed]

theorem Sys2Proof.Laws.Encoding.sub64 (h : Hdr) (dst : Reg) (a : Reg) (b : Reg) : Sys2Proof.Laws.Encoding.Statement (.sub64 h dst a b) := by
  intro hw
  refine ⟨fun r hr => ?_, fun w hk => nomatch hk⟩
  cases hr
  simp_all [decodeRaw, decode00, Raw.form, Raw.hdr, Instr.wellFormed]

theorem Sys2Proof.Laws.Encoding.adda (h : Hdr) (sc : Fin 5) (dst : Reg) (a : Reg) (imm : BitVec 16) : Sys2Proof.Laws.Encoding.Statement (.adda h sc dst a imm) := by
  intro hw
  refine ⟨fun r hr => ?_, fun w hk => nomatch hk⟩
  cases hr
  fin_cases sc <;> simp_all [decodeRaw, decode06, Raw.form, Raw.hdr, Instr.wellFormed, e16]

theorem Sys2Proof.Laws.Encoding.addx (h : Hdr) (ty : IntTy) (sc : Fin 5) (dst : Reg) (a : Reg) (b : Reg) : Sys2Proof.Laws.Encoding.Statement (.addx h ty sc dst a b) := by
  intro hw
  refine ⟨fun r hr => ?_, fun w hk => nomatch hk⟩
  cases hr
  fin_cases sc <;> cases ty <;> simp_all [decodeRaw, decode00, Raw.form, Raw.hdr, Instr.wellFormed, tyCode]

theorem Sys2Proof.Laws.Encoding.aff (h : Hdr) (dst : Reg) (a : Reg) (b : Reg) : Sys2Proof.Laws.Encoding.Statement (.aff h dst a b) := by
  intro hw
  refine ⟨fun r hr => ?_, fun w hk => nomatch hk⟩
  cases hr
  simp_all [decodeRaw, decode05, Raw.form, Raw.hdr, Instr.wellFormed]

theorem Sys2Proof.Laws.Encoding.andR (h : Hdr) (dst : Reg) (a : Reg) (b : Reg) : Sys2Proof.Laws.Encoding.Statement (.andR h dst a b) := by
  intro hw
  refine ⟨fun r hr => ?_, fun w hk => nomatch hk⟩
  cases hr
  simp_all [decodeRaw, decode00, Raw.form, Raw.hdr, Instr.wellFormed]

theorem Sys2Proof.Laws.Encoding.andImm (h : Hdr) (dst : Reg) (a : Reg) (imm : BitVec 16) : Sys2Proof.Laws.Encoding.Statement (.andImm h dst a imm) := by
  intro hw
  refine ⟨fun r hr => ?_, fun w hk => nomatch hk⟩
  cases hr
  simp_all [decodeRaw, decode01, Raw.form, Raw.hdr, Instr.wellFormed, e16]

theorem Sys2Proof.Laws.Encoding.orR (h : Hdr) (dst : Reg) (a : Reg) (b : Reg) : Sys2Proof.Laws.Encoding.Statement (.orR h dst a b) := by
  intro hw
  refine ⟨fun r hr => ?_, fun w hk => nomatch hk⟩
  cases hr
  simp_all [decodeRaw, decode00, Raw.form, Raw.hdr, Instr.wellFormed]

theorem Sys2Proof.Laws.Encoding.orImm (h : Hdr) (dst : Reg) (a : Reg) (imm : BitVec 16) : Sys2Proof.Laws.Encoding.Statement (.orImm h dst a imm) := by
  intro hw
  refine ⟨fun r hr => ?_, fun w hk => nomatch hk⟩
  cases hr
  simp_all [decodeRaw, decode01, Raw.form, Raw.hdr, Instr.wellFormed, e16]

theorem Sys2Proof.Laws.Encoding.xorR (h : Hdr) (dst : Reg) (a : Reg) (b : Reg) : Sys2Proof.Laws.Encoding.Statement (.xorR h dst a b) := by
  intro hw
  refine ⟨fun r hr => ?_, fun w hk => nomatch hk⟩
  cases hr
  simp_all [decodeRaw, decode00, Raw.form, Raw.hdr, Instr.wellFormed]

theorem Sys2Proof.Laws.Encoding.xorImm (h : Hdr) (dst : Reg) (a : Reg) (imm : BitVec 16) : Sys2Proof.Laws.Encoding.Statement (.xorImm h dst a imm) := by
  intro hw
  refine ⟨fun r hr => ?_, fun w hk => nomatch hk⟩
  cases hr
  simp_all [decodeRaw, decode01, Raw.form, Raw.hdr, Instr.wellFormed, e16]

theorem Sys2Proof.Laws.Encoding.andn (h : Hdr) (dst : Reg) (a : Reg) (b : Reg) : Sys2Proof.Laws.Encoding.Statement (.andn h dst a b) := by
  intro hw
  refine ⟨fun r hr => ?_, fun w hk => nomatch hk⟩
  cases hr
  simp_all [decodeRaw, decode00, Raw.form, Raw.hdr, Instr.wellFormed]

theorem Sys2Proof.Laws.Encoding.bfi (h : Hdr) (dst : Reg) (a : Reg) (b : Reg) (c : Reg) : Sys2Proof.Laws.Encoding.Statement (.bfi h dst a b c) := by
  intro hw
  refine ⟨fun r hr => ?_, fun w hk => nomatch hk⟩
  cases hr
  simp_all [decodeRaw, decode04, Raw.form, Raw.hdr, Instr.wellFormed]

theorem Sys2Proof.Laws.Encoding.bfx (h : Hdr) (ty : IntTy) (dst : Reg) (a : Reg) (b : Reg) : Sys2Proof.Laws.Encoding.Statement (.bfx h ty dst a b) := by
  intro hw
  refine ⟨fun r hr => ?_, fun w hk => nomatch hk⟩
  cases hr
  cases ty <;> simp_all [decodeRaw, decode04, Raw.form, Raw.hdr, Instr.wellFormed, tyCode]

theorem Sys2Proof.Laws.Encoding.brev (h : Hdr) (dst : Reg) (a : Reg) : Sys2Proof.Laws.Encoding.Statement (.brev h dst a) := by
  intro hw
  refine ⟨fun r hr => ?_, fun w hk => nomatch hk⟩
  cases hr
  simp_all [decodeRaw, decode04, Raw.form, Raw.hdr, Instr.wellFormed]

theorem Sys2Proof.Laws.Encoding.clz (h : Hdr) (dst : Reg) (a : Reg) : Sys2Proof.Laws.Encoding.Statement (.clz h dst a) := by
  intro hw
  refine ⟨fun r hr => ?_, fun w hk => nomatch hk⟩
  cases hr
  simp_all [decodeRaw, decode04, Raw.form, Raw.hdr, Instr.wellFormed]

theorem Sys2Proof.Laws.Encoding.ctz (h : Hdr) (dst : Reg) (a : Reg) : Sys2Proof.Laws.Encoding.Statement (.ctz h dst a) := by
  intro hw
  refine ⟨fun r hr => ?_, fun w hk => nomatch hk⟩
  cases hr
  simp_all [decodeRaw, decode04, Raw.form, Raw.hdr, Instr.wellFormed]

theorem Sys2Proof.Laws.Encoding.popc (h : Hdr) (dst : Reg) (a : Reg) : Sys2Proof.Laws.Encoding.Statement (.popc h dst a) := by
  intro hw
  refine ⟨fun r hr => ?_, fun w hk => nomatch hk⟩
  cases hr
  simp_all [decodeRaw, decode04, Raw.form, Raw.hdr, Instr.wellFormed]

theorem Sys2Proof.Laws.Encoding.form (h : Hdr) (dst : Reg) (a : Reg) : Sys2Proof.Laws.Encoding.Statement (.form h dst a) := by
  intro hw
  refine ⟨fun r hr => ?_, fun w hk => nomatch hk⟩
  cases hr
  simp_all [decodeRaw, decode05, Raw.form, Raw.hdr, Instr.wellFormed]

theorem Sys2Proof.Laws.Encoding.li (h : Hdr) (dst : Reg) (imm : Word) : Sys2Proof.Laws.Encoding.Statement (.li h dst imm) := by
  intro hw
  refine ⟨fun r hr => ?_, fun w hk => nomatch hk⟩
  cases hr
  simp_all [decodeRaw, Raw.form, Raw.hdr, Instr.wellFormed, e32]

theorem Sys2Proof.Laws.Encoding.mul (h : Hdr) (dst : Reg) (a : Reg) (b : Reg) : Sys2Proof.Laws.Encoding.Statement (.mul h dst a b) := by
  intro hw
  refine ⟨fun r hr => ?_, fun w hk => nomatch hk⟩
  cases hr
  simp_all [decodeRaw, decode00, Raw.form, Raw.hdr, Instr.wellFormed]

theorem Sys2Proof.Laws.Encoding.mulImm (h : Hdr) (dst : Reg) (a : Reg) (imm : BitVec 16) : Sys2Proof.Laws.Encoding.Statement (.mulImm h dst a imm) := by
  intro hw
  refine ⟨fun r hr => ?_, fun w hk => nomatch hk⟩
  cases hr
  simp_all [decodeRaw, decode01, Raw.form, Raw.hdr, Instr.wellFormed, e16]

theorem Sys2Proof.Laws.Encoding.mad (h : Hdr) (dst : Reg) (a : Reg) (b : Reg) (c : Reg) : Sys2Proof.Laws.Encoding.Statement (.mad h dst a b c) := by
  intro hw
  refine ⟨fun r hr => ?_, fun w hk => nomatch hk⟩
  cases hr
  simp_all [decodeRaw, decode00, Raw.form, Raw.hdr, Instr.wellFormed]

theorem Sys2Proof.Laws.Encoding.min (h : Hdr) (ty : IntTy) (dst : Reg) (a : Reg) (b : Reg) : Sys2Proof.Laws.Encoding.Statement (.min h ty dst a b) := by
  intro hw
  refine ⟨fun r hr => ?_, fun w hk => nomatch hk⟩
  cases hr
  cases ty <;> simp_all [decodeRaw, decode03, Raw.form, Raw.hdr, Instr.wellFormed, tyCode]

theorem Sys2Proof.Laws.Encoding.max (h : Hdr) (ty : IntTy) (dst : Reg) (a : Reg) (b : Reg) : Sys2Proof.Laws.Encoding.Statement (.max h ty dst a b) := by
  intro hw
  refine ⟨fun r hr => ?_, fun w hk => nomatch hk⟩
  cases hr
  cases ty <;> simp_all [decodeRaw, decode03, Raw.form, Raw.hdr, Instr.wellFormed, tyCode]

theorem Sys2Proof.Laws.Encoding.mulhi (h : Hdr) (ty : IntTy) (dst : Reg) (a : Reg) (b : Reg) : Sys2Proof.Laws.Encoding.Statement (.mulhi h ty dst a b) := by
  intro hw
  refine ⟨fun r hr => ?_, fun w hk => nomatch hk⟩
  cases hr
  cases ty <;> simp_all [decodeRaw, decode00, Raw.form, Raw.hdr, Instr.wellFormed, tyCode]

theorem Sys2Proof.Laws.Encoding.mulw (h : Hdr) (ty : IntTy) (dst : Reg) (a : Reg) (b : Reg) : Sys2Proof.Laws.Encoding.Statement (.mulw h ty dst a b) := by
  intro hw
  refine ⟨fun r hr => ?_, fun w hk => nomatch hk⟩
  cases hr
  cases ty <;> simp_all [decodeRaw, decode00, Raw.form, Raw.hdr, Instr.wellFormed, tyCode]

theorem Sys2Proof.Laws.Encoding.shl (h : Hdr) (dst : Reg) (a : Reg) (b : Reg) : Sys2Proof.Laws.Encoding.Statement (.shl h dst a b) := by
  intro hw
  refine ⟨fun r hr => ?_, fun w hk => nomatch hk⟩
  cases hr
  simp_all [decodeRaw, decode00, Raw.form, Raw.hdr, Instr.wellFormed]

theorem Sys2Proof.Laws.Encoding.shlImm (h : Hdr) (dst : Reg) (a : Reg) (n : BitVec 5) : Sys2Proof.Laws.Encoding.Statement (.shlImm h dst a n) := by
  intro hw
  refine ⟨fun r hr => ?_, fun w hk => nomatch hk⟩
  cases hr
  simp_all [decodeRaw, decode01, Raw.form, Raw.hdr, Instr.wellFormed, small5]

theorem Sys2Proof.Laws.Encoding.shr (h : Hdr) (dst : Reg) (a : Reg) (b : Reg) : Sys2Proof.Laws.Encoding.Statement (.shr h dst a b) := by
  intro hw
  refine ⟨fun r hr => ?_, fun w hk => nomatch hk⟩
  cases hr
  simp_all [decodeRaw, decode00, Raw.form, Raw.hdr, Instr.wellFormed]

theorem Sys2Proof.Laws.Encoding.shrImm (h : Hdr) (dst : Reg) (a : Reg) (n : BitVec 5) : Sys2Proof.Laws.Encoding.Statement (.shrImm h dst a n) := by
  intro hw
  refine ⟨fun r hr => ?_, fun w hk => nomatch hk⟩
  cases hr
  simp_all [decodeRaw, decode01, Raw.form, Raw.hdr, Instr.wellFormed, small5]

theorem Sys2Proof.Laws.Encoding.sra (h : Hdr) (dst : Reg) (a : Reg) (b : Reg) : Sys2Proof.Laws.Encoding.Statement (.sra h dst a b) := by
  intro hw
  refine ⟨fun r hr => ?_, fun w hk => nomatch hk⟩
  cases hr
  simp_all [decodeRaw, decode00, Raw.form, Raw.hdr, Instr.wellFormed]

theorem Sys2Proof.Laws.Encoding.sraImm (h : Hdr) (dst : Reg) (a : Reg) (n : BitVec 5) : Sys2Proof.Laws.Encoding.Statement (.sraImm h dst a n) := by
  intro hw
  refine ⟨fun r hr => ?_, fun w hk => nomatch hk⟩
  cases hr
  simp_all [decodeRaw, decode01, Raw.form, Raw.hdr, Instr.wellFormed, small5]

theorem Sys2Proof.Laws.Encoding.rol (h : Hdr) (dst : Reg) (a : Reg) (b : Reg) : Sys2Proof.Laws.Encoding.Statement (.rol h dst a b) := by
  intro hw
  refine ⟨fun r hr => ?_, fun w hk => nomatch hk⟩
  cases hr
  simp_all [decodeRaw, decode00, Raw.form, Raw.hdr, Instr.wellFormed]

theorem Sys2Proof.Laws.Encoding.rolImm (h : Hdr) (dst : Reg) (a : Reg) (n : BitVec 5) : Sys2Proof.Laws.Encoding.Statement (.rolImm h dst a n) := by
  intro hw
  refine ⟨fun r hr => ?_, fun w hk => nomatch hk⟩
  cases hr
  simp_all [decodeRaw, decode01, Raw.form, Raw.hdr, Instr.wellFormed, small5]

theorem Sys2Proof.Laws.Encoding.sel (h : Hdr) (dst : Reg) (a : Reg) (b : Reg) (c : Reg) : Sys2Proof.Laws.Encoding.Statement (.sel h dst a b c) := by
  intro hw
  refine ⟨fun r hr => ?_, fun w hk => nomatch hk⟩
  cases hr
  simp_all [decodeRaw, decode03, Raw.form, Raw.hdr, Instr.wellFormed]

theorem Sys2Proof.Laws.Encoding.set (h : Hdr) (cc : SetCc) (dst : Reg) (a : Reg) (b : Reg) : Sys2Proof.Laws.Encoding.Statement (.set h cc dst a b) := by
  intro hw
  refine ⟨fun r hr => ?_, fun w hk => nomatch hk⟩
  cases hr
  cases cc <;> simp_all [decodeRaw, decode03, Raw.form, Raw.hdr, Instr.wellFormed, setCode]

theorem Sys2Proof.Laws.Encoding.rcp (h : Hdr) (dst : Reg) (a : Reg) : Sys2Proof.Laws.Encoding.Statement (.rcp h dst a) := by
  intro hw
  refine ⟨fun r hr => ?_, fun w hk => nomatch hk⟩
  cases hr
  simp_all [decodeRaw, decode12, Raw.formIf, Raw.form, Raw.hdr, Instr.wellFormed]

theorem Sys2Proof.Laws.Encoding.rsq (h : Hdr) (dst : Reg) (a : Reg) : Sys2Proof.Laws.Encoding.Statement (.rsq h dst a) := by
  intro hw
  refine ⟨fun r hr => ?_, fun w hk => nomatch hk⟩
  cases hr
  simp_all [decodeRaw, decode12, Raw.formIf, Raw.form, Raw.hdr, Instr.wellFormed]

theorem Sys2Proof.Laws.Encoding.ex2 (h : Hdr) (dst : Reg) (a : Reg) : Sys2Proof.Laws.Encoding.Statement (.ex2 h dst a) := by
  intro hw
  refine ⟨fun r hr => ?_, fun w hk => nomatch hk⟩
  cases hr
  simp_all [decodeRaw, decode12, Raw.formIf, Raw.form, Raw.hdr, Instr.wellFormed]

theorem Sys2Proof.Laws.Encoding.lg2 (h : Hdr) (dst : Reg) (a : Reg) : Sys2Proof.Laws.Encoding.Statement (.lg2 h dst a) := by
  intro hw
  refine ⟨fun r hr => ?_, fun w hk => nomatch hk⟩
  cases hr
  simp_all [decodeRaw, decode12, Raw.formIf, Raw.form, Raw.hdr, Instr.wellFormed]

theorem Sys2Proof.Laws.Encoding.sin (h : Hdr) (dst : Reg) (a : Reg) : Sys2Proof.Laws.Encoding.Statement (.sin h dst a) := by
  intro hw
  refine ⟨fun r hr => ?_, fun w hk => nomatch hk⟩
  cases hr
  simp_all [decodeRaw, decode12, Raw.formIf, Raw.form, Raw.hdr, Instr.wellFormed]

theorem Sys2Proof.Laws.Encoding.cos (h : Hdr) (dst : Reg) (a : Reg) : Sys2Proof.Laws.Encoding.Statement (.cos h dst a) := by
  intro hw
  refine ⟨fun r hr => ?_, fun w hk => nomatch hk⟩
  cases hr
  simp_all [decodeRaw, decode12, Raw.formIf, Raw.form, Raw.hdr, Instr.wellFormed]

theorem Sys2Proof.Laws.Encoding.tanh (h : Hdr) (dst : Reg) (a : Reg) : Sys2Proof.Laws.Encoding.Statement (.tanh h dst a) := by
  intro hw
  refine ⟨fun r hr => ?_, fun w hk => nomatch hk⟩
  cases hr
  simp_all [decodeRaw, decode12, Raw.formIf, Raw.form, Raw.hdr, Instr.wellFormed]

theorem Sys2Proof.Laws.Encoding.cvtF32Si32 (h : Hdr) (m : Rnd) (dst : Reg) (a : Reg) : Sys2Proof.Laws.Encoding.Statement (.cvtF32Si32 h m dst a) := by
  intro hw
  refine ⟨fun r hr => ?_, fun w hk => nomatch hk⟩
  cases hr
  cases m <;> simp_all [decodeRaw, decode13, Raw.formIf, Raw.form, Raw.hdr, Instr.wellFormed, rndCode]

theorem Sys2Proof.Laws.Encoding.cvtF32Ui32 (h : Hdr) (m : Rnd) (dst : Reg) (a : Reg) : Sys2Proof.Laws.Encoding.Statement (.cvtF32Ui32 h m dst a) := by
  intro hw
  refine ⟨fun r hr => ?_, fun w hk => nomatch hk⟩
  cases hr
  cases m <;> simp_all [decodeRaw, decode13, Raw.formIf, Raw.form, Raw.hdr, Instr.wellFormed, rndCode]

theorem Sys2Proof.Laws.Encoding.cvtSi32F32 (h : Hdr) (m : Rnd) (dst : Reg) (a : Reg) : Sys2Proof.Laws.Encoding.Statement (.cvtSi32F32 h m dst a) := by
  intro hw
  refine ⟨fun r hr => ?_, fun w hk => nomatch hk⟩
  cases hr
  cases m <;> simp_all [decodeRaw, decode13, Raw.formIf, Raw.form, Raw.hdr, Instr.wellFormed, rndCode]

theorem Sys2Proof.Laws.Encoding.cvtUi32F32 (h : Hdr) (m : Rnd) (dst : Reg) (a : Reg) : Sys2Proof.Laws.Encoding.Statement (.cvtUi32F32 h m dst a) := by
  intro hw
  refine ⟨fun r hr => ?_, fun w hk => nomatch hk⟩
  cases hr
  cases m <;> simp_all [decodeRaw, decode13, Raw.formIf, Raw.form, Raw.hdr, Instr.wellFormed, rndCode]

theorem Sys2Proof.Laws.Encoding.cvtBf16F32 (h : Hdr) (m : Rnd) (dst : Reg) (a : Reg) (b : Reg) (c : Reg) : Sys2Proof.Laws.Encoding.Statement (.cvtBf16F32 h m dst a b c) := by
  intro hw
  refine ⟨fun r hr => ?_, fun w hk => nomatch hk⟩
  cases hr
  cases m <;> simp_all [decodeRaw, decode13, Raw.formIf, Raw.form, Raw.hdr, Instr.wellFormed, rndCode]

theorem Sys2Proof.Laws.Encoding.cvtF16F32 (h : Hdr) (m : Rnd) (dst : Reg) (a : Reg) (b : Reg) (c : Reg) : Sys2Proof.Laws.Encoding.Statement (.cvtF16F32 h m dst a b c) := by
  intro hw
  refine ⟨fun r hr => ?_, fun w hk => nomatch hk⟩
  cases hr
  cases m <;> simp_all [decodeRaw, decode13, Raw.formIf, Raw.form, Raw.hdr, Instr.wellFormed, rndCode]

theorem Sys2Proof.Laws.Encoding.cvtE4m3F32 (h : Hdr) (half : Bool) (m : Rnd) (dst : Reg) (a : Reg) (b : Reg) (c : Reg) : Sys2Proof.Laws.Encoding.Statement (.cvtE4m3F32 h half m dst a b c) := by
  intro hw
  refine ⟨fun r hr => ?_, fun w hk => nomatch hk⟩
  cases hr
  cases half <;> cases m <;> simp_all [decodeRaw, decode13, Raw.formIf, Raw.form, Raw.hdr, Instr.wellFormed, rndCode]

theorem Sys2Proof.Laws.Encoding.cvtE5m2F32 (h : Hdr) (half : Bool) (m : Rnd) (dst : Reg) (a : Reg) (b : Reg) (c : Reg) : Sys2Proof.Laws.Encoding.Statement (.cvtE5m2F32 h half m dst a b c) := by
  intro hw
  refine ⟨fun r hr => ?_, fun w hk => nomatch hk⟩
  cases hr
  cases half <;> cases m <;> simp_all [decodeRaw, decode13, Raw.formIf, Raw.form, Raw.hdr, Instr.wellFormed, rndCode]

theorem Sys2Proof.Laws.Encoding.cvtF32Bf16 (h : Hdr) (half : Bool) (dst : Reg) (a : Reg) : Sys2Proof.Laws.Encoding.Statement (.cvtF32Bf16 h half dst a) := by
  intro hw
  refine ⟨fun r hr => ?_, fun w hk => nomatch hk⟩
  cases hr
  cases half <;> simp_all [decodeRaw, decode13, Raw.formIf, Raw.form, Raw.hdr, Instr.wellFormed]

theorem Sys2Proof.Laws.Encoding.cvtF32F16 (h : Hdr) (half : Bool) (dst : Reg) (a : Reg) : Sys2Proof.Laws.Encoding.Statement (.cvtF32F16 h half dst a) := by
  intro hw
  refine ⟨fun r hr => ?_, fun w hk => nomatch hk⟩
  cases hr
  cases half <;> simp_all [decodeRaw, decode13, Raw.formIf, Raw.form, Raw.hdr, Instr.wellFormed]

theorem Sys2Proof.Laws.Encoding.cvtF32E4m3 (h : Hdr) (byte : BitVec 2) (dst : Reg) (a : Reg) : Sys2Proof.Laws.Encoding.Statement (.cvtF32E4m3 h byte dst a) := by
  intro hw
  refine ⟨fun r hr => ?_, fun w hk => nomatch hk⟩
  cases hr
  rcases byte with ⟨⟨n, hn⟩⟩
  interval_cases n <;> simp_all [decodeRaw, decode13, Raw.formIf, Raw.form, Raw.hdr, Instr.wellFormed]

theorem Sys2Proof.Laws.Encoding.cvtF32E5m2 (h : Hdr) (byte : BitVec 2) (dst : Reg) (a : Reg) : Sys2Proof.Laws.Encoding.Statement (.cvtF32E5m2 h byte dst a) := by
  intro hw
  refine ⟨fun r hr => ?_, fun w hk => nomatch hk⟩
  cases hr
  rcases byte with ⟨⟨n, hn⟩⟩
  interval_cases n <;> simp_all [decodeRaw, decode13, Raw.formIf, Raw.form, Raw.hdr, Instr.wellFormed]

theorem Sys2Proof.Laws.Encoding.fabs (h : Hdr) (dst : Reg) (a : Reg) : Sys2Proof.Laws.Encoding.Statement (.fabs h dst a) := by
  intro hw
  refine ⟨fun r hr => ?_, fun w hk => nomatch hk⟩
  cases hr
  simp_all [decodeRaw, decode10, Raw.formIf, Raw.form, Raw.hdr, Instr.wellFormed]

theorem Sys2Proof.Laws.Encoding.fneg (h : Hdr) (dst : Reg) (a : Reg) : Sys2Proof.Laws.Encoding.Statement (.fneg h dst a) := by
  intro hw
  refine ⟨fun r hr => ?_, fun w hk => nomatch hk⟩
  cases hr
  simp_all [decodeRaw, decode10, Raw.formIf, Raw.form, Raw.hdr, Instr.wellFormed]

theorem Sys2Proof.Laws.Encoding.fadd (h : Hdr) (m : Rnd) (dst : Reg) (a : Reg) (b : Reg) : Sys2Proof.Laws.Encoding.Statement (.fadd h m dst a b) := by
  intro hw
  refine ⟨fun r hr => ?_, fun w hk => nomatch hk⟩
  cases hr
  cases m <;> simp_all [decodeRaw, decode10, Raw.formIf, Raw.form, Raw.hdr, Instr.wellFormed, rndCode]

theorem Sys2Proof.Laws.Encoding.fsub (h : Hdr) (m : Rnd) (dst : Reg) (a : Reg) (b : Reg) : Sys2Proof.Laws.Encoding.Statement (.fsub h m dst a b) := by
  intro hw
  refine ⟨fun r hr => ?_, fun w hk => nomatch hk⟩
  cases hr
  cases m <;> simp_all [decodeRaw, decode10, Raw.formIf, Raw.form, Raw.hdr, Instr.wellFormed, rndCode]

theorem Sys2Proof.Laws.Encoding.fmul (h : Hdr) (m : Rnd) (dst : Reg) (a : Reg) (b : Reg) : Sys2Proof.Laws.Encoding.Statement (.fmul h m dst a b) := by
  intro hw
  refine ⟨fun r hr => ?_, fun w hk => nomatch hk⟩
  cases hr
  cases m <;> simp_all [decodeRaw, decode10, Raw.formIf, Raw.form, Raw.hdr, Instr.wellFormed, rndCode]

theorem Sys2Proof.Laws.Encoding.ffma (h : Hdr) (m : Rnd) (dst : Reg) (a : Reg) (b : Reg) (c : Reg) : Sys2Proof.Laws.Encoding.Statement (.ffma h m dst a b c) := by
  intro hw
  refine ⟨fun r hr => ?_, fun w hk => nomatch hk⟩
  cases hr
  cases m <;> simp_all [decodeRaw, decode10, Raw.formIf, Raw.form, Raw.hdr, Instr.wellFormed, rndCode]

theorem Sys2Proof.Laws.Encoding.fclass (h : Hdr) (dst : Reg) (a : Reg) : Sys2Proof.Laws.Encoding.Statement (.fclass h dst a) := by
  intro hw
  refine ⟨fun r hr => ?_, fun w hk => nomatch hk⟩
  cases hr
  simp_all [decodeRaw, decode15, Raw.formIf, Raw.form, Raw.hdr, Instr.wellFormed]

theorem Sys2Proof.Laws.Encoding.fmin (h : Hdr) (dst : Reg) (a : Reg) (b : Reg) : Sys2Proof.Laws.Encoding.Statement (.fmin h dst a b) := by
  intro hw
  refine ⟨fun r hr => ?_, fun w hk => nomatch hk⟩
  cases hr
  simp_all [decodeRaw, decode10, Raw.formIf, Raw.form, Raw.hdr, Instr.wellFormed]

theorem Sys2Proof.Laws.Encoding.fmax (h : Hdr) (dst : Reg) (a : Reg) (b : Reg) : Sys2Proof.Laws.Encoding.Statement (.fmax h dst a b) := by
  intro hw
  refine ⟨fun r hr => ?_, fun w hk => nomatch hk⟩
  cases hr
  simp_all [decodeRaw, decode10, Raw.formIf, Raw.form, Raw.hdr, Instr.wellFormed]

theorem Sys2Proof.Laws.Encoding.frnd (h : Hdr) (m : Rnd) (dst : Reg) (a : Reg) : Sys2Proof.Laws.Encoding.Statement (.frnd h m dst a) := by
  intro hw
  refine ⟨fun r hr => ?_, fun w hk => nomatch hk⟩
  cases hr
  cases m <;> simp_all [decodeRaw, decode13, Raw.formIf, Raw.form, Raw.hdr, Instr.wellFormed, rndCode]

theorem Sys2Proof.Laws.Encoding.fset (h : Hdr) (cc : FsetCc) (dst : Reg) (a : Reg) (b : Reg) : Sys2Proof.Laws.Encoding.Statement (.fset h cc dst a b) := by
  intro hw
  refine ⟨fun r hr => ?_, fun w hk => nomatch hk⟩
  cases hr
  cases cc <;> simp_all [decodeRaw, decode15, Raw.formIf, Raw.form, Raw.hdr, Instr.wellFormed, fsetCode]

theorem Sys2Proof.Laws.Encoding.padd (h : Hdr) (f : PackFmt) (m : Rnd) (dst : Reg) (a : Reg) (b : Reg) : Sys2Proof.Laws.Encoding.Statement (.padd h f m dst a b) := by
  intro hw
  refine ⟨fun r hr => ?_, fun w hk => nomatch hk⟩
  cases hr
  cases f <;> cases m <;> simp_all [decodeRaw, decode11, Raw.formIf, Raw.form, Raw.hdr, Instr.wellFormed, rndCode, packCode]

theorem Sys2Proof.Laws.Encoding.pmul (h : Hdr) (f : PackFmt) (m : Rnd) (dst : Reg) (a : Reg) (b : Reg) : Sys2Proof.Laws.Encoding.Statement (.pmul h f m dst a b) := by
  intro hw
  refine ⟨fun r hr => ?_, fun w hk => nomatch hk⟩
  cases hr
  cases f <;> cases m <;> simp_all [decodeRaw, decode11, Raw.formIf, Raw.form, Raw.hdr, Instr.wellFormed, rndCode, packCode]

theorem Sys2Proof.Laws.Encoding.pfma (h : Hdr) (f : PackFmt) (m : Rnd) (dst : Reg) (a : Reg) (b : Reg) (c : Reg) : Sys2Proof.Laws.Encoding.Statement (.pfma h f m dst a b c) := by
  intro hw
  refine ⟨fun r hr => ?_, fun w hk => nomatch hk⟩
  cases hr
  cases f <;> cases m <;> simp_all [decodeRaw, decode11, Raw.formIf, Raw.form, Raw.hdr, Instr.wellFormed, rndCode, packCode]

theorem Sys2Proof.Laws.Encoding.pmin (h : Hdr) (f : PackFmt) (dst : Reg) (a : Reg) (b : Reg) : Sys2Proof.Laws.Encoding.Statement (.pmin h f dst a b) := by
  intro hw
  refine ⟨fun r hr => ?_, fun w hk => nomatch hk⟩
  cases hr
  cases f <;> simp_all [decodeRaw, decode11, Raw.formIf, Raw.form, Raw.hdr, Instr.wellFormed, packCode]

theorem Sys2Proof.Laws.Encoding.pmax (h : Hdr) (f : PackFmt) (dst : Reg) (a : Reg) (b : Reg) : Sys2Proof.Laws.Encoding.Statement (.pmax h f dst a b) := by
  intro hw
  refine ⟨fun r hr => ?_, fun w hk => nomatch hk⟩
  cases hr
  cases f <;> simp_all [decodeRaw, decode11, Raw.formIf, Raw.form, Raw.hdr, Instr.wellFormed, packCode]

theorem Sys2Proof.Laws.Encoding.pdot (h : Hdr) (f : PackFmt) (m : Rnd) (dst : Reg) (a : Reg) (b : Reg) (c : Reg) : Sys2Proof.Laws.Encoding.Statement (.pdot h f m dst a b c) := by
  intro hw
  refine ⟨fun r hr => ?_, fun w hk => nomatch hk⟩
  cases hr
  cases f <;> cases m <;> simp_all [decodeRaw, decode11, Raw.formIf, Raw.form, Raw.hdr, Instr.wellFormed, rndCode, packCode]

theorem Sys2Proof.Laws.Encoding.qnt (h : Hdr) (q : QFmt) (m : Rnd) (dst : Reg) (a : Reg) (b : Reg) (c : Reg) : Sys2Proof.Laws.Encoding.Statement (.qnt h q m dst a b c) := by
  intro hw
  refine ⟨fun r hr => ?_, fun w hk => nomatch hk⟩
  cases hr
  cases q <;> cases m <;> simp_all [decodeRaw, decode14, Raw.formIf, Raw.form, Raw.hdr, Instr.wellFormed, rndCode, qCode]

theorem Sys2Proof.Laws.Encoding.qpk (h : Hdr) (q : QFmt) (dst : Reg) (a : Reg) : Sys2Proof.Laws.Encoding.Statement (.qpk h q dst a) := by
  intro hw
  refine ⟨fun r hr => ?_, fun w hk => nomatch hk⟩
  cases hr
  cases q <;> simp_all [decodeRaw, decode14, Raw.formIf, Raw.form, Raw.hdr, Instr.wellFormed, qCode]

theorem Sys2Proof.Laws.Encoding.qunpk (h : Hdr) (q : QFmt) (dst : Reg) (a : Reg) : Sys2Proof.Laws.Encoding.Statement (.qunpk h q dst a) := by
  intro hw
  refine ⟨fun r hr => ?_, fun w hk => nomatch hk⟩
  cases hr
  cases q <;> simp_all [decodeRaw, decode14, Raw.formIf, Raw.form, Raw.hdr, Instr.wellFormed, qCode]

theorem Sys2Proof.Laws.Encoding.spmk (h : Hdr) (dst : Reg) (a : Reg) : Sys2Proof.Laws.Encoding.Statement (.spmk h dst a) := by
  intro hw
  refine ⟨fun r hr => ?_, fun w hk => nomatch hk⟩
  cases hr
  simp_all [decodeRaw, decode14, Raw.formIf, Raw.form, Raw.hdr, Instr.wellFormed]

theorem Sys2Proof.Laws.Encoding.spcmp (h : Hdr) (dst : Reg) (a : Reg) (b : Reg) : Sys2Proof.Laws.Encoding.Statement (.spcmp h dst a b) := by
  intro hw
  refine ⟨fun r hr => ?_, fun w hk => nomatch hk⟩
  cases hr
  simp_all [decodeRaw, decode14, Raw.formIf, Raw.form, Raw.hdr, Instr.wellFormed]

theorem Sys2Proof.Laws.Encoding.bra (h : Hdr) (off : BitVec 24) : Sys2Proof.Laws.Encoding.Statement (.bra h off) := by
  intro hw
  refine ⟨fun r hr => ?_, fun w hk => nomatch hk⟩
  cases hr
  simp_all [decodeRaw, decode20, Raw.form, Raw.hdr, Instr.wellFormed, e24]

theorem Sys2Proof.Laws.Encoding.braAll (h : Hdr) (off : BitVec 24) : Sys2Proof.Laws.Encoding.Statement (.braAll h off) := by
  intro hw
  refine ⟨fun r hr => ?_, fun w hk => nomatch hk⟩
  cases hr
  simp_all [decodeRaw, decode20, Raw.form, Raw.hdr, Instr.wellFormed, e24]

theorem Sys2Proof.Laws.Encoding.braNone (h : Hdr) (off : BitVec 24) : Sys2Proof.Laws.Encoding.Statement (.braNone h off) := by
  intro hw
  refine ⟨fun r hr => ?_, fun w hk => nomatch hk⟩
  cases hr
  simp_all [decodeRaw, decode20, Raw.form, Raw.hdr, Instr.wellFormed, e24]

theorem Sys2Proof.Laws.Encoding.brs (h : Hdr) (live : Reg) (off : BitVec 24) : Sys2Proof.Laws.Encoding.Statement (.brs h live off) := by
  intro hw
  refine ⟨fun r hr => ?_, fun w hk => nomatch hk⟩
  cases hr
  simp_all [decodeRaw, decode24, Raw.form, Raw.hdr, Instr.wellFormed, e24]

theorem Sys2Proof.Laws.Encoding.call (h : Hdr) (link : Reg) (off : BitVec 24) : Sys2Proof.Laws.Encoding.Statement (.call h link off) := by
  intro hw
  refine ⟨fun r hr => ?_, fun w hk => nomatch hk⟩
  cases hr
  simp_all [decodeRaw, decode20, Raw.form, Raw.hdr, Instr.wellFormed, e24]

theorem Sys2Proof.Laws.Encoding.endmeld (h : Hdr) : Sys2Proof.Laws.Encoding.Statement (.endmeld h) := by
  intro hw
  refine ⟨fun r hr => ?_, fun w hk => nomatch hk⟩
  cases hr
  simp_all [decodeRaw, decode23, Raw.form, Raw.hdr, Instr.wellFormed]

theorem Sys2Proof.Laws.Encoding.exit (h : Hdr) : Sys2Proof.Laws.Encoding.Statement (.exit h) := by
  intro hw
  refine ⟨fun r hr => ?_, fun w hk => nomatch hk⟩
  cases hr
  simp_all [decodeRaw, decode21, Raw.form, Raw.hdr, Instr.wellFormed]

theorem Sys2Proof.Laws.Encoding.jmp (h : Hdr) (a : Reg) : Sys2Proof.Laws.Encoding.Statement (.jmp h a) := by
  intro hw
  refine ⟨fun r hr => ?_, fun w hk => nomatch hk⟩
  cases hr
  simp_all [decodeRaw, decode21, Raw.form, Raw.hdr, Instr.wellFormed]

theorem Sys2Proof.Laws.Encoding.jmpl (h : Hdr) (dst : Reg) (a : Reg) : Sys2Proof.Laws.Encoding.Statement (.jmpl h dst a) := by
  intro hw
  refine ⟨fun r hr => ?_, fun w hk => nomatch hk⟩
  cases hr
  simp_all [decodeRaw, decode21, Raw.form, Raw.hdr, Instr.wellFormed]

theorem Sys2Proof.Laws.Encoding.ret (h : Hdr) (a : Reg) : Sys2Proof.Laws.Encoding.Statement (.ret h a) := by
  intro hw
  refine ⟨fun r hr => ?_, fun w hk => nomatch hk⟩
  cases hr
  simp_all [decodeRaw, decode21, Raw.form, Raw.hdr, Instr.wellFormed]

theorem Sys2Proof.Laws.Encoding.loop (h : Hdr) (n : Fin 6) (off : BitVec 16) : Sys2Proof.Laws.Encoding.Statement (.loop h n off) := by
  intro hw
  refine ⟨fun r hr => ?_, fun w hk => nomatch hk⟩
  cases hr
  fin_cases n <;> simp_all [decodeRaw, decode25, Raw.form, Raw.hdr, Instr.wellFormed, e16]

theorem Sys2Proof.Laws.Encoding.mand (h : Hdr) (dst : Reg) (a : Reg) : Sys2Proof.Laws.Encoding.Statement (.mand h dst a) := by
  intro hw
  refine ⟨fun r hr => ?_, fun w hk => nomatch hk⟩
  cases hr
  simp_all [decodeRaw, decode22, Raw.form, Raw.hdr, Instr.wellFormed]

theorem Sys2Proof.Laws.Encoding.mandn (h : Hdr) (dst : Reg) (a : Reg) : Sys2Proof.Laws.Encoding.Statement (.mandn h dst a) := by
  intro hw
  refine ⟨fun r hr => ?_, fun w hk => nomatch hk⟩
  cases hr
  simp_all [decodeRaw, decode22, Raw.form, Raw.hdr, Instr.wellFormed]

theorem Sys2Proof.Laws.Encoding.meld (h : Hdr) (vp : BitVec 6) : Sys2Proof.Laws.Encoding.Statement (.meld h vp) := by
  intro hw
  refine ⟨fun r hr => ?_, fun w hk => nomatch hk⟩
  cases hr
  simp_all [decodeRaw, decode23, Raw.form, Raw.hdr, Instr.wellFormed, small6]

theorem Sys2Proof.Laws.Encoding.melse (h : Hdr) (a : Reg) : Sys2Proof.Laws.Encoding.Statement (.melse h a) := by
  intro hw
  refine ⟨fun r hr => ?_, fun w hk => nomatch hk⟩
  cases hr
  simp_all [decodeRaw, decode22, Raw.form, Raw.hdr, Instr.wellFormed]

theorem Sys2Proof.Laws.Encoding.mset (h : Hdr) (a : Reg) : Sys2Proof.Laws.Encoding.Statement (.mset h a) := by
  intro hw
  refine ⟨fun r hr => ?_, fun w hk => nomatch hk⟩
  cases hr
  simp_all [decodeRaw, decode22, Raw.form, Raw.hdr, Instr.wellFormed]

theorem Sys2Proof.Laws.Encoding.mvote (h : Hdr) (dst : Reg) (a : Reg) : Sys2Proof.Laws.Encoding.Statement (.mvote h dst a) := by
  intro hw
  refine ⟨fun r hr => ?_, fun w hk => nomatch hk⟩
  cases hr
  simp_all [decodeRaw, decode22, Raw.form, Raw.hdr, Instr.wellFormed]

theorem Sys2Proof.Laws.Encoding.nop (h : Hdr) : Sys2Proof.Laws.Encoding.Statement (.nop h) := by
  intro hw
  refine ⟨fun r hr => ?_, fun w hk => nomatch hk⟩
  cases hr
  simp_all [decodeRaw, decode21, Raw.form, Raw.hdr, Instr.wellFormed]

theorem Sys2Proof.Laws.Encoding.rnm (h : Hdr) (i : BitVec 4) (x : Reg) (y : Reg) : Sys2Proof.Laws.Encoding.Statement (.rnm h i x y) := by
  intro hw
  refine ⟨fun r hr => ?_, fun w hk => nomatch hk⟩
  cases hr
  simp_all [decodeRaw, decode23, Raw.form, Raw.hdr, Instr.wellFormed, small4]

theorem Sys2Proof.Laws.Encoding.align (h : Hdr) (a : Reg) : Sys2Proof.Laws.Encoding.Statement (.align h a) := by
  intro hw
  refine ⟨fun r hr => ?_, fun w hk => nomatch hk⟩
  cases hr
  simp_all [decodeRaw, decode25, Raw.form, Raw.hdr, Instr.wellFormed]

theorem Sys2Proof.Laws.Encoding.unalign (h : Hdr) : Sys2Proof.Laws.Encoding.Statement (.unalign h) := by
  intro hw
  refine ⟨fun r hr => ?_, fun w hk => nomatch hk⟩
  cases hr
  simp_all [decodeRaw, decode25, Raw.form, Raw.hdr, Instr.wellFormed]

theorem Sys2Proof.Laws.Encoding.ld (h : Hdr) (sp : Space) (k : LdKind) (dst : Reg) (a : Reg) (imm : BitVec 16) : Sys2Proof.Laws.Encoding.Statement (.ld h sp k dst a imm) := by
  intro hw
  refine ⟨fun r hr => ?_, fun w hk => nomatch hk⟩
  cases hr
  cases sp <;> cases k <;> simp_all [decodeRaw, decode28, Raw.form, Raw.hdr, Instr.wellFormed, spCode, ldCode, wide, ldBytes, e16]

theorem Sys2Proof.Laws.Encoding.st (h : Hdr) (sp : Space) (k : StKind) (d : Reg) (a : Reg) (imm : BitVec 16) : Sys2Proof.Laws.Encoding.Statement (.st h sp k d a imm) := by
  intro hw
  refine ⟨fun r hr => ?_, fun w hk => nomatch hk⟩
  cases hr
  cases sp <;> cases k <;> simp_all [decodeRaw, decode29, Raw.form, Raw.hdr, Instr.wellFormed, spCode, stCode, wide, stBytes, e16]

theorem Sys2Proof.Laws.Encoding.flushG (h : Hdr) (a : Reg) (imm : BitVec 16) : Sys2Proof.Laws.Encoding.Statement (.flushG h a imm) := by
  intro hw
  refine ⟨fun r hr => ?_, fun w hk => nomatch hk⟩
  cases hr
  simp_all [decodeRaw, decode29, Raw.form, Raw.hdr, Instr.wellFormed, e16]

theorem Sys2Proof.Laws.Encoding.invalG (h : Hdr) (a : Reg) (imm : BitVec 16) : Sys2Proof.Laws.Encoding.Statement (.invalG h a imm) := by
  intro hw
  refine ⟨fun r hr => ?_, fun w hk => nomatch hk⟩
  cases hr
  simp_all [decodeRaw, decode29, Raw.form, Raw.hdr, Instr.wellFormed, e16]

theorem Sys2Proof.Laws.Encoding.lda (h : Hdr) (sp : Space) (w : Width) (dst : Reg) (a : Reg) (tok : Reg) : Sys2Proof.Laws.Encoding.Statement (.lda h sp w dst a tok) := by
  intro hw
  refine ⟨fun r hr => ?_, fun w hk => nomatch hk⟩
  cases hr
  cases sp <;> cases w <;> simp_all [decodeRaw, decode2B, Raw.form, Raw.hdr, Instr.wellFormed, spCode, widthCode, wide, widthBytes]

theorem Sys2Proof.Laws.Encoding.sopenLd (h : Hdr) (slot : BitVec 3) (rec : Reg) (coord : Reg) : Sys2Proof.Laws.Encoding.Statement (.sopenLd h slot rec coord) := by
  intro hw
  refine ⟨fun r hr => ?_, fun w hk => nomatch hk⟩
  cases hr
  simp_all [decodeRaw, decode2A, Raw.form, Raw.hdr, Instr.wellFormed, small3]

theorem Sys2Proof.Laws.Encoding.sopenSt (h : Hdr) (slot : BitVec 3) (rec : Reg) (coord : Reg) : Sys2Proof.Laws.Encoding.Statement (.sopenSt h slot rec coord) := by
  intro hw
  refine ⟨fun r hr => ?_, fun w hk => nomatch hk⟩
  cases hr
  simp_all [decodeRaw, decode2A, Raw.form, Raw.hdr, Instr.wellFormed, small3]

theorem Sys2Proof.Laws.Encoding.sclose (h : Hdr) (slot : BitVec 3) : Sys2Proof.Laws.Encoding.Statement (.sclose h slot) := by
  intro hw
  refine ⟨fun r hr => ?_, fun w hk => nomatch hk⟩
  cases hr
  simp_all [decodeRaw, decode2A, Raw.form, Raw.hdr, Instr.wellFormed, small3]

theorem Sys2Proof.Laws.Encoding.sld (h : Hdr) (w : Width) (dst : Reg) (slot : BitVec 3) : Sys2Proof.Laws.Encoding.Statement (.sld h w dst slot) := by
  intro hw
  refine ⟨fun r hr => ?_, fun w hk => nomatch hk⟩
  cases hr
  cases w <;> simp_all [decodeRaw, decode2B, Raw.form, Raw.hdr, Instr.wellFormed, widthCode, wide, widthBytes, small3]

theorem Sys2Proof.Laws.Encoding.sst (h : Hdr) (w : Width) (slot : BitVec 3) (a : Reg) : Sys2Proof.Laws.Encoding.Statement (.sst h w slot a) := by
  intro hw
  refine ⟨fun r hr => ?_, fun w hk => nomatch hk⟩
  cases hr
  cases w <;> simp_all [decodeRaw, decode2B, Raw.form, Raw.hdr, Instr.wellFormed, widthCode, wide, widthBytes, small3]

theorem Sys2Proof.Laws.Encoding.sstat (h : Hdr) (dst : Reg) (slot : BitVec 3) : Sys2Proof.Laws.Encoding.Statement (.sstat h dst slot) := by
  intro hw
  refine ⟨fun r hr => ?_, fun w hk => nomatch hk⟩
  cases hr
  simp_all [decodeRaw, decode2B, Raw.form, Raw.hdr, Instr.wellFormed, small3]

theorem Sys2Proof.Laws.Encoding.sstatStall (h : Hdr) (dst : Reg) (slot : BitVec 3) : Sys2Proof.Laws.Encoding.Statement (.sstatStall h dst slot) := by
  intro hw
  refine ⟨fun r hr => ?_, fun w hk => nomatch hk⟩
  cases hr
  simp_all [decodeRaw, decode2B, Raw.form, Raw.hdr, Instr.wellFormed, small3]

theorem Sys2Proof.Laws.Encoding.sstatPoison (h : Hdr) (dst : Reg) (slot : BitVec 3) : Sys2Proof.Laws.Encoding.Statement (.sstatPoison h dst slot) := by
  intro hw
  refine ⟨fun r hr => ?_, fun w hk => nomatch hk⟩
  cases hr
  simp_all [decodeRaw, decode2B, Raw.form, Raw.hdr, Instr.wellFormed, small3]

theorem Sys2Proof.Laws.Encoding.bankmode (h : Hdr) (dst : Reg) (a : Reg) (b : Reg) : Sys2Proof.Laws.Encoding.Statement (.bankmode h dst a b) := by
  intro hw
  refine ⟨fun r hr => ?_, fun w hk => nomatch hk⟩
  cases hr
  simp_all [decodeRaw, decode2C, Raw.form, Raw.hdr, Instr.wellFormed]

theorem Sys2Proof.Laws.Encoding.bankq (h : Hdr) (dst : Reg) (a : Reg) (b : Reg) : Sys2Proof.Laws.Encoding.Statement (.bankq h dst a b) := by
  intro hw
  refine ⟨fun r hr => ?_, fun w hk => nomatch hk⟩
  cases hr
  simp_all [decodeRaw, decode2C, Raw.form, Raw.hdr, Instr.wellFormed]

theorem Sys2Proof.Laws.Encoding.ldaq (h : Hdr) (sc : BitVec 4) (sp : Space) (w64 : Bool) (dst : Reg) (a : Reg) : Sys2Proof.Laws.Encoding.Statement (.ldaq h sc sp w64 dst a) := by
  intro hw
  refine ⟨fun r hr => ?_, fun w hk => nomatch hk⟩
  cases hr
  cases sp <;> cases w64 <;> simp_all [decodeRaw, decode30, Raw.control, Raw.form, Raw.hdr, Instr.wellFormed, spCode, control, small4, minor0]

theorem Sys2Proof.Laws.Encoding.strl (h : Hdr) (sc : BitVec 4) (sp : Space) (w64 : Bool) (a : Reg) (b : Reg) : Sys2Proof.Laws.Encoding.Statement (.strl h sc sp w64 a b) := by
  intro hw
  refine ⟨fun r hr => ?_, fun w hk => nomatch hk⟩
  cases hr
  cases sp <;> cases w64 <;> simp_all [decodeRaw, decode30, Raw.control, Raw.form, Raw.hdr, Instr.wellFormed, spCode, control, small4, minorHi 16 sc, minorLo 16 sc]

theorem Sys2Proof.Laws.Encoding.atomAdd (h : Hdr) (sc : BitVec 4) (sp : Space) (w64 : Bool) (dst : Reg) (a : Reg) (b : Reg) : Sys2Proof.Laws.Encoding.Statement (.atomAdd h sc sp w64 dst a b) := by
  intro hw
  refine ⟨fun r hr => ?_, fun w hk => nomatch hk⟩
  cases hr
  cases sp <;> cases w64 <;> simp_all [decodeRaw, decode30, Raw.control, Raw.form, Raw.hdr, Instr.wellFormed, spCode, control, small4, minorHi 32 sc, minorLo 32 sc]

theorem Sys2Proof.Laws.Encoding.atomAddF32 (h : Hdr) (sc : BitVec 4) (sp : Space) (dst : Reg) (a : Reg) (b : Reg) : Sys2Proof.Laws.Encoding.Statement (.atomAddF32 h sc sp dst a b) := by
  intro hw
  refine ⟨fun r hr => ?_, fun w hk => nomatch hk⟩
  cases hr
  cases sp <;> simp_all [decodeRaw, decode30, Raw.control, Raw.form, Raw.hdr, Instr.wellFormed, spCode, control, small4, minorHi 48 sc, minorLo 48 sc]

theorem Sys2Proof.Laws.Encoding.atomMin (h : Hdr) (ty : IntTy) (sc : BitVec 4) (sp : Space) (dst : Reg) (a : Reg) (b : Reg) : Sys2Proof.Laws.Encoding.Statement (.atomMin h ty sc sp dst a b) := by
  intro hw
  refine ⟨fun r hr => ?_, fun w hk => nomatch hk⟩
  cases hr
  cases ty
  · cases sp <;> simp_all [decodeRaw, decode30, Raw.control, Raw.form, Raw.hdr, Instr.wellFormed, tyCode, spCode, control, small4, minorHi 64 sc, minorLo 64 sc]
  · cases sp <;> simp_all [decodeRaw, decode30, Raw.control, Raw.form, Raw.hdr, Instr.wellFormed, tyCode, spCode, control, small4, minorHi 80 sc, minorLo 80 sc]

theorem Sys2Proof.Laws.Encoding.atomMax (h : Hdr) (ty : IntTy) (sc : BitVec 4) (sp : Space) (dst : Reg) (a : Reg) (b : Reg) : Sys2Proof.Laws.Encoding.Statement (.atomMax h ty sc sp dst a b) := by
  intro hw
  refine ⟨fun r hr => ?_, fun w hk => nomatch hk⟩
  cases hr
  cases ty
  · cases sp <;> simp_all [decodeRaw, decode30, Raw.control, Raw.form, Raw.hdr, Instr.wellFormed, tyCode, spCode, control, small4, minorHi 96 sc, minorLo 96 sc]
  · cases sp <;> simp_all [decodeRaw, decode30, Raw.control, Raw.form, Raw.hdr, Instr.wellFormed, tyCode, spCode, control, small4, minorHi 112 sc, minorLo 112 sc]

theorem Sys2Proof.Laws.Encoding.atomAnd (h : Hdr) (sc : BitVec 4) (sp : Space) (w64 : Bool) (dst : Reg) (a : Reg) (b : Reg) : Sys2Proof.Laws.Encoding.Statement (.atomAnd h sc sp w64 dst a b) := by
  intro hw
  refine ⟨fun r hr => ?_, fun w hk => nomatch hk⟩
  cases hr
  cases sp <;> cases w64 <;> simp_all [decodeRaw, decode30, Raw.control, Raw.form, Raw.hdr, Instr.wellFormed, spCode, control, small4, minorHi 128 sc, minorLo 128 sc]

theorem Sys2Proof.Laws.Encoding.atomOr (h : Hdr) (sc : BitVec 4) (sp : Space) (w64 : Bool) (dst : Reg) (a : Reg) (b : Reg) : Sys2Proof.Laws.Encoding.Statement (.atomOr h sc sp w64 dst a b) := by
  intro hw
  refine ⟨fun r hr => ?_, fun w hk => nomatch hk⟩
  cases hr
  cases sp <;> cases w64 <;> simp_all [decodeRaw, decode30, Raw.control, Raw.form, Raw.hdr, Instr.wellFormed, spCode, control, small4, minorHi 144 sc, minorLo 144 sc]

theorem Sys2Proof.Laws.Encoding.atomXor (h : Hdr) (sc : BitVec 4) (sp : Space) (w64 : Bool) (dst : Reg) (a : Reg) (b : Reg) : Sys2Proof.Laws.Encoding.Statement (.atomXor h sc sp w64 dst a b) := by
  intro hw
  refine ⟨fun r hr => ?_, fun w hk => nomatch hk⟩
  cases hr
  cases sp <;> cases w64 <;> simp_all [decodeRaw, decode30, Raw.control, Raw.form, Raw.hdr, Instr.wellFormed, spCode, control, small4, minorHi 160 sc, minorLo 160 sc]

theorem Sys2Proof.Laws.Encoding.atomExch (h : Hdr) (sc : BitVec 4) (sp : Space) (w64 : Bool) (dst : Reg) (a : Reg) (b : Reg) : Sys2Proof.Laws.Encoding.Statement (.atomExch h sc sp w64 dst a b) := by
  intro hw
  refine ⟨fun r hr => ?_, fun w hk => nomatch hk⟩
  cases hr
  cases sp <;> cases w64 <;> simp_all [decodeRaw, decode30, Raw.control, Raw.form, Raw.hdr, Instr.wellFormed, spCode, control, small4, minorHi 176 sc, minorLo 176 sc]

theorem Sys2Proof.Laws.Encoding.atomCas (h : Hdr) (sc : BitVec 4) (sp : Space) (w64 : Bool) (dst : Reg) (a : Reg) (b : Reg) : Sys2Proof.Laws.Encoding.Statement (.atomCas h sc sp w64 dst a b) := by
  intro hw
  refine ⟨fun r hr => ?_, fun w hk => nomatch hk⟩
  cases hr
  cases sp <;> cases w64 <;> simp_all [decodeRaw, decode30, Raw.control, Raw.form, Raw.hdr, Instr.wellFormed, spCode, control, small4, minorHi 192 sc, minorLo 192 sc]

theorem Sys2Proof.Laws.Encoding.atomInc (h : Hdr) (sc : BitVec 4) (sp : Space) (dst : Reg) (a : Reg) (b : Reg) : Sys2Proof.Laws.Encoding.Statement (.atomInc h sc sp dst a b) := by
  intro hw
  refine ⟨fun r hr => ?_, fun w hk => nomatch hk⟩
  cases hr
  cases sp <;> simp_all [decodeRaw, decode30, Raw.control, Raw.form, Raw.hdr, Instr.wellFormed, spCode, control, small4, minorHi 208 sc, minorLo 208 sc]

theorem Sys2Proof.Laws.Encoding.redAdd (h : Hdr) (sc : BitVec 4) (sp : Space) (w64 : Bool) (a : Reg) (b : Reg) : Sys2Proof.Laws.Encoding.Statement (.redAdd h sc sp w64 a b) := by
  intro hw
  refine ⟨fun r hr => ?_, fun w hk => nomatch hk⟩
  cases hr
  cases sp <;> cases w64 <;> simp_all [decodeRaw, decode31, Raw.control, Raw.form, Raw.hdr, Instr.wellFormed, spCode, control, small4, minorHi 32 sc, minorLo 32 sc]

theorem Sys2Proof.Laws.Encoding.redAddF32 (h : Hdr) (sc : BitVec 4) (sp : Space) (a : Reg) (b : Reg) : Sys2Proof.Laws.Encoding.Statement (.redAddF32 h sc sp a b) := by
  intro hw
  refine ⟨fun r hr => ?_, fun w hk => nomatch hk⟩
  cases hr
  cases sp <;> simp_all [decodeRaw, decode31, Raw.control, Raw.form, Raw.hdr, Instr.wellFormed, spCode, control, small4, minorHi 48 sc, minorLo 48 sc]

theorem Sys2Proof.Laws.Encoding.redMin (h : Hdr) (ty : IntTy) (sc : BitVec 4) (sp : Space) (a : Reg) (b : Reg) : Sys2Proof.Laws.Encoding.Statement (.redMin h ty sc sp a b) := by
  intro hw
  refine ⟨fun r hr => ?_, fun w hk => nomatch hk⟩
  cases hr
  cases ty
  · cases sp <;> simp_all [decodeRaw, decode31, Raw.control, Raw.form, Raw.hdr, Instr.wellFormed, tyCode, spCode, control, small4, minorHi 64 sc, minorLo 64 sc]
  · cases sp <;> simp_all [decodeRaw, decode31, Raw.control, Raw.form, Raw.hdr, Instr.wellFormed, tyCode, spCode, control, small4, minorHi 80 sc, minorLo 80 sc]

theorem Sys2Proof.Laws.Encoding.redMax (h : Hdr) (ty : IntTy) (sc : BitVec 4) (sp : Space) (a : Reg) (b : Reg) : Sys2Proof.Laws.Encoding.Statement (.redMax h ty sc sp a b) := by
  intro hw
  refine ⟨fun r hr => ?_, fun w hk => nomatch hk⟩
  cases hr
  cases ty
  · cases sp <;> simp_all [decodeRaw, decode31, Raw.control, Raw.form, Raw.hdr, Instr.wellFormed, tyCode, spCode, control, small4, minorHi 96 sc, minorLo 96 sc]
  · cases sp <;> simp_all [decodeRaw, decode31, Raw.control, Raw.form, Raw.hdr, Instr.wellFormed, tyCode, spCode, control, small4, minorHi 112 sc, minorLo 112 sc]

theorem Sys2Proof.Laws.Encoding.redAnd (h : Hdr) (sc : BitVec 4) (sp : Space) (w64 : Bool) (a : Reg) (b : Reg) : Sys2Proof.Laws.Encoding.Statement (.redAnd h sc sp w64 a b) := by
  intro hw
  refine ⟨fun r hr => ?_, fun w hk => nomatch hk⟩
  cases hr
  cases sp <;> cases w64 <;> simp_all [decodeRaw, decode31, Raw.control, Raw.form, Raw.hdr, Instr.wellFormed, spCode, control, small4, minorHi 128 sc, minorLo 128 sc]

theorem Sys2Proof.Laws.Encoding.redOr (h : Hdr) (sc : BitVec 4) (sp : Space) (w64 : Bool) (a : Reg) (b : Reg) : Sys2Proof.Laws.Encoding.Statement (.redOr h sc sp w64 a b) := by
  intro hw
  refine ⟨fun r hr => ?_, fun w hk => nomatch hk⟩
  cases hr
  cases sp <;> cases w64 <;> simp_all [decodeRaw, decode31, Raw.control, Raw.form, Raw.hdr, Instr.wellFormed, spCode, control, small4, minorHi 144 sc, minorLo 144 sc]

theorem Sys2Proof.Laws.Encoding.redXor (h : Hdr) (sc : BitVec 4) (sp : Space) (w64 : Bool) (a : Reg) (b : Reg) : Sys2Proof.Laws.Encoding.Statement (.redXor h sc sp w64 a b) := by
  intro hw
  refine ⟨fun r hr => ?_, fun w hk => nomatch hk⟩
  cases hr
  cases sp <;> cases w64 <;> simp_all [decodeRaw, decode31, Raw.control, Raw.form, Raw.hdr, Instr.wellFormed, spCode, control, small4, minorHi 160 sc, minorLo 160 sc]

theorem Sys2Proof.Laws.Encoding.fenceRel (h : Hdr) (sc : BitVec 4) : Sys2Proof.Laws.Encoding.Statement (.fenceRel h sc) := by
  intro hw
  refine ⟨fun r hr => ?_, fun w hk => nomatch hk⟩
  cases hr
  simp_all [decodeRaw, decode32, Raw.form, Raw.hdr, Instr.wellFormed, small4, minorHi 16 sc, minorLo 16 sc]

theorem Sys2Proof.Laws.Encoding.fenceAcq (h : Hdr) (sc : BitVec 4) : Sys2Proof.Laws.Encoding.Statement (.fenceAcq h sc) := by
  intro hw
  refine ⟨fun r hr => ?_, fun w hk => nomatch hk⟩
  cases hr
  simp_all [decodeRaw, decode32, Raw.form, Raw.hdr, Instr.wellFormed, small4, minorHi 32 sc, minorLo 32 sc]

theorem Sys2Proof.Laws.Encoding.fenceAr (h : Hdr) (sc : BitVec 4) : Sys2Proof.Laws.Encoding.Statement (.fenceAr h sc) := by
  intro hw
  refine ⟨fun r hr => ?_, fun w hk => nomatch hk⟩
  cases hr
  simp_all [decodeRaw, decode32, Raw.form, Raw.hdr, Instr.wellFormed, small4, minorHi 48 sc, minorLo 48 sc]

theorem Sys2Proof.Laws.Encoding.binit (h : Hdr) (bar : BitVec 4) (a : Reg) : Sys2Proof.Laws.Encoding.Statement (.binit h bar a) := by
  intro hw
  refine ⟨fun r hr => ?_, fun w hk => nomatch hk⟩
  cases hr
  simp_all [decodeRaw, decode36, Raw.form, Raw.hdr, Instr.wellFormed, small4]

theorem Sys2Proof.Laws.Encoding.barv (h : Hdr) (bar : BitVec 4) : Sys2Proof.Laws.Encoding.Statement (.barv h bar) := by
  intro hw
  refine ⟨fun r hr => ?_, fun w hk => nomatch hk⟩
  cases hr
  simp_all [decodeRaw, decode36, Raw.form, Raw.hdr, Instr.wellFormed, small4]

theorem Sys2Proof.Laws.Encoding.barvExp (h : Hdr) (bar : BitVec 4) (a : Reg) : Sys2Proof.Laws.Encoding.Statement (.barvExp h bar a) := by
  intro hw
  refine ⟨fun r hr => ?_, fun w hk => nomatch hk⟩
  cases hr
  simp_all [decodeRaw, decode36, Raw.form, Raw.hdr, Instr.wellFormed, small4]

theorem Sys2Proof.Laws.Encoding.bexp (h : Hdr) (bar : BitVec 4) (a : Reg) : Sys2Proof.Laws.Encoding.Statement (.bexp h bar a) := by
  intro hw
  refine ⟨fun r hr => ?_, fun w hk => nomatch hk⟩
  cases hr
  simp_all [decodeRaw, decode36, Raw.form, Raw.hdr, Instr.wellFormed, small4]

theorem Sys2Proof.Laws.Encoding.bdrop (h : Hdr) (bar : BitVec 4) : Sys2Proof.Laws.Encoding.Statement (.bdrop h bar) := by
  intro hw
  refine ⟨fun r hr => ?_, fun w hk => nomatch hk⟩
  cases hr
  simp_all [decodeRaw, decode36, Raw.form, Raw.hdr, Instr.wellFormed, small4]

theorem Sys2Proof.Laws.Encoding.bwait (h : Hdr) (dst : Reg) (bar : BitVec 4) (a : Reg) : Sys2Proof.Laws.Encoding.Statement (.bwait h dst bar a) := by
  intro hw
  refine ⟨fun r hr => ?_, fun w hk => nomatch hk⟩
  cases hr
  simp_all [decodeRaw, decode36, Raw.form, Raw.hdr, Instr.wellFormed, small4]

theorem Sys2Proof.Laws.Encoding.btest (h : Hdr) (dst : Reg) (bar : BitVec 4) : Sys2Proof.Laws.Encoding.Statement (.btest h dst bar) := by
  intro hw
  refine ⟨fun r hr => ?_, fun w hk => nomatch hk⟩
  cases hr
  simp_all [decodeRaw, decode36, Raw.form, Raw.hdr, Instr.wellFormed, small4]

theorem Sys2Proof.Laws.Encoding.bsync (h : Hdr) (bar : BitVec 4) : Sys2Proof.Laws.Encoding.Statement (.bsync h bar) := by
  intro hw
  refine ⟨fun r hr => ?_, fun w hk => nomatch hk⟩
  cases hr
  simp_all [decodeRaw, decode36, Raw.form, Raw.hdr, Instr.wellFormed, small4]

theorem Sys2Proof.Laws.Encoding.qmovPush (h : Hdr) (q : BitVec 3) (a : Reg) : Sys2Proof.Laws.Encoding.Statement (.qmovPush h q a) := by
  intro hw
  refine ⟨fun r hr => ?_, fun w hk => nomatch hk⟩
  cases hr
  simp_all [decodeRaw, decode37, Raw.form, Raw.hdr, Instr.wellFormed, small3]

theorem Sys2Proof.Laws.Encoding.qmovPop (h : Hdr) (dst : Reg) (q : BitVec 3) : Sys2Proof.Laws.Encoding.Statement (.qmovPop h dst q) := by
  intro hw
  refine ⟨fun r hr => ?_, fun w hk => nomatch hk⟩
  cases hr
  simp_all [decodeRaw, decode37, Raw.form, Raw.hdr, Instr.wellFormed, small3]

theorem Sys2Proof.Laws.Encoding.qmovPeek (h : Hdr) (dst : Reg) (q : BitVec 3) : Sys2Proof.Laws.Encoding.Statement (.qmovPeek h dst q) := by
  intro hw
  refine ⟨fun r hr => ?_, fun w hk => nomatch hk⟩
  cases hr
  simp_all [decodeRaw, decode37, Raw.form, Raw.hdr, Instr.wellFormed, small3]

theorem Sys2Proof.Laws.Encoding.qmovStat (h : Hdr) (dst : Reg) (q : BitVec 3) : Sys2Proof.Laws.Encoding.Statement (.qmovStat h dst q) := by
  intro hw
  refine ⟨fun r hr => ?_, fun w hk => nomatch hk⟩
  cases hr
  simp_all [decodeRaw, decode37, Raw.form, Raw.hdr, Instr.wellFormed, small3]

theorem Sys2Proof.Laws.Encoding.jadd (h : Hdr) (sc : BitVec 4) (sp : Space) (a : Reg) (b : Reg) : Sys2Proof.Laws.Encoding.Statement (.jadd h sc sp a b) := by
  intro hw
  refine ⟨fun r hr => ?_, fun w hk => nomatch hk⟩
  cases hr
  cases sp <;> simp_all [decodeRaw, decode38, Raw.control, Raw.form, Raw.hdr, Instr.wellFormed, spCode, control, small4, minorHi 16 sc, minorLo 16 sc]

theorem Sys2Proof.Laws.Encoding.jarr (h : Hdr) (sc : BitVec 4) (sp : Space) (a : Reg) : Sys2Proof.Laws.Encoding.Statement (.jarr h sc sp a) := by
  intro hw
  refine ⟨fun r hr => ?_, fun w hk => nomatch hk⟩
  cases hr
  cases sp <;> simp_all [decodeRaw, decode38, Raw.control, Raw.form, Raw.hdr, Instr.wellFormed, spCode, control, small4, minorHi 32 sc, minorLo 32 sc]

theorem Sys2Proof.Laws.Encoding.jwait (h : Hdr) (sc : BitVec 4) (sp : Space) (a : Reg) : Sys2Proof.Laws.Encoding.Statement (.jwait h sc sp a) := by
  intro hw
  refine ⟨fun r hr => ?_, fun w hk => nomatch hk⟩
  cases hr
  cases sp <;> simp_all [decodeRaw, decode38, Raw.control, Raw.form, Raw.hdr, Instr.wellFormed, spCode, control, small4, minorHi 48 sc, minorLo 48 sc]

theorem Sys2Proof.Laws.Encoding.jpoll (h : Hdr) (sc : BitVec 4) (sp : Space) (dst : Reg) (a : Reg) : Sys2Proof.Laws.Encoding.Statement (.jpoll h sc sp dst a) := by
  intro hw
  refine ⟨fun r hr => ?_, fun w hk => nomatch hk⟩
  cases hr
  cases sp <;> simp_all [decodeRaw, decode38, Raw.control, Raw.form, Raw.hdr, Instr.wellFormed, spCode, control, small4, minorHi 64 sc, minorLo 64 sc]

theorem Sys2Proof.Laws.Encoding.cpyG2p (h : Hdr) (bar : BitVec 4) (rec : Reg) (coord : Reg) (follow : Reg) : Sys2Proof.Laws.Encoding.Statement (.cpyG2p h bar rec coord follow) := by
  intro hw
  refine ⟨fun r hr => ?_, fun w hk => nomatch hk⟩
  cases hr
  simp_all [decodeRaw, decode3A, Raw.form, Raw.hdr, Instr.wellFormed, small4]

theorem Sys2Proof.Laws.Encoding.cpyP2g (h : Hdr) (bar : BitVec 4) (rec : Reg) (coord : Reg) (follow : Reg) : Sys2Proof.Laws.Encoding.Statement (.cpyP2g h bar rec coord follow) := by
  intro hw
  refine ⟨fun r hr => ?_, fun w hk => nomatch hk⟩
  cases hr
  simp_all [decodeRaw, decode3A, Raw.form, Raw.hdr, Instr.wellFormed, small4]

theorem Sys2Proof.Laws.Encoding.cpyC2p (h : Hdr) (bar : BitVec 4) (rec : Reg) (coord : Reg) (follow : Reg) : Sys2Proof.Laws.Encoding.Statement (.cpyC2p h bar rec coord follow) := by
  intro hw
  refine ⟨fun r hr => ?_, fun w hk => nomatch hk⟩
  cases hr
  simp_all [decodeRaw, decode3A, Raw.form, Raw.hdr, Instr.wellFormed, small4]

theorem Sys2Proof.Laws.Encoding.cpyP2c (h : Hdr) (bar : BitVec 4) (rec : Reg) (coord : Reg) (follow : Reg) : Sys2Proof.Laws.Encoding.Statement (.cpyP2c h bar rec coord follow) := by
  intro hw
  refine ⟨fun r hr => ?_, fun w hk => nomatch hk⟩
  cases hr
  simp_all [decodeRaw, decode3A, Raw.form, Raw.hdr, Instr.wellFormed, small4]

theorem Sys2Proof.Laws.Encoding.cpyG2c (h : Hdr) (bar : BitVec 4) (rec : Reg) (coord : Reg) (follow : Reg) : Sys2Proof.Laws.Encoding.Statement (.cpyG2c h bar rec coord follow) := by
  intro hw
  refine ⟨fun r hr => ?_, fun w hk => nomatch hk⟩
  cases hr
  simp_all [decodeRaw, decode3A, Raw.form, Raw.hdr, Instr.wellFormed, small4]

theorem Sys2Proof.Laws.Encoding.cpylG (h : Hdr) (bar : BitVec 4) (va : Reg) (vd : Reg) : Sys2Proof.Laws.Encoding.Statement (.cpylG h bar va vd) := by
  intro hw
  refine ⟨fun r hr => ?_, fun w hk => nomatch hk⟩
  cases hr
  simp_all [decodeRaw, decode3A, Raw.form, Raw.hdr, Instr.wellFormed, small4]

theorem Sys2Proof.Laws.Encoding.drnSt (h : Hdr) (bar : BitVec 4) (rec : Reg) (coord : Reg) : Sys2Proof.Laws.Encoding.Statement (.drnSt h bar rec coord) := by
  intro hw
  refine ⟨fun r hr => ?_, fun w hk => nomatch hk⟩
  cases hr
  simp_all [decodeRaw, decode3A, Raw.form, Raw.hdr, Instr.wellFormed, small4]

theorem Sys2Proof.Laws.Encoding.drnAdd (h : Hdr) (bar : BitVec 4) (rec : Reg) (coord : Reg) : Sys2Proof.Laws.Encoding.Statement (.drnAdd h bar rec coord) := by
  intro hw
  refine ⟨fun r hr => ?_, fun w hk => nomatch hk⟩
  cases hr
  simp_all [decodeRaw, decode3A, Raw.form, Raw.hdr, Instr.wellFormed, small4]

theorem Sys2Proof.Laws.Encoding.cperr (h : Hdr) (dst : Reg) : Sys2Proof.Laws.Encoding.Statement (.cperr h dst) := by
  intro hw
  refine ⟨fun r hr => ?_, fun w hk => nomatch hk⟩
  cases hr
  simp_all [decodeRaw, decode3A, Raw.form, Raw.hdr, Instr.wellFormed]

theorem Sys2Proof.Laws.Encoding.btalloc (h : Hdr) (dst : Reg) (a : Reg) (b : Reg) (c : Reg) : Sys2Proof.Laws.Encoding.Statement (.btalloc h dst a b c) := by
  intro hw
  refine ⟨fun r hr => ?_, fun w hk => nomatch hk⟩
  cases hr
  simp_all [decodeRaw, decode3B, Raw.form, Raw.hdr, Instr.wellFormed]

theorem Sys2Proof.Laws.Encoding.btshare (h : Hdr) (dst : Reg) (a : Reg) (b : Reg) (c : Reg) : Sys2Proof.Laws.Encoding.Statement (.btshare h dst a b c) := by
  intro hw
  refine ⟨fun r hr => ?_, fun w hk => nomatch hk⟩
  cases hr
  simp_all [decodeRaw, decode3B, Raw.form, Raw.hdr, Instr.wellFormed]

theorem Sys2Proof.Laws.Encoding.btcow (h : Hdr) (dst : Reg) (a : Reg) (b : Reg) : Sys2Proof.Laws.Encoding.Statement (.btcow h dst a b) := by
  intro hw
  refine ⟨fun r hr => ?_, fun w hk => nomatch hk⟩
  cases hr
  simp_all [decodeRaw, decode3B, Raw.form, Raw.hdr, Instr.wellFormed]

theorem Sys2Proof.Laws.Encoding.btfree (h : Hdr) (dst : Reg) (a : Reg) (b : Reg) : Sys2Proof.Laws.Encoding.Statement (.btfree h dst a b) := by
  intro hw
  refine ⟨fun r hr => ?_, fun w hk => nomatch hk⟩
  cases hr
  simp_all [decodeRaw, decode3B, Raw.form, Raw.hdr, Instr.wellFormed]

theorem Sys2Proof.Laws.Encoding.btmove (h : Hdr) (dst : Reg) (a : Reg) (b : Reg) (c : Reg) : Sys2Proof.Laws.Encoding.Statement (.btmove h dst a b c) := by
  intro hw
  refine ⟨fun r hr => ?_, fun w hk => nomatch hk⟩
  cases hr
  simp_all [decodeRaw, decode3B, Raw.form, Raw.hdr, Instr.wellFormed]

theorem Sys2Proof.Laws.Encoding.btrd (h : Hdr) (dst : Reg) (a : Reg) (b : Reg) : Sys2Proof.Laws.Encoding.Statement (.btrd h dst a b) := by
  intro hw
  refine ⟨fun r hr => ?_, fun w hk => nomatch hk⟩
  cases hr
  simp_all [decodeRaw, decode3B, Raw.form, Raw.hdr, Instr.wellFormed]

theorem Sys2Proof.Laws.Encoding.btstat (h : Hdr) (dst : Reg) (a : Reg) : Sys2Proof.Laws.Encoding.Statement (.btstat h dst a) := by
  intro hw
  refine ⟨fun r hr => ?_, fun w hk => nomatch hk⟩
  cases hr
  simp_all [decodeRaw, decode3B, Raw.form, Raw.hdr, Instr.wellFormed]

theorem Sys2Proof.Laws.Encoding.mma (h : Hdr) (af : ActFmt) (wf : WgtFmt) (rec : Reg) (coord : Reg) : Sys2Proof.Laws.Encoding.Statement (.mma h af wf rec coord) := by
  intro hw
  refine ⟨fun r hr => ?_, fun w hk => nomatch hk⟩
  cases hr
  cases af <;> cases wf <;> simp_all [decodeRaw, decode3C, Raw.form, Raw.hdr, Instr.wellFormed, actCode, wgtCode]

theorem Sys2Proof.Laws.Encoding.mmaSp (h : Hdr) (af : ActFmt) (wf : WgtFmt) (rec : Reg) (coord : Reg) : Sys2Proof.Laws.Encoding.Statement (.mmaSp h af wf rec coord) := by
  intro hw
  refine ⟨fun r hr => ?_, fun w hk => nomatch hk⟩
  cases hr
  cases af <;> cases wf <;> simp_all [decodeRaw, decode3C, Raw.form, Raw.hdr, Instr.wellFormed, actCode, wgtCode]

theorem Sys2Proof.Laws.Encoding.mlw (h : Hdr) (wf : WgtFmt) (rec : Reg) (coord : Reg) : Sys2Proof.Laws.Encoding.Statement (.mlw h wf rec coord) := by
  intro hw
  refine ⟨fun r hr => ?_, fun w hk => nomatch hk⟩
  cases hr
  cases wf <;> simp_all [decodeRaw, decode3C, Raw.form, Raw.hdr, Instr.wellFormed, wgtCode]

theorem Sys2Proof.Laws.Encoding.mlwSp (h : Hdr) (wf : WgtFmt) (rec : Reg) (coord : Reg) : Sys2Proof.Laws.Encoding.Statement (.mlwSp h wf rec coord) := by
  intro hw
  refine ⟨fun r hr => ?_, fun w hk => nomatch hk⟩
  cases hr
  cases wf <;> simp_all [decodeRaw, decode3C, Raw.form, Raw.hdr, Instr.wellFormed, wgtCode]

theorem Sys2Proof.Laws.Encoding.aclr (h : Hdr) (a : Reg) : Sys2Proof.Laws.Encoding.Statement (.aclr h a) := by
  intro hw
  refine ⟨fun r hr => ?_, fun w hk => nomatch hk⟩
  cases hr
  simp_all [decodeRaw, decode3D, Raw.formIf, Raw.form, Raw.hdr, Instr.wellFormed]

theorem Sys2Proof.Laws.Encoding.ard (h : Hdr) (dst : Reg) (a : Reg) (b : Reg) : Sys2Proof.Laws.Encoding.Statement (.ard h dst a b) := by
  intro hw
  refine ⟨fun r hr => ?_, fun w hk => nomatch hk⟩
  cases hr
  simp_all [decodeRaw, decode3D, Raw.formIf, Raw.form, Raw.hdr, Instr.wellFormed]

theorem Sys2Proof.Laws.Encoding.awr (h : Hdr) (a : Reg) (b : Reg) (c : Reg) : Sys2Proof.Laws.Encoding.Statement (.awr h a b c) := by
  intro hw
  refine ⟨fun r hr => ?_, fun w hk => nomatch hk⟩
  cases hr
  simp_all [decodeRaw, decode3D, Raw.formIf, Raw.form, Raw.hdr, Instr.wellFormed]

theorem Sys2Proof.Laws.Encoding.mstat (h : Hdr) (dst : Reg) : Sys2Proof.Laws.Encoding.Statement (.mstat h dst) := by
  intro hw
  refine ⟨fun r hr => ?_, fun w hk => nomatch hk⟩
  cases hr
  simp_all [decodeRaw, decode3D, Raw.formIf, Raw.form, Raw.hdr, Instr.wellFormed]

theorem Sys2Proof.Laws.Encoding.mstatClr (h : Hdr) (dst : Reg) : Sys2Proof.Laws.Encoding.Statement (.mstatClr h dst) := by
  intro hw
  refine ⟨fun r hr => ?_, fun w hk => nomatch hk⟩
  cases hr
  simp_all [decodeRaw, decode3D, Raw.formIf, Raw.form, Raw.hdr, Instr.wellFormed]

theorem Sys2Proof.Laws.Encoding.sacc (h : Hdr) (init : Bool) (sf : ScaleFmt) (mode : SaccMode) (a : Reg) (b : Reg) (c : Reg) : Sys2Proof.Laws.Encoding.Statement (.sacc h init sf mode a b c) := by
  intro hw
  refine ⟨fun r hr => ?_, fun w hk => nomatch hk⟩
  cases hr
  cases init <;> cases sf <;> cases mode <;> simp_all [decodeRaw, decode3D, Raw.formIf, Raw.form, Raw.hdr, Instr.wellFormed, scaleCode, saccCode]

theorem Sys2Proof.Laws.Encoding.opb (h : Hdr) (a : Reg) : Sys2Proof.Laws.Encoding.Statement (.opb h a) := by
  intro hw
  refine ⟨fun r hr => ?_, fun w hk => nomatch hk⟩
  cases hr
  simp_all [decodeRaw, decode3E, Raw.form, Raw.hdr, Instr.wellFormed]

theorem Sys2Proof.Laws.Encoding.taskend (h : Hdr) : Sys2Proof.Laws.Encoding.Statement (.taskend h) := by
  intro hw
  refine ⟨fun r hr => ?_, fun w hk => nomatch hk⟩
  cases hr
  simp_all [decodeRaw, decode3E, Raw.form, Raw.hdr, Instr.wellFormed]

theorem Sys2Proof.Laws.Encoding.prio (h : Hdr) (a : Reg) : Sys2Proof.Laws.Encoding.Statement (.prio h a) := by
  intro hw
  refine ⟨fun r hr => ?_, fun w hk => nomatch hk⟩
  cases hr
  simp_all [decodeRaw, decode3E, Raw.form, Raw.hdr, Instr.wellFormed]

theorem Sys2Proof.Laws.Encoding.wgq (h : Hdr) (dst : Reg) (a : Reg) : Sys2Proof.Laws.Encoding.Statement (.wgq h dst a) := by
  intro hw
  refine ⟨fun r hr => ?_, fun w hk => nomatch hk⟩
  cases hr
  simp_all [decodeRaw, decode3E, Raw.form, Raw.hdr, Instr.wellFormed]

theorem Sys2Proof.Laws.Encoding.pktst (h : Hdr) (a : Reg) : Sys2Proof.Laws.Encoding.Statement (.pktst h a) := by
  intro hw
  refine ⟨fun r hr => ?_, fun w hk => nomatch hk⟩
  cases hr
  simp_all [decodeRaw, decode3E, Raw.form, Raw.hdr, Instr.wellFormed]

theorem Sys2Proof.Laws.Encoding.srd (h : Hdr) (dst : Reg) (sr : BitVec 16) : Sys2Proof.Laws.Encoding.Statement (.srd h dst sr) := by
  intro hw
  refine ⟨fun r hr => ?_, fun w hk => nomatch hk⟩
  cases hr
  simp_all [decodeRaw, decode3F, Raw.formIf, Raw.form, Raw.hdr, Instr.wellFormed, e16]

theorem Sys2Proof.Laws.Encoding.swr (h : Hdr) (a : Reg) (sr : BitVec 16) : Sys2Proof.Laws.Encoding.Statement (.swr h a sr) := by
  intro hw
  refine ⟨fun r hr => ?_, fun w hk => nomatch hk⟩
  cases hr
  simp_all [decodeRaw, decode3F, Raw.formIf, Raw.form, Raw.hdr, Instr.wellFormed, e16]

theorem Sys2Proof.Laws.Encoding.tret (h : Hdr) : Sys2Proof.Laws.Encoding.Statement (.tret h) := by
  intro hw
  refine ⟨fun r hr => ?_, fun w hk => nomatch hk⟩
  cases hr
  simp_all [decodeRaw, decode3F, Raw.formIf, Raw.form, Raw.hdr, Instr.wellFormed]

theorem Sys2Proof.Laws.Encoding.tretNext (h : Hdr) : Sys2Proof.Laws.Encoding.Statement (.tretNext h) := by
  intro hw
  refine ⟨fun r hr => ?_, fun w hk => nomatch hk⟩
  cases hr
  simp_all [decodeRaw, decode3F, Raw.formIf, Raw.form, Raw.hdr, Instr.wellFormed]

theorem Sys2Proof.Laws.Encoding.brk (h : Hdr) (imm : BitVec 16) : Sys2Proof.Laws.Encoding.Statement (.brk h imm) := by
  intro hw
  refine ⟨fun r hr => ?_, fun w hk => nomatch hk⟩
  cases hr
  simp_all [decodeRaw, decode3F, Raw.formIf, Raw.form, Raw.hdr, Instr.wellFormed, e16]

theorem Sys2Proof.Laws.Encoding.trapi (h : Hdr) (imm : BitVec 16) : Sys2Proof.Laws.Encoding.Statement (.trapi h imm) := by
  intro hw
  refine ⟨fun r hr => ?_, fun w hk => nomatch hk⟩
  cases hr
  simp_all [decodeRaw, decode3F, Raw.formIf, Raw.form, Raw.hdr, Instr.wellFormed, e16]

theorem Sys2Proof.Laws.Encoding.xrd (h : Hdr) (dst : Reg) (n : BitVec 16) : Sys2Proof.Laws.Encoding.Statement (.xrd h dst n) := by
  intro hw
  refine ⟨fun r hr => ?_, fun w hk => nomatch hk⟩
  cases hr
  simp_all [decodeRaw, decode3F, Raw.formIf, Raw.form, Raw.hdr, Instr.wellFormed, e16]

theorem Sys2Proof.Laws.Encoding.xwr (h : Hdr) (a : Reg) (n : BitVec 16) : Sys2Proof.Laws.Encoding.Statement (.xwr h a n) := by
  intro hw
  refine ⟨fun r hr => ?_, fun w hk => nomatch hk⟩
  cases hr
  simp_all [decodeRaw, decode3F, Raw.formIf, Raw.form, Raw.hdr, Instr.wellFormed, e16]

theorem Sys2Proof.Laws.Encoding.cxrd (h : Hdr) (dst : Reg) (item : BitVec 16) : Sys2Proof.Laws.Encoding.Statement (.cxrd h dst item) := by
  intro hw
  refine ⟨fun r hr => ?_, fun w hk => nomatch hk⟩
  cases hr
  simp_all [decodeRaw, decode3F, Raw.formIf, Raw.form, Raw.hdr, Instr.wellFormed, e16]

theorem Sys2Proof.Laws.Encoding.cxwr (h : Hdr) (a : Reg) (item : BitVec 16) : Sys2Proof.Laws.Encoding.Statement (.cxwr h a item) := by
  intro hw
  refine ⟨fun r hr => ?_, fun w hk => nomatch hk⟩
  cases hr
  simp_all [decodeRaw, decode3F, Raw.formIf, Raw.form, Raw.hdr, Instr.wellFormed, e16]

theorem Sys2Proof.Laws.Encoding.pmrd (h : Hdr) (dst : Reg) (a : Reg) : Sys2Proof.Laws.Encoding.Statement (.pmrd h dst a) := by
  intro hw
  refine ⟨fun r hr => ?_, fun w hk => nomatch hk⟩
  cases hr
  simp_all [decodeRaw, decode3F, Raw.formIf, Raw.form, Raw.hdr, Instr.wellFormed]

theorem Sys2Proof.Laws.Encoding.pmrst (h : Hdr) : Sys2Proof.Laws.Encoding.Statement (.pmrst h) := by
  intro hw
  refine ⟨fun r hr => ?_, fun w hk => nomatch hk⟩
  cases hr
  simp_all [decodeRaw, decode3F, Raw.formIf, Raw.form, Raw.hdr, Instr.wellFormed]

theorem Sys2Proof.Laws.Encoding.genwait (h : Hdr) (dst : Reg) (a : Reg) : Sys2Proof.Laws.Encoding.Statement (.genwait h dst a) := by
  intro hw
  refine ⟨fun r hr => ?_, fun w hk => nomatch hk⟩
  cases hr
  simp_all [decodeRaw, decode3F, Raw.formIf, Raw.form, Raw.hdr, Instr.wellFormed]

theorem Sys2Proof.Laws.Encoding.wgabort (h : Hdr) (a : Reg) : Sys2Proof.Laws.Encoding.Statement (.wgabort h a) := by
  intro hw
  refine ⟨fun r hr => ?_, fun w hk => nomatch hk⟩
  cases hr
  simp_all [decodeRaw, decode3F, Raw.formIf, Raw.form, Raw.hdr, Instr.wellFormed]

theorem Sys2Proof.Laws.Encoding.vspawn (rd : XReg) (rs1 : XReg) (rs2 : XReg) (rs3 : XReg) : Sys2Proof.Laws.Encoding.Statement (.vspawn rd rs1 rs2 rs3) := by
  refine fun _ => ⟨nofun, fun w hk => ?_⟩
  cases hk
  exact kudu_vspawn rd rs1 rs2 rs3

theorem Sys2Proof.Laws.Encoding.vjoin (rd : XReg) (rs1 : XReg) : Sys2Proof.Laws.Encoding.Statement (.vjoin rd rs1) := by
  refine fun _ => ⟨nofun, fun w hk => ?_⟩
  cases hk
  exact kudu_vjoin rd rs1

theorem Sys2Proof.Laws.Encoding.vpoll (rd : XReg) (rs1 : XReg) : Sys2Proof.Laws.Encoding.Statement (.vpoll rd rs1) := by
  refine fun _ => ⟨nofun, fun w hk => ?_⟩
  cases hk
  exact kudu_vpoll rd rs1

theorem Sys2Proof.Laws.Encoding.vjadd (rd : XReg) (rs1 : XReg) (rs2 : XReg) : Sys2Proof.Laws.Encoding.Statement (.vjadd rd rs1 rs2) := by
  refine fun _ => ⟨nofun, fun w hk => ?_⟩
  cases hk
  exact kudu_vjadd rd rs1 rs2

theorem Sys2Proof.Laws.Encoding.vqbind (rd : XReg) (rs1 : XReg) (rs2 : XReg) : Sys2Proof.Laws.Encoding.Statement (.vqbind rd rs1 rs2) := by
  refine fun _ => ⟨nofun, fun w hk => ?_⟩
  cases hk
  exact kudu_vqbind rd rs1 rs2

theorem Sys2Proof.Laws.Encoding.vqwait (rd : XReg) : Sys2Proof.Laws.Encoding.Statement (.vqwait rd) := by
  refine fun _ => ⟨nofun, fun w hk => ?_⟩
  cases hk
  exact kudu_vqwait rd

theorem Sys2Proof.Laws.Encoding.spawnCsrAccess (hart : Nat) (csr : CsrName) (write : Bool) (value : DWord) (rd : XReg) : Sys2Proof.Laws.Encoding.Statement (.spawnCsrAccess hart csr write value rd) := by
  exact fun _ => ⟨nofun, nofun⟩

theorem Sys2Proof.Laws.Encoding.trapEntry (w : Nat) (c : CauseInfo) : Sys2Proof.Laws.Encoding.Statement (.trapEntry w c) := by
  exact fun _ => ⟨nofun, nofun⟩

theorem Sys2Proof.Laws.Encoding.fouloReport (w : Nat) (c : CauseInfo) : Sys2Proof.Laws.Encoding.Statement (.fouloReport w c) := by
  exact fun _ => ⟨nofun, nofun⟩

theorem Sys2Proof.Laws.Encoding.fouloResume (w : Nat) : Sys2Proof.Laws.Encoding.Statement (.fouloResume w) := by
  exact fun _ => ⟨nofun, nofun⟩

theorem Sys2Proof.Laws.Encoding.fouloDeliver (w : Nat) : Sys2Proof.Laws.Encoding.Statement (.fouloDeliver w) := by
  exact fun _ => ⟨nofun, nofun⟩

theorem Sys2Proof.Laws.Encoding.fouloSave (w : Nat) : Sys2Proof.Laws.Encoding.Statement (.fouloSave w) := by
  exact fun _ => ⟨nofun, nofun⟩

theorem Sys2Proof.Laws.Encoding.fouloTerminate (w : Nat) : Sys2Proof.Laws.Encoding.Statement (.fouloTerminate w) := by
  exact fun _ => ⟨nofun, nofun⟩

theorem Sys2Proof.Laws.Encoding.fouloKill (w : Nat) : Sys2Proof.Laws.Encoding.Statement (.fouloKill w) := by
  exact fun _ => ⟨nofun, nofun⟩

theorem Sys2Proof.Laws.Encoding.asyncEventDelivery (w : Nat) : Sys2Proof.Laws.Encoding.Statement (.asyncEventDelivery w) := by
  exact fun _ => ⟨nofun, nofun⟩

theorem Sys2Proof.Laws.Encoding.referenceTick (chip : Nat) : Sys2Proof.Laws.Encoding.Statement (.referenceTick chip) := by
  exact fun _ => ⟨nofun, nofun⟩

theorem Sys2Proof.Laws.Encoding.watchdogStall (w : Nat) : Sys2Proof.Laws.Encoding.Statement (.watchdogStall w) := by
  exact fun _ => ⟨nofun, nofun⟩

theorem Sys2Proof.Laws.Encoding.watchdogOperator (g : Nat) : Sys2Proof.Laws.Encoding.Statement (.watchdogOperator g) := by
  exact fun _ => ⟨nofun, nofun⟩

theorem Sys2Proof.Laws.Encoding.resultLanding (w : Nat) (i : Nat) : Sys2Proof.Laws.Encoding.Statement (.resultLanding w i) := by
  exact fun _ => ⟨nofun, nofun⟩

theorem Sys2Proof.Laws.Encoding.ldaLanding (w : Nat) (i : Nat) : Sys2Proof.Laws.Encoding.Statement (.ldaLanding w i) := by
  exact fun _ => ⟨nofun, nofun⟩

theorem Sys2Proof.Laws.Encoding.windowStart (g : Nat) : Sys2Proof.Laws.Encoding.Statement (.windowStart g) := by
  exact fun _ => ⟨nofun, nofun⟩

theorem Sys2Proof.Laws.Encoding.windowResume (g : Nat) : Sys2Proof.Laws.Encoding.Statement (.windowResume g) := by
  exact fun _ => ⟨nofun, nofun⟩

theorem Sys2Proof.Laws.Encoding.windowEnd (g : Nat) : Sys2Proof.Laws.Encoding.Statement (.windowEnd g) := by
  exact fun _ => ⟨nofun, nofun⟩

theorem Sys2Proof.Laws.Encoding.binTimeout (g : Nat) (bin : Nat) : Sys2Proof.Laws.Encoding.Statement (.binTimeout g bin) := by
  exact fun _ => ⟨nofun, nofun⟩

theorem Sys2Proof.Laws.Encoding.warpForm (core : Nat) : Sys2Proof.Laws.Encoding.Statement (.warpForm core) := by
  exact fun _ => ⟨nofun, nofun⟩

theorem Sys2Proof.Laws.Encoding.streamElementForm (core : Nat) : Sys2Proof.Laws.Encoding.Statement (.streamElementForm core) := by
  exact fun _ => ⟨nofun, nofun⟩

theorem Sys2Proof.Laws.Encoding.streamDataReturn (g : Nat) (slot : Nat) : Sys2Proof.Laws.Encoding.Statement (.streamDataReturn g slot) := by
  exact fun _ => ⟨nofun, nofun⟩

theorem Sys2Proof.Laws.Encoding.translationWalk (core : Nat) (fetch : Bool) (asid : Nat) (va : Nat) (acc : AccessKind) : Sys2Proof.Laws.Encoding.Statement (.translationWalk core fetch asid va acc) := by
  exact fun _ => ⟨nofun, nofun⟩

theorem Sys2Proof.Laws.Encoding.writeAtOwner (core : Nat) (i : Nat) : Sys2Proof.Laws.Encoding.Statement (.writeAtOwner core i) := by
  exact fun _ => ⟨nofun, nofun⟩

theorem Sys2Proof.Laws.Encoding.scopeCheckerAnswer (w : Nat) : Sys2Proof.Laws.Encoding.Statement (.scopeCheckerAnswer w) := by
  exact fun _ => ⟨nofun, nofun⟩

theorem Sys2Proof.Laws.Encoding.barrierUpdate (g : Nat) (i : Nat) : Sys2Proof.Laws.Encoding.Statement (.barrierUpdate g i) := by
  exact fun _ => ⟨nofun, nofun⟩

theorem Sys2Proof.Laws.Encoding.leatOperationStart (core : Nat) (drain : Bool) : Sys2Proof.Laws.Encoding.Statement (.leatOperationStart core drain) := by
  exact fun _ => ⟨nofun, nofun⟩

theorem Sys2Proof.Laws.Encoding.leatLanding (core : Nat) (i : Nat) (n : Nat) : Sys2Proof.Laws.Encoding.Statement (.leatLanding core i n) := by
  exact fun _ => ⟨nofun, nofun⟩

theorem Sys2Proof.Laws.Encoding.leatArrival (core : Nat) (i : Nat) : Sys2Proof.Laws.Encoding.Statement (.leatArrival core i) := by
  exact fun _ => ⟨nofun, nofun⟩

theorem Sys2Proof.Laws.Encoding.followOnDelivery (core : Nat) (i : Nat) : Sys2Proof.Laws.Encoding.Statement (.followOnDelivery core i) := by
  exact fun _ => ⟨nofun, nofun⟩

theorem Sys2Proof.Laws.Encoding.followOnEnterQueue (core : Nat) : Sys2Proof.Laws.Encoding.Statement (.followOnEnterQueue core) := by
  exact fun _ => ⟨nofun, nofun⟩

theorem Sys2Proof.Laws.Encoding.blockCopyDone (core : Nat) (i : Nat) : Sys2Proof.Laws.Encoding.Statement (.blockCopyDone core i) := by
  exact fun _ => ⟨nofun, nofun⟩

theorem Sys2Proof.Laws.Encoding.blockReclaim (hub : Nat) (i : Nat) : Sys2Proof.Laws.Encoding.Statement (.blockReclaim hub i) := by
  exact fun _ => ⟨nofun, nofun⟩

theorem Sys2Proof.Laws.Encoding.poolReturnRetry (hub : Nat) : Sys2Proof.Laws.Encoding.Statement (.poolReturnRetry hub) := by
  exact fun _ => ⟨nofun, nofun⟩

theorem Sys2Proof.Laws.Encoding.matrixCommandStart (core : Nat) (i : Nat) : Sys2Proof.Laws.Encoding.Statement (.matrixCommandStart core i) := by
  exact fun _ => ⟨nofun, nofun⟩

theorem Sys2Proof.Laws.Encoding.matrixCommandComplete (core : Nat) (i : Nat) : Sys2Proof.Laws.Encoding.Statement (.matrixCommandComplete core i) := by
  exact fun _ => ⟨nofun, nofun⟩

theorem Sys2Proof.Laws.Encoding.doorbellWrite (hub : Nat) (q : Nat) (idx : Nat) : Sys2Proof.Laws.Encoding.Statement (.doorbellWrite hub q idx) := by
  exact fun _ => ⟨nofun, nofun⟩

theorem Sys2Proof.Laws.Encoding.packetTake (hub : Nat) (q : Nat) : Sys2Proof.Laws.Encoding.Statement (.packetTake hub q) := by
  exact fun _ => ⟨nofun, nofun⟩

theorem Sys2Proof.Laws.Encoding.packetCompletion (p : Nat) : Sys2Proof.Laws.Encoding.Statement (.packetCompletion p) := by
  exact fun _ => ⟨nofun, nofun⟩

theorem Sys2Proof.Laws.Encoding.bindRecordWrite (hub : Nat) (slot : Nat) (w0 : Word) (w1 : Word) (w2 : Word) (w3 : Word) : Sys2Proof.Laws.Encoding.Statement (.bindRecordWrite hub slot w0 w1 w2 w3) := by
  exact fun _ => ⟨nofun, nofun⟩

theorem Sys2Proof.Laws.Encoding.dispatchPlace (hub : Nat) : Sys2Proof.Laws.Encoding.Statement (.dispatchPlace hub) := by
  exact fun _ => ⟨nofun, nofun⟩

theorem Sys2Proof.Laws.Encoding.workgroupRetire (g : Nat) : Sys2Proof.Laws.Encoding.Statement (.workgroupRetire g) := by
  exact fun _ => ⟨nofun, nofun⟩

theorem Sys2Proof.Laws.Encoding.operatorBoundaryReached (g : Nat) : Sys2Proof.Laws.Encoding.Statement (.operatorBoundaryReached g) := by
  exact fun _ => ⟨nofun, nofun⟩

theorem Sys2Proof.Laws.Encoding.cooperativeHold (p : Nat) : Sys2Proof.Laws.Encoding.Statement (.cooperativeHold p) := by
  exact fun _ => ⟨nofun, nofun⟩

theorem Sys2Proof.Laws.Encoding.workgroupResume (g : Nat) (core : Nat) : Sys2Proof.Laws.Encoding.Statement (.workgroupResume g core) := by
  exact fun _ => ⟨nofun, nofun⟩

theorem Sys2Proof.Laws.Encoding.sluiceGrant (hub : Nat) (arb : Nat) (reqs : List Nat) : Sys2Proof.Laws.Encoding.Statement (.sluiceGrant hub arb reqs) := by
  exact fun _ => ⟨nofun, nofun⟩

theorem Sys2Proof.Laws.Encoding.sluiceGuaranteeWrite (hub : Nat) (arb : Nat) (vdev : Nat) (value : Word) : Sys2Proof.Laws.Encoding.Statement (.sluiceGuaranteeWrite hub arb vdev value) := by
  exact fun _ => ⟨nofun, nofun⟩

theorem Sys2Proof.Laws.Encoding.weirRotation (hub : Nat) : Sys2Proof.Laws.Encoding.Statement (.weirRotation hub) := by
  exact fun _ => ⟨nofun, nofun⟩

theorem Sys2Proof.Laws.Encoding.admissionLimitWrite (core : Nat) (limit : Nat) : Sys2Proof.Laws.Encoding.Statement (.admissionLimitWrite core limit) := by
  exact fun _ => ⟨nofun, nofun⟩

theorem Sys2Proof.Laws.Encoding.partitionChange (part : Nat) (vdev : Nat) (cores : List Nat) : Sys2Proof.Laws.Encoding.Statement (.partitionChange part vdev cores) := by
  exact fun _ => ⟨nofun, nofun⟩

theorem Sys2Proof.Laws.Encoding.preemptSliceEnd (hub : Nat) (isPart : Bool) (target : Nat) : Sys2Proof.Laws.Encoding.Statement (.preemptSliceEnd hub isPart target) := by
  exact fun _ => ⟨nofun, nofun⟩

theorem Sys2Proof.Laws.Encoding.preemptUrgentHalt (hub : Nat) (isPart : Bool) (target : Nat) : Sys2Proof.Laws.Encoding.Statement (.preemptUrgentHalt hub isPart target) := by
  exact fun _ => ⟨nofun, nofun⟩

theorem Sys2Proof.Laws.Encoding.preemptComplete (hub : Nat) : Sys2Proof.Laws.Encoding.Statement (.preemptComplete hub) := by
  exact fun _ => ⟨nofun, nofun⟩

theorem Sys2Proof.Laws.Encoding.slotResume (hub : Nat) (slot : Nat) : Sys2Proof.Laws.Encoding.Statement (.slotResume hub slot) := by
  exact fun _ => ⟨nofun, nofun⟩

theorem Sys2Proof.Laws.Encoding.contextKill (vdev : Nat) : Sys2Proof.Laws.Encoding.Statement (.contextKill vdev) := by
  exact fun _ => ⟨nofun, nofun⟩

theorem Sys2Proof.Laws.Encoding.killAck (vdev : Nat) (unit : Nat) : Sys2Proof.Laws.Encoding.Statement (.killAck vdev unit) := by
  exact fun _ => ⟨nofun, nofun⟩

theorem Sys2Proof.Laws.Encoding.killDrainComplete (vdev : Nat) : Sys2Proof.Laws.Encoding.Statement (.killDrainComplete vdev) := by
  exact fun _ => ⟨nofun, nofun⟩

theorem Sys2Proof.Laws.Encoding.bankControlWrite (chip : Nat) (cluster : Nat) (bank : Nat) (value : Word) : Sys2Proof.Laws.Encoding.Statement (.bankControlWrite chip cluster bank value) := by
  exact fun _ => ⟨nofun, nofun⟩

theorem Sys2Proof.Laws.Encoding.tlbInvalidate (hub : Nat) (scope : Nat) (asid : Nat) (va : Nat) : Sys2Proof.Laws.Encoding.Statement (.tlbInvalidate hub scope asid va) := by
  exact fun _ => ⟨nofun, nofun⟩

theorem Sys2Proof.Laws.Encoding.powerWakeP0 (hub : Nat) (port : Nat) (core : Nat) : Sys2Proof.Laws.Encoding.Statement (.powerWakeP0 hub port core) := by
  exact fun _ => ⟨nofun, nofun⟩

theorem Sys2Proof.Laws.Encoding.powerEnterC2 (hub : Nat) (port : Nat) (core : Nat) : Sys2Proof.Laws.Encoding.Statement (.powerEnterC2 hub port core) := by
  exact fun _ => ⟨nofun, nofun⟩

theorem Sys2Proof.Laws.Encoding.powerLimitWrite (hub : Nat) (value : Word) : Sys2Proof.Laws.Encoding.Statement (.powerLimitWrite hub value) := by
  exact fun _ => ⟨nofun, nofun⟩

theorem Sys2Proof.Laws.Encoding.temperatureLimitWrite (hub : Nat) (value : Word) : Sys2Proof.Laws.Encoding.Statement (.temperatureLimitWrite hub value) := by
  exact fun _ => ⟨nofun, nofun⟩

theorem Sys2Proof.Laws.Encoding.c1Entry (core : Nat) : Sys2Proof.Laws.Encoding.Statement (.c1Entry core) := by
  exact fun _ => ⟨nofun, nofun⟩

theorem Sys2Proof.Laws.Encoding.c1Wake (core : Nat) : Sys2Proof.Laws.Encoding.Statement (.c1Wake core) := by
  exact fun _ => ⟨nofun, nofun⟩

theorem Sys2Proof.Laws.Encoding.deepSleep (hub : Nat) : Sys2Proof.Laws.Encoding.Statement (.deepSleep hub) := by
  exact fun _ => ⟨nofun, nofun⟩

theorem Sys2Proof.Laws.Encoding.s3Wake : Sys2Proof.Laws.Encoding.Statement (.s3Wake) := by
  exact fun _ => ⟨nofun, nofun⟩

theorem Sys2Proof.Laws.Encoding.btDescriptorWrite (hub : Nat) (t : Nat) (word : Nat) (value : DWord) : Sys2Proof.Laws.Encoding.Statement (.btDescriptorWrite hub t word value) := by
  exact fun _ => ⟨nofun, nofun⟩

theorem Sys2Proof.Laws.Encoding.poolDescriptorWrite (hub : Nat) (n : Nat) (word : Nat) (value : DWord) : Sys2Proof.Laws.Encoding.Statement (.poolDescriptorWrite hub n word value) := by
  exact fun _ => ⟨nofun, nofun⟩

theorem Sys2Proof.Laws.Encoding.poolPush (hub : Nat) (n : Nat) (block : Nat) : Sys2Proof.Laws.Encoding.Statement (.poolPush hub n block) := by
  exact fun _ => ⟨nofun, nofun⟩

theorem Sys2Proof.Laws.Encoding.poolPop (hub : Nat) (n : Nat) : Sys2Proof.Laws.Encoding.Statement (.poolPop hub n) := by
  exact fun _ => ⟨nofun, nofun⟩

theorem Sys2Proof.Laws.Encoding.managementRegisterWrite (hub : Nat) (off : Nat) (size : Nat) (value : DWord) : Sys2Proof.Laws.Encoding.Statement (.managementRegisterWrite hub off size value) := by
  exact fun _ => ⟨nofun, nofun⟩

theorem Sys2Proof.Laws.Encoding.linkTrained (hub : Nat) (port : Nat) (cap : List Byte) : Sys2Proof.Laws.Encoding.Statement (.linkTrained hub port cap) := by
  exact fun _ => ⟨nofun, nofun⟩

theorem Sys2Proof.Laws.Encoding.trainingFail (hub : Nat) (port : Nat) : Sys2Proof.Laws.Encoding.Statement (.trainingFail hub port) := by
  exact fun _ => ⟨nofun, nofun⟩

theorem Sys2Proof.Laws.Encoding.chipletAck (hub : Nat) (port : Nat) : Sys2Proof.Laws.Encoding.Statement (.chipletAck hub port) := by
  exact fun _ => ⟨nofun, nofun⟩

theorem Sys2Proof.Laws.Encoding.isolateCommand (hub : Nat) (port : Nat) : Sys2Proof.Laws.Encoding.Statement (.isolateCommand hub port) := by
  exact fun _ => ⟨nofun, nofun⟩

theorem Sys2Proof.Laws.Encoding.linkDown (hub : Nat) (port : Nat) : Sys2Proof.Laws.Encoding.Statement (.linkDown hub port) := by
  exact fun _ => ⟨nofun, nofun⟩

theorem Sys2Proof.Laws.Encoding.chipletFatalError (hub : Nat) (port : Nat) : Sys2Proof.Laws.Encoding.Statement (.chipletFatalError hub port) := by
  exact fun _ => ⟨nofun, nofun⟩

theorem Sys2Proof.Laws.Encoding.isolation (hub : Nat) (port : Nat) : Sys2Proof.Laws.Encoding.Statement (.isolation hub port) := by
  exact fun _ => ⟨nofun, nofun⟩

theorem Sys2Proof.Laws.Encoding.portResetCommand (hub : Nat) (port : Nat) : Sys2Proof.Laws.Encoding.Statement (.portResetCommand hub port) := by
  exact fun _ => ⟨nofun, nofun⟩

theorem Sys2Proof.Laws.Encoding.flitReceive (hub : Nat) (port : Nat) (dir : Bool) (seq : Nat) (good : Bool) (msg : LinkMsg) : Sys2Proof.Laws.Encoding.Statement (.flitReceive hub port dir seq good msg) := by
  exact fun _ => ⟨nofun, nofun⟩

theorem Sys2Proof.Laws.Encoding.flitReplay (hub : Nat) (port : Nat) (dir : Bool) : Sys2Proof.Laws.Encoding.Statement (.flitReplay hub port dir) := by
  exact fun _ => ⟨nofun, nofun⟩

theorem Sys2Proof.Laws.Encoding.equalisationPass (hub : Nat) (port : Nat) (m : Nat) : Sys2Proof.Laws.Encoding.Statement (.equalisationPass hub port m) := by
  exact fun _ => ⟨nofun, nofun⟩

theorem Sys2Proof.Laws.Encoding.equalisationEnd (hub : Nat) (port : Nat) (m : Nat) (ok : Bool) : Sys2Proof.Laws.Encoding.Statement (.equalisationEnd hub port m ok) := by
  exact fun _ => ⟨nofun, nofun⟩

theorem Sys2Proof.Laws.Encoding.laneFallback (hub : Nat) (port : Nat) (m : Nat) : Sys2Proof.Laws.Encoding.Statement (.laneFallback hub port m) := by
  exact fun _ => ⟨nofun, nofun⟩

theorem Sys2Proof.Laws.Encoding.droopResponse (loc : Nat) (mv : Int) : Sys2Proof.Laws.Encoding.Statement (.droopResponse loc mv) := by
  exact fun _ => ⟨nofun, nofun⟩

theorem Sys2Proof.Laws.Encoding.frequencyStep (loc : Nat) : Sys2Proof.Laws.Encoding.Statement (.frequencyStep loc) := by
  exact fun _ => ⟨nofun, nofun⟩

theorem Sys2Proof.Laws.Encoding.patrolScrub (hub : Nat) (sector : Nat) (found : ScrubResult) : Sys2Proof.Laws.Encoding.Statement (.patrolScrub hub sector found) := by
  exact fun _ => ⟨nofun, nofun⟩

theorem Sys2Proof.Laws.Encoding.scrubPeriodAdjust (hub : Nat) (kind : Bool) (corrections : Nat) : Sys2Proof.Laws.Encoding.Statement (.scrubPeriodAdjust hub kind corrections) := by
  exact fun _ => ⟨nofun, nofun⟩

theorem Sys2Proof.Laws.Encoding.ringResponseTimeout (w : Nat) (i : Nat) : Sys2Proof.Laws.Encoding.Statement (.ringResponseTimeout w i) := by
  exact fun _ => ⟨nofun, nofun⟩

theorem Sys2Proof.Laws.Encoding.remoteRequest (m : Nat) (seq : Nat) (req : RemoteReq) : Sys2Proof.Laws.Encoding.Statement (.remoteRequest m seq req) := by
  exact fun _ => ⟨nofun, nofun⟩

theorem Sys2Proof.Laws.Encoding.remoteRouteTimeout (w : Nat) (i : Nat) : Sys2Proof.Laws.Encoding.Statement (.remoteRouteTimeout w i) := by
  exact fun _ => ⟨nofun, nofun⟩

theorem Sys2Proof.Laws.Encoding.kuduCachePoisonInterrupt (hart : Nat) (line : Nat) : Sys2Proof.Laws.Encoding.Statement (.kuduCachePoisonInterrupt hart line) := by
  exact fun _ => ⟨nofun, nofun⟩

theorem Sys2Proof.Laws.Encoding.tenantPoisonHold (hub : Nat) (vdev : Nat) : Sys2Proof.Laws.Encoding.Statement (.tenantPoisonHold hub vdev) := by
  exact fun _ => ⟨nofun, nofun⟩

theorem Sys2Proof.Laws.Encoding.eventPost (hub : Nat) (q : Nat) (kind : Nat) (detail : Word) : Sys2Proof.Laws.Encoding.Statement (.eventPost hub q kind detail) := by
  exact fun _ => ⟨nofun, nofun⟩

theorem Sys2Proof.Laws.Encoding.connectionOpen (saiga : Nat) (conn : Nat) (desc : List Byte) : Sys2Proof.Laws.Encoding.Statement (.connectionOpen saiga conn desc) := by
  exact fun _ => ⟨nofun, nofun⟩

theorem Sys2Proof.Laws.Encoding.sendLineNotify (saiga : Nat) (conn : Nat) (n : Nat) : Sys2Proof.Laws.Encoding.Statement (.sendLineNotify saiga conn n) := by
  exact fun _ => ⟨nofun, nofun⟩

theorem Sys2Proof.Laws.Encoding.segmentReceive (saiga : Nat) (conn : Nat) (seq : Nat) (data : List Byte) : Sys2Proof.Laws.Encoding.Statement (.segmentReceive saiga conn seq data) := by
  exact fun _ => ⟨nofun, nofun⟩

theorem Sys2Proof.Laws.Encoding.ackReceive (saiga : Nat) (conn : Nat) (upto : Nat) : Sys2Proof.Laws.Encoding.Statement (.ackReceive saiga conn upto) := by
  exact fun _ => ⟨nofun, nofun⟩

theorem Sys2Proof.Laws.Encoding.idcert : Sys2Proof.Laws.Encoding.Statement (.idcert) := by
  exact fun _ => ⟨nofun, nofun⟩

theorem Sys2Proof.Laws.Encoding.wcreate (w : Nat) (vdev : Nat) (owner : List Byte) : Sys2Proof.Laws.Encoding.Statement (.wcreate w vdev owner) := by
  exact fun _ => ⟨nofun, nofun⟩

theorem Sys2Proof.Laws.Encoding.wdestroy (w : Nat) : Sys2Proof.Laws.Encoding.Statement (.wdestroy w) := by
  exact fun _ => ⟨nofun, nofun⟩

theorem Sys2Proof.Laws.Encoding.extend (r : Nat) (item : List Byte) (label : List Byte) : Sys2Proof.Laws.Encoding.Statement (.extend r item label) := by
  exact fun _ => ⟨nofun, nofun⟩

theorem Sys2Proof.Laws.Encoding.lock : Sys2Proof.Laws.Encoding.Statement (.lock) := by
  exact fun _ => ⟨nofun, nofun⟩

theorem Sys2Proof.Laws.Encoding.readlog (seq : Nat) : Sys2Proof.Laws.Encoding.Statement (.readlog seq) := by
  exact fun _ => ⟨nofun, nofun⟩

theorem Sys2Proof.Laws.Encoding.evidence (vdev : Nat) (nonce : List Byte) : Sys2Proof.Laws.Encoding.Statement (.evidence vdev nonce) := by
  exact fun _ => ⟨nofun, nofun⟩

theorem Sys2Proof.Laws.Encoding.wrelease (w : Nat) (sig : List Byte) : Sys2Proof.Laws.Encoding.Statement (.wrelease w sig) := by
  exact fun _ => ⟨nofun, nofun⟩

theorem Sys2Proof.Laws.Encoding.podevidence (nonce : List Byte) : Sys2Proof.Laws.Encoding.Statement (.podevidence nonce) := by
  exact fun _ => ⟨nofun, nofun⟩

theorem Sys2Proof.Laws.Encoding.podMemberAnswer (m : Nat) (record : List Byte) : Sys2Proof.Laws.Encoding.Statement (.podMemberAnswer m record) := by
  exact fun _ => ⟨nofun, nofun⟩

theorem Sys2Proof.Laws.Encoding.podGatherTimeout : Sys2Proof.Laws.Encoding.Statement (.podGatherTimeout) := by
  exact fun _ => ⟨nofun, nofun⟩

theorem Sys2Proof.Laws.Encoding.moduleReset : Sys2Proof.Laws.Encoding.Statement (.moduleReset) := by
  exact fun _ => ⟨nofun, nofun⟩

theorem Sys2Proof.Laws.Encoding.managementRegisterRead (hub : Nat) (off : Nat) (size : Nat) : Sys2Proof.Laws.Encoding.Statement (.managementRegisterRead hub off size) := by
  exact fun _ => ⟨nofun, nofun⟩

theorem Sys2Proof.Laws.Encoding.retransmission (saiga : Nat) (conn : Nat) : Sys2Proof.Laws.Encoding.Statement (.retransmission saiga conn) := by
  exact fun _ => ⟨nofun, nofun⟩

theorem Sys2Proof.Laws.Encoding.connectionClose (saiga : Nat) (conn : Nat) : Sys2Proof.Laws.Encoding.Statement (.connectionClose saiga conn) := by
  exact fun _ => ⟨nofun, nofun⟩

theorem Sys2Proof.Laws.Encoding.hartInterrupt (hart : Nat) (n : Nat) : Sys2Proof.Laws.Encoding.Statement (.hartInterrupt hart n) := by
  exact fun _ => ⟨nofun, nofun⟩

theorem Sys2Proof.Laws.Encoding.kuduHartAccess (hart : Nat) (kind : HartAccess) (rd : XReg) (va : Nat) (size : Nat) (value : DWord) : Sys2Proof.Laws.Encoding.Statement (.kuduHartAccess hart kind rd va size value) := by
  exact fun _ => ⟨nofun, nofun⟩
end

