-- ==== Sys2Proof/Tests/Slice0.lean ====
section
/-! SUPPORT. Tests: the words that the spec writes out decode to the instructions they stand for; ill-formed terms are refused;
single steps give what the entries say; and for every statement with hypotheses a concrete state and operands meet them. -/

open Sys2Proof Sys2Proof.Machine

set_option Elab.async false

namespace Sys2Proof.Tests

/-! ## Decoding: words written out in the spec -/

/-- No gap, no guard. -/
def z : Hdr := ⟨0, false, false, 0⟩

theorem test_decode_li : decodeTableWord 64 0x0082C5093F800000 = some (.li ⟨2, true, true, 5⟩ 9 0x3F800000#32) := by decide
theorem test_decode_addx : decodeTableWord 64 0x00000014100B002A = some (.addx z .si32 2 20 16 11) := by decide
theorem test_decode_shl : decodeTableWord 64 0x0041830A08000218 = some (.shlImm ⟨1, true, false, 3⟩ 10 8 2) := by decide
theorem test_decode_shl_32 : decodeTableWord 64 0x0041830A08002018 = none := by decide
theorem test_decode_cvt : decodeTableWord 64 0x0013000501020344 = some (.cvtE4m3F32 z false .sr 5 1 2 3) := by decide
theorem test_decode_brs : decodeTableWord 64 0x0024850900000C01 = some (.brs ⟨0, true, false, 5⟩ 9 12) := by decide
theorem test_decode_meld : decodeTableWord 64 0x0023000004000001 = some (.meld z 4) := by decide
theorem test_decode_ld : decodeTableWord 64 0x0028000802000025 = some (.ld z .glob .w32 8 2 0) := by decide
theorem test_decode_st : decodeTableWord 64 0x0029000C0A020027 = some (.st z .glob .w128 12 10 512) := by decide
theorem test_decode_atom_add : decodeTableWord 64 0x0030000A02040227 = some (.atomAdd z 7 .glob false 10 2 4) := by decide
theorem test_decode_red_add_f32 : decodeTableWord 64 0x0031000014120237 = some (.redAddF32 z 7 .glob 20 18) := by decide
theorem test_decode_fence : decodeTableWord 64 0x0032000000000015 = some (.fenceRel z 5) := by decide
theorem test_decode_strl : decodeTableWord 64 0x0030000004080217 = some (.strl z 7 .glob false 4 8) := by decide
theorem test_decode_barv : decodeTableWord 64 0x0036000005030003 = some (.barvExp z 3 5) := by decide
theorem test_decode_qmov : decodeTableWord 64 0x0037000209000001 = some (.qmovPush z 2 9) := by decide
theorem test_decode_jwait : decodeTableWord 64 0x0038000004000237 = some (.jwait z 7 .glob 4) := by decide
theorem test_decode_cpy : decodeTableWord 64 0x003A00010A0C1401 = some (.cpyG2p z 1 10 12 20) := by decide
theorem test_decode_btcow : decodeTableWord 64 0x003B001E02030003 = some (.btcow z 30 2 3) := by decide
theorem test_decode_mma : decodeTableWord 64 0x003C00000A0C0040 = some (.mma z .bf16 .q4 10 12) := by decide
theorem test_decode_sacc : decodeTableWord 64 0x003D00001415001D = some (.sacc z true .bf16 .col 20 21 0) := by decide
theorem test_decode_opb : decodeTableWord 64 0x003E000005000001 = some (.opb z 5) := by decide
theorem test_decode_taskend : decodeTableWord 64 0x003E000000000008 = some (.taskend z) := by decide
theorem test_decode_wgq : decodeTableWord 64 0x003E000904000018 = some (.wgq z 9 4) := by decide
theorem test_decode_srd : decodeTableWord 64 0x003F000500001801 = some (.srd z 5 0x18) := by decide
theorem test_decode_tret : decodeTableWord 64 0x003F000000000008 = some (.tret z) := by decide
theorem test_decode_trapi : decodeTableWord 64 0x003F840000000711 = some (.trapi ⟨0, true, false, 4⟩ 7) := by decide
theorem test_decode_genwait : decodeTableWord 64 0x003F000904000028 = some (.genwait z 9 4) := by decide
theorem test_decode_vspawn : decodeTableWord 32 0x9924828B = some (.vspawn 5 9 18 19) := by decide
theorem test_decode_vjoin : decodeTableWord 32 0x0005950B = some (.vjoin 10 11) := by decide

/-- The bytes of a word stand low byte first (R1). -/
theorem test_decode_bytes : decodeBytes [0x00, 0x00, 0x80, 0x3F, 0x09, 0xC5, 0x82, 0x00] = .ok (.li ⟨2, true, true, 5⟩ 9 0x3F800000#32) := by
  decide

/-! ## Well-formedness: one ill-formed term for each check -/

theorem smoke_guard_fields : (Instr.add ⟨0, false, true, 0⟩ 1 2 3).wellFormed = false := by decide
theorem smoke_guard_register : (Instr.add ⟨0, false, false, 3⟩ 1 2 3).wellFormed = false := by decide
theorem smoke_no_guard_allowed : (Instr.mand ⟨0, true, false, 3⟩ 1 2).wellFormed = false := by decide
theorem smoke_guard_required : (Instr.brs z 1 4).wellFormed = false := by decide
theorem smoke_pair_dst : (Instr.add64 z 3 4 6).wellFormed = false := by decide
theorem smoke_pair_a : (Instr.adda z 0 4 5 1).wellFormed = false := by decide
theorem smoke_pair_b : (Instr.sub64 z 2 4 7).wellFormed = false := by decide
theorem smoke_pair_jump : (Instr.jmp z 5).wellFormed = false := by decide
theorem smoke_pair_address : (Instr.ld z .glob .w32 8 3 0).wellFormed = false := by decide
theorem smoke_pair_data : (Instr.st z .priv .w64 9 2 0).wellFormed = false := by decide
theorem smoke_quad_data : (Instr.ld z .priv .w128 6 2 0).wellFormed = false := by decide
theorem smoke_quad_record : (Instr.cperr z 6).wellFormed = false := by decide
theorem smoke_mode_sr : (Instr.fadd z .sr 1 2 3).wellFormed = false := by decide
theorem smoke_mode_counter : (Instr.qnt z .q4 .rn 1 2 3 4).wellFormed = false := by decide
theorem smoke_special_register : (Instr.srd z 1 0x07).wellFormed = false := by decide
theorem smoke_special_register_written : (Instr.swr z 1 0x01).wellFormed = false := by decide
theorem smoke_handler_register : (Instr.xrd z 1 16).wellFormed = false := by decide
theorem smoke_context_item : (Instr.cxrd z 1 0x40).wellFormed = false := by decide
theorem smoke_context_item_written : (Instr.cxwr z 1 1).wellFormed = false := by decide
theorem smoke_follow_pair : (Instr.cpyG2p z 1 2 3 5).wellFormed = false := by decide
theorem smoke_follow_absent : (Instr.cpyP2g z 1 2 3 4).wellFormed = false := by decide
theorem smoke_scale_row : (Instr.sacc z true .bf16 .row 1 2 3).wellFormed = false := by decide
theorem smoke_scale_col : (Instr.sacc z true .bf16 .col 1 2 3).wellFormed = false := by decide
theorem smoke_cause : (Instr.trapEntry 0 ⟨3, 0, false, [1], []⟩).wellFormed = false := by decide
theorem smoke_chip : (Instr.referenceTick 16).wellFormed = false := by decide
theorem smoke_core : (Instr.warpForm 24).wellFormed = false := by decide
theorem smoke_core_eland : (Instr.warpForm 200).wellFormed = false := by decide
theorem smoke_hart : (Instr.hartInterrupt 80 3).wellFormed = false := by decide
theorem smoke_hub : (Instr.deepSleep 2).wellFormed = false := by decide
theorem smoke_port : (Instr.chipletAck 0 8).wellFormed = false := by decide
theorem smoke_queue : (Instr.packetTake 0 1024).wellFormed = false := by decide
theorem smoke_slot : (Instr.slotResume 0 64).wellFormed = false := by decide
theorem smoke_vdev : (Instr.contextKill 33).wellFormed = false := by decide
theorem smoke_arbiter : (Instr.sluiceGuaranteeWrite 0 1008 0 0).wellFormed = false := by decide
theorem smoke_partition : (Instr.partitionChange 64 0 []).wellFormed = false := by decide
theorem smoke_bank : (Instr.bankControlWrite 0 0 256 0).wellFormed = false := by decide
theorem smoke_asid : (Instr.tlbInvalidate 0 1 65536 0).wellFormed = false := by decide
theorem smoke_address : (Instr.tlbInvalidate 0 1 0 (2 ^ 57)).wellFormed = false := by decide
theorem smoke_access_size : (Instr.managementRegisterRead 0 0 2).wellFormed = false := by decide
theorem smoke_pool : (Instr.poolPop 0 4096).wellFormed = false := by decide
theorem smoke_block : (Instr.poolPush 0 0 (2 ^ 36)).wellFormed = false := by decide
theorem smoke_capability : (Instr.linkTrained 0 0 []).wellFormed = false := by decide
theorem smoke_module : (Instr.laneFallback 0 0 16).wellFormed = false := by decide
theorem smoke_pod_module : (Instr.remoteRequest 1024 0 ⟨.load, 0, 4, 0, 0, 0, 0, 0, 0, 0, 0, 0, 0, 0⟩).wellFormed = false := by decide
theorem smoke_connection : (Instr.connectionClose 0 32768).wellFormed = false := by decide
theorem smoke_loop : (Instr.droopResponse 18 0).wellFormed = false := by decide
theorem smoke_event_kind : (Instr.eventPost 0 0 16 0).wellFormed = false := by decide
theorem smoke_kill_unit : (Instr.killAck 0 18).wellFormed = false := by decide
theorem smoke_interrupt : (Instr.hartInterrupt 0 64).wellFormed = false := by decide
theorem smoke_hart_size : (Instr.kuduHartAccess 0 .load 1 0 3 0).wellFormed = false := by decide
theorem smoke_well_formed : (Instr.add z 1 2 3).wellFormed = true := by decide


/-! ## Single steps -/

/-- A state with one warp of budget 256 in one workgroup, on Impala core 0, in world 0. -/
def s0 : State := State.reset.placeVodon 0
/-- The same with its warp changed. -/
def sw (f : Warp → Warp) : State := s0.modWarp 0 f
/-- The same with registers of its warp set in every lane. -/
def sr (rs : List (Nat × Word)) : State := sw (fun w => rs.foldl (fun w r => w.setReg r.1 ⟨.general, laneSplat r.2, 0⟩) w)
/-- The warp after an instruction. -/
def ran (i : Instr) (s : State) : Option Warp :=
  match exec i s with
  | .next t => Table.find 0 t.warps
  | _ => none
/-- A register's value in a lane after an instruction. -/
def got (i : Instr) (s : State) (n l : Nat) : Option Word := (ran i s).map (fun w => laneVal (w.reg n).vals l)
/-- The state after a step. -/
def stepped (s : State) : Option State :=
  match step s with
  | .next t => some t
  | _ => none
/-- The state after an instruction. -/
def after (i : Instr) (s : State) : Option State :=
  match exec i s with
  | .next t => some t
  | _ => none
/-- The code and subcode of the cause a warp took or was reported for. -/
def cause (o : Option Warp) : Option Nat := o.map (fun w => w.cause.toNat % 65536)
/-- A warp's pc. -/
def pcOf (o : Option Warp) : Option Nat := o.map (fun w => w.pc.toNat)

/-- R78: `ADDX.S2` of the spec's example adds 4 times the index to the pair: 0x1_0000_0000 + 4 * (-1), a borrow from the high half. -/
theorem test_step_addx : ((stepped ((State.reset.placeVodon 0x00000014100B002A).modWarp 0 (fun w =>
    ((w.setReg 17 ⟨.general, laneSplat 1, 0⟩).setReg 11 ⟨.general, laneSplat 0xFFFFFFFF#32, 0⟩)))).bind (fun t =>
      (Table.find 0 t.warps).map (fun w => (laneVal (w.reg 20).vals 3, laneVal (w.reg 21).vals 3, w.pc.toNat)))) =
    some (0xFFFFFFFC#32, 0#32, 0x10008) := by decide

/-- R78: a shift count of 32 in the immediate raises cause 0x02. -/
theorem test_step_reserved_immediate :
    cause ((stepped (State.reset.placeVodon 0x0001000A08002018)).bind (fun t => Table.find 0 t.warps)) = some 0x0102 := by decide

theorem test_add_wraps : got (.add z 3 1 2) (sr [(1, 0xFFFFFFFF), (2, 2)]) 3 31 = some 1#32 := by decide
theorem test_sub_wraps : got (.sub z 3 1 2) (sr [(1, 1), (2, 2)]) 3 0 = some 0xFFFFFFFF#32 := by decide
theorem test_add_imm_sign : got (.addImm z 3 1 0xFFFF) (sr [(1, 5)]) 3 0 = some 4#32 := by decide
theorem test_add_sat : got (.addSat z .si32 3 1 2) (sr [(1, 0x7FFFFFFF), (2, 1)]) 3 0 = some 0x7FFFFFFF#32 := by decide
theorem test_sub_sat_unsigned : got (.subSat z .ui32 3 1 2) (sr [(1, 1), (2, 2)]) 3 0 = some 0#32 := by decide
theorem test_add64_carry : got (.add64 z 4 0 2) (sr [(0, 0xFFFFFFFF), (2, 1)]) 5 0 = some 1#32 := by decide
theorem test_abs_least : got (.abs z 3 1) (sr [(1, 0x80000000)]) 3 0 = some 0x7FFFFFFF#32 := by decide
theorem test_aff : got (.aff z 3 1 2) (sr [(1, 100), (2, 4)]) 3 5 = some 120#32 := by decide
theorem test_mulhi_signed : got (.mulhi z .si32 3 1 2) (sr [(1, 0xFFFFFFFF), (2, 1)]) 3 0 = some 0xFFFFFFFF#32 := by decide
theorem test_mulhi_unsigned : got (.mulhi z .ui32 3 1 2) (sr [(1, 0xFFFFFFFF), (2, 2)]) 3 0 = some 1#32 := by decide
theorem test_mulw_signed : got (.mulw z .si32 4 1 2) (sr [(1, 0xFFFFFFFF), (2, 3)]) 5 0 = some 0xFFFFFFFF#32 := by decide
theorem test_mad : got (.mad z 3 1 2 4) (sr [(1, 3), (2, 5), (4, 7)]) 3 0 = some 22#32 := by decide
theorem test_andn : got (.andn z 3 1 2) (sr [(1, 0xFF), (2, 0x0F)]) 3 0 = some 0xF0#32 := by decide
theorem test_and_imm_zero_extends : got (.andImm z 3 1 0xFFFF) (sr [(1, 0xFFFFFFFF)]) 3 0 = some 0xFFFF#32 := by decide
theorem test_bfx_signed : got (.bfx z .si32 3 1 2) (sr [(1, 0x80), (2, 0x404)]) 3 0 = some 0xFFFFFFF8#32 := by decide
theorem test_bfi : got (.bfi z 3 1 2 4) (sr [(1, 0xA), (2, 0x404), (4, 0xFFFFFFFF)]) 3 0 = some 0xFFFFFFAF#32 := by decide
theorem test_brev : got (.brev z 3 1) (sr [(1, 1)]) 3 0 = some 0x80000000#32 := by decide +kernel
theorem test_clz_zero : got (.clz z 3 1) (sr []) 3 0 = some 32#32 := by decide
theorem test_ctz : got (.ctz z 3 1) (sr [(1, 8)]) 3 0 = some 3#32 := by decide
theorem test_shl_wide : got (.shl z 3 1 2) (sr [(1, 1), (2, 32)]) 3 0 = some 0#32 := by decide
theorem test_sra_wide : got (.sra z 3 1 2) (sr [(1, 0x80000000), (2, 99)]) 3 0 = some 0xFFFFFFFF#32 := by decide
theorem test_rol : got (.rol z 3 1 2) (sr [(1, 0x80000001), (2, 33)]) 3 0 = some 3#32 := by decide
theorem test_sel : got (.sel z 3 1 2 4) (sr [(1, 10), (2, 20), (4, 2)]) 3 0 = some 20#32 := by decide
theorem test_min_signed : got (.min z .si32 3 1 2) (sr [(1, 0xFFFFFFFF), (2, 1)]) 3 0 = some 0xFFFFFFFF#32 := by decide
theorem test_max_unsigned : got (.max z .ui32 3 1 2) (sr [(1, 0xFFFFFFFF), (2, 1)]) 3 0 = some 0xFFFFFFFF#32 := by decide
theorem test_set_less : got (.set z .ltS 3 1 2) (sr [(1, 0xFFFFFFFF), (2, 1)]) 3 0 = some 1#32 := by decide
theorem test_guard_off : got (.add ⟨0, true, false, 4⟩ 3 1 2) (sr [(1, 1), (2, 2), (3, 9)]) 3 0 = some 9#32 := by decide
theorem test_form_uniform : got (.form z 3 1) (sw (fun w => w.setReg 1 ⟨.uniform, laneSplat 7, 0⟩)) 3 0 = some 1#32 := by decide

/-- A register's values given lane by lane. -/
def lv (n : Nat) (f : Nat → Word) (s : State) : State := s.modWarp 0 (fun w => w.setReg n ⟨.general, laneBuild f, 0⟩)
/-- The workgroup after an instruction. -/
def wgOf (i : Instr) (s : State) : Option Wg :=
  match exec i s with
  | .next t => Table.find 0 t.wgs
  | _ => none
/-- The state with its workgroup changed. -/
def sg (f : Wg → Wg) : State := s0.modWg 0 f

/-- Example 04.1: 1.0625 in both sources under SR, tile counter 0, gives 0x3938 in every lane. -/
theorem test_cvt_stochastic : got (.cvtE4m3F32 z false .sr 5 1 2 3) (sr [(1, 0x3F880000), (2, 0x3F880000)]) 5 7 = some 0x3938#32 := by
  decide +kernel
/-- Example 04.1 with counter 1. -/
theorem test_cvt_stochastic_next : got (.cvtE4m3F32 z false .sr 5 1 2 3) (sr [(1, 0x3F880000), (2, 0x3F880000), (3, 1)]) 5 7 =
    some 0x3839#32 := by decide +kernel
/-- Example 04.1 under RN: the tie goes to the even significand. -/
theorem test_cvt_nearest : got (.cvtE4m3F32 z true .rn 5 1 2 0) (sr [(1, 0x3F880000), (2, 0x3F880000), (5, 7)]) 5 7 =
    some 0x38380007#32 := by decide +kernel
/-- Example 04.2: the first word of the group. -/
theorem test_qpk : got (.qpk z .q4 6 4) (lv 4 (fun l => [1, -1, 2, -2, 3, -3, 7, -8].getD l 0) s0) 6 28 = some 0x87D3E2F1#32 := by
  decide +kernel
/-- Example 04.2: unpacking gives element 7 back. -/
theorem test_qunpk : got (.qunpk z .q4 7 6) (sr [(6, 0x87D3E2F1)]) 7 7 = some 0xFFFFFFF8#32 := by decide +kernel
theorem test_fadd_tie_even : got (.fadd z .rn 3 1 2) (sr [(1, 0x3F800000), (2, 0x33800000)]) 3 0 = some 0x3F800000#32 := by decide +kernel
theorem test_fadd_up : got (.fadd z .ru 3 1 2) (sr [(1, 0x3F800000), (2, 0x33800000)]) 3 0 = some 0x3F800001#32 := by decide +kernel
theorem test_fsub_zero_sign : got (.fsub z .rd 3 1 2) (sr [(1, 0x3F800000), (2, 0x3F800000)]) 3 0 = some 0x80000000#32 := by decide +kernel
theorem test_fmul_overflow : got (.fmul z .rn 3 1 2) (sr [(1, 0x7F000000), (2, 0x40000000)]) 3 0 = some 0x7F800000#32 := by decide +kernel
theorem test_ffma : got (.ffma z .rn 3 1 2 4) (sr [(1, 0x40000000), (2, 0x40400000), (4, 0x3F800000)]) 3 0 = some 0x40E00000#32 := by
  decide +kernel
theorem test_fmin_nan : got (.fmin z 3 1 2) (sr [(1, 0x7FC00001), (2, 0x3F800000)]) 3 0 = some 0x3F800000#32 := by decide +kernel
theorem test_frnd : got (.frnd z .rn 3 1) (sr [(1, 0xBE99999A)]) 3 0 = some 0x80000000#32 := by decide +kernel
theorem test_fset_unordered : got (.fset z .un 3 1 2) (sr [(1, 0x7FC00000), (2, 0)]) 3 0 = some 1#32 := by decide +kernel
theorem test_rcp_zero : got (.rcp z 3 1) (sr [(1, 0x80000000)]) 3 0 = some 0xFF800000#32 := by decide +kernel
theorem test_ex2 : got (.ex2 z 3 1) (sr [(1, 0x40400000)]) 3 0 = some 0x41000000#32 := by decide +kernel
theorem test_padd : got (.padd z .bf16 .rn 3 1 2) (sr [(1, 0x3F803F80), (2, 0x40003F80)]) 3 0 = some 0x40404000#32 := by decide +kernel
theorem test_pdot : got (.pdot z .bf16 .rn 3 1 2 4) (sr [(1, 0x40003F80), (2, 0x40404000), (4, 0x3F800000)]) 3 0 = some 0x41100000#32 := by
  decide +kernel
theorem test_qnt_clamp : got (.qnt z .q4 .rn 3 1 2 0) (sr [(1, 0x42000000), (2, 0x3F800000)]) 3 0 = some 7#32 := by decide +kernel
theorem test_cvt_widen : got (.cvtF32Bf16 z true 3 1) (sr [(1, 0x3FC00000)]) 3 0 = some 0x3FC00000#32 := by decide +kernel

/-- Example 05.2: three lanes spawn and leave the mask; 240 bytes are written. -/
def brsState : State := lv 5 (fun l => if l = 3 ∨ l = 17 ∨ l = 30 then 1 else 0)
  ((sr [(9, 3)]).modWarp 0 (fun w => { w with idx := 2, budget := 32 }))
theorem test_brs_mask : (ran (.brs ⟨0, true, false, 5⟩ 9 12) brsState).map (fun w => w.exm) = some 0xBFFDFFF7#32 := by decide +kernel
theorem test_brs_bytes : (wgOf (.brs ⟨0, true, false, 5⟩ 9 12) brsState).map (fun g => g.pond.map (fun e => (e.lane, e.bytes))) =
    some [(3, 80), (17, 80), (30, 80)] := by decide +kernel
theorem test_bra_back : pcOf (ran (.bra z 0xFFFFFE) s0) = some 0xFFF8 := by decide
theorem test_call_link : (ran (.call z 4 1) s0).map (fun w => (w.pc.toNat, laneVal (w.reg 4).vals 9)) = some (0x10010, 0x10008#32) := by decide
theorem test_jmp_misaligned : cause (ran (.jmp z 2) (sr [(2, 0x10004)])) = some 0x03 := by decide
theorem test_loop_absent : cause (ran (.loop z 0 0) s0) = some 0x0602 := by decide
theorem test_mand : (ran (.mand z 3 1) (lv 1 (fun l => if l < 4 then 1 else 0) s0)).map (fun w => (w.exm, laneVal (w.reg 3).vals 31)) =
    some (0xF#32, 0xFFFFFFFF#32) := by decide
theorem test_meld_paths : (ran (.meld z 4) (lv 4 (fun l => if l = 0 then 1 else 0) s0)).map (fun w => (w.paths, w.melded, w.entryMask)) =
    some (1#32, true, 0xFFFFFFFF#32) := by decide
theorem test_endmeld_outside : cause (ran (.endmeld z) s0) = some 0x08 := by decide
theorem test_align_own_bit : cause (ran (.align z 1) (sr [(1, 2)])) = some 0x0A := by decide
theorem test_exit_ends : ran (.exit z) s0 = none := by decide

/-! ## Memory and synchronisation -/

/-- A byte of private memory. -/
def mb (a : Nat) (bs : List Byte) (s : State) : State := s.putAt 0 (locPriv 0 a) bs
theorem test_ld_signed_byte : got (.ld z .priv .si8 3 1 0) (mb 7 [0x80] (sr [(1, 7)])) 3 0 = some 0xFFFFFF80#32 := by decide +kernel
theorem test_ld_word_order : got (.ld z .priv .w32 3 1 4) (mb 4 [1, 2, 3, 4] s0) 3 0 = some 0x04030201#32 := by decide +kernel
theorem test_ld_misaligned : cause (ran (.ld z .priv .w32 3 1 2) s0) = some 0x03 := by decide +kernel
theorem test_st_low_byte : (after (.st z .priv .w8 2 1 0) (sr [(1, 9), (2, 0x1234)])).map (fun t => t.bytesAt 0 (locPriv 0 8) 3) =
    some [0, 0x34, 0] := by decide +kernel
theorem test_st_last_lane : (after (.st z .priv .w32 2 1 0) (lv 2 (fun l => BitVec.ofNat 32 l) s0)).map (fun t =>
    t.byteAt 0 (locPriv 0 0)) = some 31 := by decide +kernel
/-- R234: the lanes' turns come in ascending order. -/
theorem test_atom_turns : got (.atomAdd z 0 .priv false 3 1 2) (sr [(1, 16), (2, 1)]) 3 31 = some 31#32 := by decide +kernel
theorem test_atom_inc_wraps : (after (.atomInc z 0 .priv 3 1 2) (sr [(1, 16), (2, 3)])).map (fun t => t.byteAt 0 (locPriv 0 16)) = some 0 := by
  decide +kernel
theorem test_fence_completes : pcOf (ran (.fenceRel z 5) s0) = some 0x10008 := by decide +kernel
/-- Example 08.1, step 1: an initialised word with generation 6 and two members. -/
theorem test_binit_word : (match exec (.barrierUpdate 0 0) ((mb 16 [0, 0, 0, 0, 0, 0, 5, 0] s0).modWg 0 (fun g =>
    { g with barPend := [⟨2, .init 2, 0, 0⟩] })) with
    | .next t => some (leNat (t.bytesAt 0 (locPriv 0 16) 8))
    | _ => none) = some 0x0006020000000000 := by decide +kernel
/-- Example 08.1, step 4: an arrival that expects 8,192 bytes, 4,096 of them landed. -/
theorem test_barv_exp_word : (match exec (.barrierUpdate 0 0) ((mb 16 [0, 0xF0, 0xFF, 0xFF, 0, 2, 6, 0] s0).modWg 0 (fun g =>
    { g with barPend := [⟨2, .arriveExp 8192, 0, 0⟩] })) with
    | .next t => some (leNat (t.bytesAt 0 (locPriv 0 16) 8))
    | _ => none) = some 0x0006020100001000 := by decide +kernel
theorem test_binit_zero : cause (ran (.binit z 2 1) s0) = some 0x41 := by decide +kernel
theorem test_qmov_full : (ran (.qmovPush z 2 1) (sg (fun g => { g with queues := List.replicate 8 (List.replicate 4 ⟨[], 0⟩) }))).map
    (fun w => (w.pc.toNat, decide (w.wait = .queue))) = some (0x10000, true) := by decide +kernel
theorem test_qmov_stat : got (.qmovStat z 3 1) (sg (fun g => { g with queues := List.replicate 8 [⟨[], 0⟩] })) 3 5 = some 1#32 := by
  decide +kernel

/-! ## Copies, tables, matrices, launch and system instructions -/

/-- The record of the clipping example of 06_memory.md. -/
def pat : PatRec :=
  ⟨true, false, false, false, 0x800000000, false, false, 0, 0, 0, 2, 0, [40, 64], [1, 40], 0, [8, 2]⟩
theorem test_record_offset : pat.offset (pat.at [36, 63] 3) = 2559 := by decide
theorem test_record_clipped : pat.clipped (pat.at [36, 63] 3) = false ∧ pat.clipped (pat.at [36, 63] 4) = true ∧
    pat.clipped (pat.at [36, 63] 8) = true := by decide
theorem test_cpyl_length : cause (ran (.cpylG z 1 2 4) (sr [(6, 8)])) = some 0x0602 := by decide +kernel
theorem test_btfree_foreign : cause (ran (.btfree z 3 1 2) s0) = some 0x19 := by decide +kernel
theorem test_cperr : got (.cperr z 4) (sg (fun g => { g with errRec := [1, 2, 3, 4] })) 6 9 = some 3#32 := by decide +kernel
/-- Example 10.1: one rounding for the group, a tie to even. -/
theorem test_group_sum : f32Word .rn (exactSum ((0x4B80 :: List.replicate 31 0x3F80).map Fmt.bf16.value)
    (weights .q4 (List.replicate 16 0x11) 32)) = 0x4B800010#32 := by decide +kernel
/-- R335: a mill load on an Impala core. -/
theorem test_mlw_impala : cause (ran (.mlw z .q4 1 2) s0) = some 0x04 := by decide +kernel
theorem test_ard : got (.ard z 3 1 2) (sg (fun g => { g with acc := [(accKey 1 2 3, 7)] }) |> fun s =>
    s.modWarp 0 (fun w => (w.setReg 1 ⟨.uniform, laneSplat 1, 0⟩).setReg 2 ⟨.uniform, laneSplat 0x20003, 0⟩)) 3 4 = some 7#32 := by
  decide +kernel
theorem test_prio_range : cause (ran (.prio z 1) (sr [(1, 4)])) = some 0x0602 := by decide
theorem test_wgq_scratch : got (.wgq z 3 1) (sr [(1, 11)]) 3 0 = some 4096#32 := by decide +kernel
theorem test_pmrd : got (.pmrd z 4 1) (sg (fun g => { g with perf := List.replicate 16 0x100000002#64 }) |> fun s =>
    s.modWarp 0 (fun w => w.setReg 1 ⟨.uniform, laneSplat 1, 0⟩)) 5 0 = some 1#32 := by decide +kernel
theorem test_srd_lane : got (.srd z 3 0x01) s0 3 17 = some 17#32 := by decide
theorem test_swr_mask : (ran (.swr z 1 0x00) (sr [(1, 0xFF)])).map (fun w => w.exm) = some 0xFF#32 := by decide
theorem test_tret_outside : cause (ran (.tret z) s0) = some 0x0502 := by decide
theorem test_genwait_foreign : cause (ran (.genwait z 3 1) (sr [(1, 5)])) = some 0x38 := by decide +kernel
/-- A state whose address space 0 delegates every cause to a handler at 0x2000. -/
def delegating : State := s0.modHub 0 (fun h => { h with trapDescs := [(0, { valid := true, tbase := 0x2000, deleg := 2 ^ 256 - 1 })] })
/-- R381: `TRAPI 7` with the cause delegated. -/
theorem test_trapi_entry : (ran (.trapi z 7) delegating).map (fun w => (w.trap, w.pc.toNat, w.epc, w.cause)) =
    some (true, 0x2000, 0x10000#32, 0x49#32) := by decide +kernel
theorem test_trapi_value : (ran (.trapi z 7) delegating).map (fun w => (laneVal w.tval 3, laneVal w.tvalh 3, w.trapMask, w.exm)) =
    some (7#32, 0x80000000#32, 0xFFFFFFFF#32, 0xFFFFFFFF#32) := by decide +kernel
/-- R382: the return takes the saved mask and address. -/
theorem test_tret : (ran (.tret z) (sw (fun w => { w with trap := true, trapMask := 3, epc := 0x40 }))).map (fun w =>
    (w.trap, w.pc.toNat, w.exm)) = some (false, 0x40, 3#32) := by decide +kernel
theorem test_xrd : got (.xrd z 3 2) ((sr [(242, 5)]).modWarp 0 (fun w => { w with trap := true })) 3 0 = some 5#32 := by decide +kernel
theorem test_cxwr_loops : cause (ran (.cxwr z 1 0x30) ((sr [(1, 1)]).modWarp 0 (fun w => { w with trap := true }))) = some 0x0602 := by
  decide +kernel

/-! ## The Kudus, the hubs, the ports and the security engine -/

/-- A hart after an instruction. -/
def hartOf (i : Instr) (s : State) (n : Nat) : Option Hart :=
  match exec i s with
  | .next t => some (t.hartOf n)
  | _ => none
theorem test_vspawn_denied : (hartOf (.vspawn 5 9 18 19) { s0 with hart := 8 } 8).map (fun h => h.x 5) = some (-1#64) := by decide +kernel
theorem test_step_vjoin : ((stepped (State.reset.placeKudu 0x0005950B)).map (fun t => ((t.hartOf 8).pc.toNat, (t.hartOf 8).x 10))).isSome =
    true := by decide +kernel
theorem test_vqwait_waits : (hartOf (.vqwait 5) { s0 with hart := 8 } 8).map (fun h => h.waiting) = some true := by decide +kernel
theorem test_spawn_register : (hartOf (.spawnCsrAccess 8 .vhasid true 0x12345 5) (s0.setHart 8 { (s0.hartOf 8) with mode := 3 }) 8).map
    (fun h => h.vhasid) = some 0x2345#16 := by decide +kernel
/-- Example 14.1: slice 24 of hub 1. -/
theorem test_line_home : lineHome 0x61234567 = 1 * 32 + 24 := by decide
theorem test_doorbell_error : (after (.doorbellWrite 0 3 5) s0).map (fun t => ((t.queue 0 3).error, (t.queue 0 3).write)) =
    some (true, 0) := by decide +kernel
theorem test_admission_limit : (after (.admissionLimitWrite 0 15) s0).map (fun t => (t.core 0).limit) = some 64 := by decide +kernel
theorem test_port_ack : (after (.chipletAck 0 2) (s0.modPort 0 2 (fun p => { p with state := .assigned }))).map (fun t =>
    decide ((t.port 0 2).state = .running)) = some true := by decide +kernel
theorem test_power_limit : (after (.powerLimitWrite 1 9999) s0).map (fun t => (t.hub 1).powerLimit) = some 4400#16 := by decide +kernel
theorem test_kill_generation : (after (.contextKill 4) s0).map (fun t => (t.gen 4, t.gen 3)) = some (1, 0) := by decide +kernel
theorem test_lock : (after (.extend 7 [] []) { s0 with engine := { s0.engine with locked := true } }).map (fun t => t.engine.answer.1) =
    some 4 := by decide +kernel
theorem test_event_kind : (after (.eventPost 0 1 3 9) ((s0.modQueue 0 1 (fun q => { q with bound := some 8, vdev := 2 })).modPort 0 0
    (fun p => { p with state := .running }))).map (fun t => (t.hartOf 8).events) = some [(0x3080000100000009#64, 0)] := by decide +kernel

/-! ## Witnesses: states and operands that meet the hypotheses of the statements -/

/-- The context in which warp 0 of a state issues an unguarded instruction. -/
def cx (s : State) : Ctx := (s.ctx z).getD ⟨0, placedWarp 0, placedWg, 0⟩
/-- The uses of the arithmetic pairs. -/
def pairUse (srcs : List Src) (dsts : List (Nat × Nat)) : Use := ⟨srcs, dsts, true, true, false, false, 0, false, none, false, none⟩
/-- The same for instructions outside windows and melded regions. -/
def bareUse (srcs : List Src) (dsts : List (Nat × Nat)) : Use := ⟨srcs, dsts, false, false, false, false, 0, false, none, false, none⟩
/-- The same for instructions legal in windows alone. -/
def winUse (srcs : List Src) (dsts : List (Nat × Nat)) : Use := ⟨srcs, dsts, true, false, false, false, 0, false, none, false, none⟩
/-- The same for instructions legal in melded regions alone. -/
def meldUse (srcs : List Src) (dsts : List (Nat × Nat)) : Use := ⟨srcs, dsts, false, true, false, false, 0, false, none, false, none⟩
/-- The same for mask instructions. -/
def maskUse (srcs : List Src) (dsts : List (Nat × Nat)) : Use := ⟨srcs, dsts, true, true, false, true, 0, false, none, false, none⟩
/-- The same for trap-mode instructions. -/
def trapUse (srcs : List Src) (dsts : List (Nat × Nat)) (room : Nat) : Use := ⟨srcs, dsts, true, true, true, false, room, false, none, false, none⟩
/-- A state whose warp is in trap mode. -/
def st : State := sw (fun w => { w with trap := true })
/-- A state whose warp is in a melded region. -/
def sm : State := sw (fun w => { w with melded := true, entryMask := 0xFFFF#32 })

theorem witness_IntegerArithmetic : ∀ u ∈ [useA [1] 3, useA [1, 2] 3, useA [1, 2, 4] 3, pairUse [srcA 2 2, srcA 4 2] [(6, 2)],
    pairUse [srcA 2 2] [(6, 2)], pairUse [srcA 2 2, srcA 1 1] [(6, 2)], pairUse [srcA 1 1, srcA 2 1] [(6, 2)]],
    (cx s0).ready s0 z u := by simp only [Ctx.ready, Use.clear, Ctx.calm]; decide +kernel
theorem witness_BitsAndShifts : ∀ u ∈ [useA [1, 2] 3, useA [1] 3, useA [1, 2, 4] 3], (cx s0).ready s0 z u := by
  simp only [Ctx.ready, Use.clear, Ctx.calm]; decide +kernel
theorem witness_SelectCompareImmediate :
    (∀ n ∈ [0x10, 0x18, 0x19, 0x1A, 0x1B], (Raw.ofWord (0x0003000304010200#64 + BitVec.ofNat 64 n)).major = 0x03#6 ∧
      (Raw.ofWord (0x0003000304010200#64 + BitVec.ofNat 64 n)).hdr.ok .any = true ∧
      (Raw.ofWord (0x0003000304010000#64 + BitVec.ofNat 64 n)).minor.toNat = n ∧
      (Raw.ofWord (0x0003000304010000#64 + BitVec.ofNat 64 n)).c = 0) ∧
    (∀ u ∈ [useA [1, 2, 4] 3, useA [1, 2] 3, useA [] 3, pairUse [⟨1, 1, .none⟩] [(3, 1)]], (cx s0).ready s0 z u) ∧
    (cx s0).act = 0xFFFFFFFF#32 ∧
    (cx (sw (fun w => { w with exm := 5 }))).ready (sw (fun w => { w with exm := 5 })) z (useA [] 3) ∧
    (cx (sw (fun w => { w with exm := 5 }))).act ≠ 0xFFFFFFFF#32 := by
  simp only [Ctx.ready, Use.clear, Ctx.calm]; decide +kernel
theorem witness_FloatArithmetic : ∀ u ∈ [useA [1] 3, useA [1, 2] 3, useA [1, 2, 4] 3], (cx s0).ready s0 z u := by
  simp only [Ctx.ready, Use.clear, Ctx.calm]; decide +kernel
theorem witness_ConversionsAndCrossLane :
    ∀ u ∈ [useA [1] 3, useA [1, 2] 3, useA ([1, 2] ++ [4]) 3, useA ([1, 2] ++ [4] ++ [3]) 3, useA ([1, 2] ++ [] ++ [3]) 3,
      winUse [srcA 1] [(3, 1)], winUse [⟨1, 1, .first 4⟩] [(3, 1)], winUse [⟨1, 1, .picked 2⟩, srcA 2] [(3, 1)]],
    (cx s0).ready s0 z u := by simp only [Ctx.ready, Use.clear, Ctx.calm]; decide +kernel

/-- A guarded header whose guard register reads 0 in every lane. -/
def gz : Hdr := ⟨0, true, false, 4⟩
/-- The context of a guarded instruction. -/
def cg (s : State) : Ctx := (s.ctx gz).getD ⟨0, placedWarp 0, placedWg, 0⟩
/-- A workgroup with a temporal level of extent 3 at iteration 0 and one of extent 1. -/
def loops : State := sg (fun g => { g with loops := [⟨3, .temporal⟩, ⟨1, .temporal⟩, ⟨0, .absent⟩, ⟨0, .absent⟩, ⟨0, .absent⟩, ⟨0, .absent⟩] })
theorem witness_BranchesCallsAndLoops :
    (cx s0).ready s0 z {} ∧ (cg s0).ready s0 gz {} ∧ (cx s0).ready s0 z (bareUse [] [(4, 2)]) ∧
    (cg s0).ready s0 gz (bareUse [] [(4, 2)]) ∧ (cg s0).act = 0 ∧ (cx s0).w.guard z 0 = true ∧ (cg s0).w.guard gz 0 = false ∧
    (cx loops).ready loops z {} ∧
    ((cx loops).g.loops.getD 0 ⟨0, .absent⟩).mark = .temporal ∧ 0 + 1 < ((cx loops).g.loops.getD 0 ⟨0, .absent⟩).extent ∧
    ((cx loops).g.loops.getD 1 ⟨0, .absent⟩).mark = .temporal ∧ ((cx loops).g.loops.getD 1 ⟨0, .absent⟩).extent ≤ 0 + 1 ∧
    ((cx loops).g.loops.getD 5 ⟨0, .absent⟩).mark ≠ .temporal := by
  simp only [Ctx.ready, Use.clear, Ctx.calm]; decide +kernel
theorem witness_IndirectJumps :
    (∀ u ∈ [bareUse [srcL 2 2] [], bareUse [srcL 2 2] [(4, 2)]], (cx s0).ready s0 z u ∧ (cg s0).ready s0 gz u) ∧
    (cx s0).act.getLsbD 0 = true ∧ ((cx s0).val64 2 0).toNat % 8 = 0 ∧ (∀ l, l < 32 → (cg s0).act.getLsbD l = false) ∧
    (cx (sr [(2, 4)])).ready (sr [(2, 4)]) z (bareUse [srcL 2 2] []) ∧ ((cx (sr [(2, 4)])).val64 2 0).toNat % 8 ≠ 0 := by
  simp only [Ctx.ready, Use.clear, Ctx.calm]; decide +kernel
theorem witness_MasksAndMeldedRegions :
    (∀ u ∈ [maskUse [⟨1, 1, .mask⟩] [(3, 1)], maskUse [src0 1] [], bareUse [⟨4, 1, .mask⟩] [], bareUse [] [], meldUse [] []],
      (cx s0).ready s0 z u) ∧
    (∀ u ∈ [maskUse [⟨1, 1, .mask⟩] [(3, 1)], maskUse [src0 1] [], meldUse [] []], (cx sm).ready sm z u) ∧
    (cx s0).w.trap = false ∧ (cx s0).w.melded = false ∧ (cx sm).w.trap = false ∧ (cx sm).w.melded = true ∧
    (cx st).ready st z (meldUse [] []) ∧ (cx st).w.trap = true ∧ (cx st).w.melded = false ∧
    (let s := st.modWarp 0 (fun w => { w with melded := true })
     (cx s).ready s z (meldUse [] []) ∧ (cx s).w.trap = true ∧ (cx s).w.melded = true) := by
  simp only [Ctx.ready, Use.clear, Ctx.calm]; decide +kernel

/-- The header of a `BRS` on register 5. -/
def hb : Hdr := ⟨0, true, false, 5⟩
/-- A state in which the spawn memory is nearly full. -/
def pondFull : State := lv 5 (fun l => if l < 3 then 1 else 0) (sr [(9, 0xFFFFFFFF)])
theorem witness_SpawningBranch :
    (∀ s ∈ [s0, brsState, sr [(5, 1)], pondFull], (cx s).ready s { hb with g := false, sense := false, guard := 0 }
      { bareUse [⟨hb.guard.toNat, 1, .mask⟩, src0 9] [] with split := some hb.guard.toNat }) ∧
    (liveRegs 256 0xFFFFFFFF#32).any (cx pondFull).w.heldRead.contains = false ∧ (cx pondFull).w.active hb ≠ 0 ∧
    (cx pondFull).w.exm &&& ~~~((cx pondFull).w.active hb) ≠ 0 ∧
    (cx s0).w.active hb = 0 ∧ ((cx (sr [(5, 1)])).w.active hb ≠ 0 ∧ (cx (sr [(5, 1)])).w.exm &&& ~~~((cx (sr [(5, 1)])).w.active hb) = 0) ∧
    ((cx brsState).w.active hb ≠ 0 ∧ (cx brsState).w.exm &&& ~~~((cx brsState).w.active hb) ≠ 0 ∧
      (liveRegs 32 3).any (cx brsState).w.heldRead.contains = false ∧ 3 * (16 + 4 * (liveRegs 32 3).length) ≤ brsState.pondFree 0) := by
  simp only [Ctx.ready, Use.clear, Ctx.calm]; decide +kernel
theorem witness_WindowsAndExit :
    (∀ s ∈ [s0, sr [(1, 1)]], (cx s).ready s z (bareUse [src0 1] []) ∧ (cx s).ready s z {} ∧ (cx s).ready s z (bareUse [] []) ∧
      (cx s).w.pend = []) ∧
    ((cx s0).val 1 0).getLsbD (cx s0).w.idx = false ∧ ((cx (sr [(1, 1)])).val 1 0).getLsbD (cx (sr [(1, 1)])).w.idx = true ∧
    (cx (sr [(1, 1)])).g.win = none ∧ (cx s0).w.window = false ∧
    (∀ x ∈ [(⟨1, 0, false, false, 0, 0, 4, 0⟩ : Window), ⟨3, 0, false, false, 0, 0, 4, 0⟩, ⟨1, 1, true, false, 0, 1, 4, 0⟩],
      (cx ((sr [(1, 1)]).modWg 0 (fun g => { g with win := some x }))).ready ((sr [(1, 1)]).modWg 0 (fun g => { g with win := some x })) z
        (bareUse [src0 1] [])) ∧
    (∀ s ∈ [st, st.modWarp 0 (fun w => w.setReg 1 ⟨.general, laneSplat 1, 0⟩), (st.modWarp 0 (fun w => w.setReg 1 ⟨.general, laneSplat 1, 0⟩)).modWg 0
        (fun g => { g with win := some ⟨3, 0, false, false, 0, 0, 4, 0⟩ })],
      (cx s).ready s z (bareUse [src0 1] []) ∧ (cx s).w.trap = true) ∧
    (cx (sw (fun w => { w with window := true }))).ready (sw (fun w => { w with window := true })) z {} := by
  simp only [Ctx.ready, Use.clear, Ctx.calm]; decide +kernel

theorem witness_WritesRead : s0.inv ∧ Table.wf RegVal.zero (placedWarp 0).regs = true ∧ (placedWarp 0).inWindow = false ∧
    (sw (fun w => { w with window := true })).ctx z ≠ none ∧ (cx (sw (fun w => { w with window := true }))).w.inWindow = true ∧
    5 ∉ (placedWarp 0).slotsOf 3 1#32 ∧ (placedWarp 0).meldName 3 = false := by
  refine ⟨⟨?_, ?_⟩, ?_⟩ <;> decide +kernel
/-- A state in whose cluster bank 0 is plain memory of world 0 and device 0. -/
def banked (mode : BitVec 2) : State := s0.setBank 0 ⟨mode, 0, 0, 0, [], 0, []⟩
/-- The same while it switches to plain memory. -/
def switching : State := s0.setBank 0 ⟨2, 0, 0, 0, [], 0, [⟨1, 0, 0, 0⟩]⟩
theorem witness_Loads :
    ((cx s0).ready s0 z (pairUse [srcA 1 1] [(3, 1)]) ∧ (cx s0).w.inWindow = false ∧ (cx s0).g.barPend = [] ∧
      Table.wf RegVal.zero (cx s0).w.regs = true ∧
      ∀ l, l < 32 → ((cx s0).val 1 l).toNat % 4 = 0 ∧ ((cx s0).val 1 l).toNat + 4 ≤ (cx s0).g.scratch ∧
        ((span 3 1).map (fun r => (cx s0).w.slot r l)).Nodup ∧ rangeHit (s0.core 0).locks 0 0 0 4 false = false ∧
        s0.poisonAt (locPriv 0 0) 4 = false ∧ (cx s0).meetsSupplied 4 [(l, locPriv 0 0, 0)] = false) ∧
    ((cx switching).ready switching z (meldUse [addrSrc .clus 1] [(3, 1)]) ∧
      switching.bankHeld 0 .clus ((cx switching).addrs .clus 1 0) = true) ∧
    (let s := banked 1
     (cx s).ready s z (meldUse [addrSrc .clus 1] [(3, 1)]) ∧ (cx s).ready s z (meldUse [addrSrc .clus 1] [(3, 1), (4, 1)]) ∧
     (match (checkLanes s (cx s).g 0 (spCode .clus) 4 4 false .load true ((cx s).addrs .clus 1 0)) with
      | (.ok locs, t) => decide (locs ≠ []) && t.fifoReady locs && !(cx s).meetsSupplied 4 locs &&
          !s.bankHeld 0 .clus ((cx s).addrs .clus 1 0)
      | _ => false) = true) ∧
    (let s := banked 2
     (cx s).ready s z (meldUse [addrSrc .clus 1] [(4, 4)]) ∧
     (match (checkLanes s (cx s).g 0 (spCode .clus) 16 16 true .load true ((cx s).addrs .clus 1 0)) with
      | (.ok locs, t) => !t.fifoReady locs
      | _ => false) = true) := by
  simp only [Ctx.ready, Use.clear, Ctx.calm]; decide +kernel
theorem witness_Stores :
    ((cx s0).ready s0 z (pairUse [srcA 1 1, srcA 2 1] []) ∧ (cx s0).w.pend = [] ∧ (cx s0).g.barPend = [] ∧
      rangeHit (s0.core 0).locks 0 0 0 4 true = false ∧ (cx s0).meetsSupplied 4 [(0, locPriv 0 0, 0)] = false) ∧
    (∀ m ∈ [(1 : BitVec 2), 2], let s := banked m
     (cx s).ready s z (meldUse [addrSrc .clus 1, srcA 4 4] []) ∧
     (match (checkLanes s (cx s).g 0 (spCode .clus) 16 16 true .store true ((cx s).addrs .clus 1 0)) with
      | (.ok locs, t) => t.fifoRoom locs && !locs.any (fun e => (cx s).w.loading e.2.1 16) && !(cx s).meetsSupplied 16 locs &&
          !s.bankHeld 0 .clus ((cx s).addrs .clus 1 0)
      | _ => false) = true) ∧
    (let s := s0.setBank 0 ⟨2, 0, 0, 0, List.replicate 8192 [], 0, []⟩
     (match (checkLanes s (cx s).g 0 (spCode .clus) 16 16 true .store true ((cx s).addrs .clus 1 0)) with
      | (.ok locs, t) => !t.fifoRoom locs
      | _ => false) = true) := by
  simp only [Ctx.ready, Use.clear, Ctx.calm]; decide +kernel
theorem witness_MisalignedAccess : (∀ l, l < 32 → (cx s0).act.getLsbD l = true) ∧
    (sr [(2, 2)]).bankHeld 0 .clus ((cx (sr [(2, 2)])).addrs .clus 2 0) = false ∧
    (let s := sr [(2, 2)]
     (cx s).ready s z (pairUse [addrSrc .priv 2] [(4, 1)]) ∧ (cx s).ready s z (meldUse [addrSrc .clus 2] [(4, 1)]) ∧
     (cx s).ready s z (meldUse [addrSrc .glob 2] [(4, 1)]) ∧ (cx s).ready s z (pairUse [addrSrc .priv 2, srcA 4 1] []) ∧
     (cx s).ready s z (meldUse [addrSrc .glob 2, srcA 4 1] []) ∧ ((cx s).val 2 0).toNat % 4 ≠ 0 ∧ ((cx s).val64 2 0).toNat % 4 ≠ 0) := by
  simp only [Ctx.ready, Use.clear, Ctx.calm]; decide +kernel

/-- A state whose translation cache maps the page 0x10000 for data, with v2, v3 naming it in every lane. -/
def glob : State := (sr [(2, 0x10000)]).modCore 0 (fun c => { c with dtlb := [⟨0, 0x10000, 4096, 0x10000, true, true, false, 0, 0⟩] })
/-- Whether the checks of a lane access pass, and more holds of what they give. -/
def passing (s : State) (sp : Space) (n : Nat) (acc : AccessKind) (a : Reg) (p : List (Nat × Nat × Nat) → State → Bool) : Bool :=
  match checkLanes s (cx s).g 0 (spCode sp) n n false acc true ((cx s).addrs sp a 0) with
  | (.ok locs, t) => p locs t
  | _ => false
/-- A scratchpad bank that core 0's world and device own, v1 naming it and v2 a selector. -/
def bankSel (mode : BitVec 2) (num sel : Word) : State := (sr [(1, num), (2, sel)]).setBank num.toNat ⟨mode, 0, 0, 0, [], 0, []⟩
theorem witness_LinesAndBanks :
    ((cx glob).ready glob z (meldUse [srcA 2 2] []) ∧
      passing glob .glob 1 .load 2 (fun locs _ => !locs.any (fun e => (cx glob).w.loading (e.2.1 / 256 * 256) 256)) = true) ∧
    (∀ k ∈ [0, 1, 4], let s := bankSel 1 0 (BitVec.ofNat 32 k)
      (cx s).ready s z (bareUse [src0 1, src0 2] [(3, 1)]) ∧ ((cx s).val 2 0).toNat ≤ 4 ∧
      ((cx s).val 1 0).toNat < kindBanks (chipKind (coreCluster 0 / 8))) ∧
    ((cx (bankSel 1 0 0)).val 2 0 = 0 ∧ (cx (bankSel 1 0 4)).val 2 0 = 4) ∧
    (∀ k ∈ [1, 2, 3], let s := bankSel 1 (BitVec.ofNat 32 (kindBanks 0 - 1)) (BitVec.ofNat 32 k)
      (cx s).ready s z (bareUse [src0 1, src0 2] [(3, 1)]) ∧ s.inv ∧ (s.bank (kindBanks 0 - 1)).switching = [] ∧
      s.bankReady (kindBanks 0 - 1) = true ∧ s.bankWaits (kindBanks 0 - 1) = false ∧ (cx s).w.bankOp = none ∧ (s.bank (kindBanks 0 - 1)).mode ≠ 0 ∧ (s.bank (kindBanks 0 - 1)).vdev.toNat = (cx s).g.vdev) ∧
    (let s := (bankSel 1 0 2).modCore 0 (fun c => { c with copyQ := [(cx s0).leatOp .g2c 1 0 noRecord [] 0] })
     (cx s).ready s z (bareUse [src0 1, src0 2] [(3, 1)]) ∧ s.bankWaits 0 = false ∧ s.bankReady 0 = false ∧ (s.bank 0).switching = [] ∧
     (s.bank 0).mode = 1) := by
  simp only [Ctx.ready, Use.clear, Ctx.calm, State.inv, Memory.wf]; decide +kernel

/-- The bytes of a record of one element of four bytes in F32. -/
def rec1 (w1 : Nat) : List Byte :=
  [0x10000, w1, 2 ^ 32 + 1, 2 ^ 32 + 1, 2 ^ 32 + 1, 2 ^ 32 + 1, 0, 2 ^ 48 + 2 ^ 32 + 2 ^ 16 + 1].flatMap (leBytes 8)
/-- A state with such a record at private address 0, which v1 names. -/
def withRec (w1 : Nat) : State := mb 0 (rec1 w1) (sr [(1, 0x80000000)])
/-- An open stream of the warp over that record. -/
def stm (store : Bool) : Stream :=
  { opened := true, store := store, owner := 0, record := recOf (recWords (rec1 0x201)), coords := [0, 0, 0, 0], total := 1 }
/-- The state with a stream in slot 2. -/
def streaming (x : Stream) : State := sg (fun g => { g with streams := [(2, x)] })
theorem witness_Streams :
    (let s := withRec 0x201
     (cx s).ready s z (bareUse [src0 1, src0 4 4] []) ∧ Table.find 2 (cx s).g.streams = none ∧
     (match s.readRecord 0 (cx s).g ((cx s).val 1 0) with
      | (.ok bs, _) => (recFails (recWords bs) 0 false).isNone && !(recOf (recWords bs)).block
      | _ => false) = true) ∧
    (∀ x ∈ [stm false, stm true, { stm false with opened := false }, { stm false with owner := 1 }], let s := streaming x
      (cx s).ready s z (bareUse [src0 1, src0 4 4] []) ∧ (cx s).ready s z (bareUse [] []) ∧
      (cx s).ready s z (bareUse [] [(3, 1)]) ∧ (cx s).ready s z (bareUse [srcA 4 1] []) ∧ Table.find 2 (cx s).g.streams = some x) ∧
    usable (some { stm false with opened := false }) 0 false .w32 = none ∧
    (let x : Stream := { stm false with queue := [⟨some 0, 0, 0, true, [1, 2, 3, 4], false, 0⟩] }
     usable (some x) 0 false .w32 = some x ∧ min 32 (x.total - x.done) ≤ x.queue.length ∧
     Table.wf RegVal.zero (placedWarp 0).regs = true) ∧
    ((streaming (stm false)).closeStream 0 2).isSome = true ∧ usable (some (stm true)) 0 true .w32 = some (stm true) ∧
    (let s := (streaming (stm true)).modCore 0 (fun c => { c with dtlb := [⟨0, (stm true).record.base, 4096, 0x10000, true, true, false, 0, 0⟩] })
     let r := s.resolveLanes (s.streamResolver 0 (cx s).g (stm true)) (stm true) .store [(0, 0)]
     ((List.range 32).filter (fun l => (cx s).act.getLsbD l && decide ((stm true).done + l < (stm true).total))).map (fun l => (l, (stm true).done + l))
       = [(0, 0)] ∧ (cx s).ready s z (bareUse [srcA 4 1] []) ∧ r.1 = [] ∧
     (r.2.1.all (fun e => match e.2.2 with | .ok _ _ _ _ => true | _ => false)) = true) := by
  simp only [Ctx.ready, Use.clear, Ctx.calm]; decide +kernel

/-- The uses of a synchronisation access. -/
def syncUse (srcs : List Src) (dsts : List (Nat × Nat)) (meld : Bool) (sc : Nat) : Use :=
  ⟨srcs, dsts, false, meld, false, false, 0, false, some sc, false, none⟩
theorem witness_AccessesPresent :
    (∀ sc ∈ [0, 2, 10], (cx s0).ready s0 z (syncUse [addrSrc .priv 1, srcA 2 1] [(3, 1)] true sc) ∧
      (cx s0).ready s0 z (syncUse [joinSrc .priv 1, src0 2] [] false sc)) ∧
    passing s0 .priv 4 .rmw 1 (fun locs _ => !s0.syncOrder (cx s0) 2 4 locs && decide (locs ≠ []) &&
      s0.released 0 (cx s0).g (cx s0).w 2) = true ∧
    (cx glob).ready glob z (syncUse [addrSrc .glob 2, srcA 4 1] [(6, 1)] true 7) ∧
    (cx glob).ready glob z (syncUse [addrSrc .glob 2, srcA 4 2] [(6, 2)] true 7) ∧
    (cx glob).ready glob z (syncUse [joinSrc .glob 2] [(6, 1)] false 7) ∧
    passing glob .glob 8 .rmw 2 (fun locs _ => !glob.syncOrder (cx glob) 7 8 locs && decide (locs ≠ []) &&
      glob.released 0 (cx glob).g (cx glob).w 7) = true ∧ (cx glob).w.sync = none ∧ (cx glob).g.barPend = [] ∧
    glob.bankHeld 0 .glob ((cx glob).addrs .glob 2 0) = false ∧ s0.bankHeld 0 .priv ((cx s0).addrs .priv 1 0) = false := by
  simp only [Ctx.ready, Use.clear, Ctx.calm]; decide +kernel

/-- A warp that waits for the checker with an atomic on line 0x100 of package scope. -/
def checking (sc : Nat) : State := glob.modWarp 0 (fun w => { w with sync := some ⟨.atom .add, sc, 4, 2, [⟨0, 0x10000, 0x10000, 0, 1, 0, [3]⟩], none, some []⟩ })
/-- The same where the line holds the record of an access of core 1 of workgroup scope. -/
def meeting0 : State := { checking 7 with recs := [(0x100, ⟨3, ⟨0, 0, 0, 1, 9, 9, 0, 0, 0, 0, none⟩⟩)] }
theorem witness_AtomicsAndChecker :
    ((∀ u ∈ [syncUse [addrSrc .priv 1, srcA 2] [(3, 1)] true 0, syncUse [addrSrc .priv 1, srcA 2, srcA 3] [(3, 1)] true 0],
        (cx s0).ready s0 z u) ∧ s0.inv ∧ (cx s0).w.sync = none ∧ (cx s0).w.pend = [] ∧ (cx s0).g.barPend = [] ∧
      Table.wf RegVal.zero (cx s0).w.regs = true ∧ (s0.core 0).writes = [] ∧ s0.poisonAt (locPriv 0 0) 4 = false ∧
      rangeHit (s0.core 0).locks 0 0 0 4 true = false ∧ ((cx s0).val 1 0).toNat + 4 ≤ (cx s0).g.scratch ∧
      (cx s0).meetsSupplied 4 [(0, locPriv 0 0, 0)] = false) ∧
    (∀ s ∈ [checking 7, meeting0], (match Table.find 0 s.warps with
      | some w => (match w.sync with
        | some r => decide (r.kind ≠ .acq) && decide (r.seen = none) && decide (r.space ≠ 0) && (s.syncBanks placedWg r).isNone &&
            (s.askHome 0 placedWg r).isNone && !s.bankHeld 0 .priv r.addrs && (s.syncLate ⟨0, w, placedWg, w.exm⟩ r).isNone
        | none => false)
      | none => false) = true) ∧
    (match Table.find 0 (checking 7).warps with
      | some w => (match w.sync with
        | some r => (checkScopes (checking 7).recs r.scope (partyOf placedWg w) r.lanes).1.isEmpty &&
            !(checkScopes meeting0.recs r.scope (partyOf placedWg w) r.lanes).1.isEmpty
        | none => false)
      | none => false) = true := by
  simp only [Ctx.ready, Use.clear, Ctx.calm, State.inv, Memory.wf]; decide +kernel

theorem witness_FencesAndQueuePorts :
    ((cx s0).ready s0 z (syncUse [] [] true 5) ∧ s0.released 0 (cx s0).g (cx s0).w 5 = true ∧ (cx s0).w.pend = []) ∧
    (let s := s0.modCore 0 (fun c => { c with writes := [(cx s0).write 0 0 [(0x20000, [1])]] })
     (cx s).ready s z (syncUse [] [] true 5) ∧ s.released 0 (cx s).g (cx s).w 5 = false) ∧
    (let s := sw (fun w => { w with pend := [{ loads := [] }] })
     (cx s).ready s z (syncUse [] [] true 5) ∧ (cx s).w.pend ≠ []) ∧
    ((∀ n ∈ [0, 3, 4], let s := sg (fun g => { g with queues := List.replicate 8 (List.replicate n ⟨[], 0⟩) })
      (cx s).ready s z (winUse [srcA 1] []) ∧ (cx s).ready s z (winUse [] [(3, 1)]) ∧ ((cx s).g.queues.getD 7 []).length = n ∧
      s.released 0 (cx s).g (cx s).w 2 = true) ∧
     let s := s0.modCore 0 (fun c => { c with writes := [(cx s0).write 0 0 [(2 ^ 56, [1])]] })
     (cx s).ready s z (winUse [srcA 1] []) ∧ s.released 0 (cx s).g (cx s).w 2 = false) := by
  simp only [Ctx.ready, Use.clear, Ctx.calm]; decide +kernel

/-- A workgroup whose one warp has a window. -/
def windowed (x : Window) (f : Warp → Warp) : State := (s0.modWarp 0 f).modWg 0 (fun g => { g with win := some x })
/-- A warp in a `BSYNC` whose update has read a phase. -/
def syncing (p : Bool) (y : Option DWord) : State := sw (fun w => { w with bsync := some (some p), barWait := some (3, p, y) })
theorem witness_BarrierInstructions :
    (∀ k ∈ [0, 1, 255, 256], (cx (sr [(1, BitVec.ofNat 32 k)])).ready (sr [(1, BitVec.ofNat 32 k)]) z (winUse [src0 1] [])) ∧
    ((cx s0).ready s0 z (winUse [] []) ∧ (cx s0).ready s0 z (winUse [] [(4, 2)]) ∧ (cx s0).ready s0 z (winUse [src0 1] [(4, 2)]) ∧
      s0.released 0 (cx s0).g (cx s0).w 2 = true ∧ (cx s0).g.barPend = [] ∧ (cx s0).w.barWait = none ∧ (cx s0).w.bsync = none ∧
      (s0.barWord 0 (cx s0).g 0).getLsbD 63 = ((cx s0).val 1 0).getLsbD 0 ∧
      (s0.barWord 0 (cx s0).g 0).getLsbD 63 ≠ ((cx (sr [(1, 1)])).val 1 0).getLsbD 0 ∧
      (cx (sr [(1, 1)])).ready (sr [(1, 1)]) z (winUse [src0 1] [(4, 2)])) ∧
    (let s := syncing true none
     (cx s).ready s z (winUse [] []) ∧ (cx s).w.bsync = some (some true) ∧ (s.barWord 0 (cx s).g 3).getLsbD 63 ≠ true ∧ (cx s).w.pend = []) ∧
    (let s := syncing false none
     (cx s).ready s z (winUse [] []) ∧ (cx s).w.bsync = some (some false) ∧ (s.barWord 0 (cx s).g 3).getLsbD 63 = false) ∧
    (let s := syncing false (some 0)
     (cx s).ready s z (winUse [] []) ∧ (cx s).w.barWait = some (3, false, some 0)) ∧
    (let s := sw (fun w => { w with bsync := some none })
     (cx s).ready s z (winUse [] []) ∧ (cx s).w.bsync = some none) ∧
    (let s := sw (fun w => { w with barWait := some (3, false, some 0) })
     (cx s).ready s z (winUse [src0 1] [(4, 2)]) ∧ (cx s).w.barWait = some (3, ((cx s).val 1 0).getLsbD 0, some 0)) ∧
    (let s := windowed ⟨1, 1, true, false, 0, 1, 0, 0⟩ (fun w => { w with window := true })
     (cx s).ready s z (winUse [] [(4, 2)]) ∧ (cx s).w.inWindow = true) ∧
    (let s := s0.modCore 0 (fun c => { c with writes := [(cx s0).write 0 0 [(2 ^ 56, [1])]] })
     (cx s).ready s z (winUse [] []) ∧ s.released 0 (cx s).g (cx s).w 2 = false) := by
  simp only [Ctx.ready, Use.clear, Ctx.calm]
  (repeat' apply And.intro) <;> decide +kernel
theorem witness_BarrierUpdates :
    (s0.inv ∧ ∀ k ∈ [BarChange.init 255, .arrive, .sync, .drop],
      let u : BarUpdate := ⟨15, k, 0, 0⟩
      let g := (cx (sg (fun g => { g with barPend := [u, u] }))).g
      g.barPend[0]? = some u ∧ g.barPend[1]? = some u ∧ g.early u = false ∧ u ∈ g.barPend.take 1) ∧
    (let g : Wg := { placedWg with win := some ⟨1, 1, true, false, 3, 1, 0, 0⟩ }
     g.early ⟨15, .arrive, 0, 9⟩ = true) ∧
    (barOf 0x0006020100000000).arrived + 1 = (barOf 0x0006020100000000).expected ∧ (barOf 0x0006020100000000).bytes = 0 ∧
    (barOf 0x0006020000000000).arrived + 1 < (barOf 0x0006020000000000).expected ∧
    (barOf 0x0006000000000000).expected < (barOf 0x0006000000000000).arrived + 1 := by
  simp only [State.inv, Memory.wf]; decide +kernel

/-- The operands of an `MMA` of 64 rows on tile 0 in v10, v12 to v14, with its word in v20, v21 as a follow-on. -/
def matRegs (s : State) : State := s.modWarp 0 (fun w => ((w.setReg 14 ⟨.uniform, laneSplat 0x40, 0⟩).setReg 20
  ⟨.uniform, laneSplat 0x0A0C0040, 0⟩).setReg 21 ⟨.uniform, laneSplat 0x003C0000, 0⟩)
/-- Whether the record in v1 passes its checks and p holds of its bytes. -/
def recordOk (s : State) (p : List Byte → Bool) : Bool :=
  match s.readRecord 0 (cx s).g ((cx s).val 1 0) with
  | (.ok bs, _) => (s.recordCause (cx s).g (recWords bs) false).isNone && p bs
  | _ => false
/-- The state with a full copy queue and a full drain queue on core 0. -/
def queuesFull (s : State) : State :=
  let o := (cx s).leatOp .g2p 1 0 noRecord [] 0
  s.modCore 0 (fun c => { c with copyQ := List.replicate 16 o, drainQ := List.replicate 8 o })
theorem witness_Copies :
    (let s := withRec 0x201
     (∀ u ∈ [meldUse ([srcL 1, srcL 4 5] ++ []) [], meldUse [srcL 1, srcL 4 5] []], (cx s).ready s z u ∧ (cx (queuesFull s)).ready (queuesFull s) z u) ∧
     (cx s).act.getLsbD 0 = true ∧
     recordOk s (fun bs => (s.tileCause (cx s).g 0 0 ((recOf (recWords bs)).count * (recOf (recWords bs)).size) false).isNone &&
       drainRecord (recOf (recWords bs)) true && drainRecord (recOf (recWords bs)) false) = true ∧
     0 % 16 < (cx s).g.tileGrant ∧ (s.core 0).copyQ.length < 16 ∧ (s.core 0).drainQ.length < 8 ∧ (s.core 0).locks.length + 2 ≤ 32 ∧
     recordOk s (fun bs => !s.copyHeld (cx s).g .g2c (recOf (recWords bs)) [] 0 &&
       (s.setBank 0 ⟨2, 0, 0, 0, [], 0, [⟨1, 0, 0, 0⟩]⟩).copyHeld (cx s).g .g2c (recOf (recWords bs)) [] 0) = true ∧
     16 ≤ ((queuesFull s).core 0).copyQ.length ∧ 8 ≤ ((queuesFull s).core 0).drainQ.length) ∧
    (let s := matRegs (withRec 0x103)
     (cx s).ready s z (meldUse ([srcL 1, srcL 4 5] ++ [srcL 20 2]) []) ∧
     recordOk s (fun bs => match (cx s).followWord 0 ((cx s).w.rd64 20 0) (recOf (recWords bs)).format with | .ok _ => true | _ => false) = true) ∧
    (∀ n ∈ [8, 16, 2 ^ 24, 2 ^ 24 + 16], (cx (sr [(6, BitVec.ofNat 32 n)])).ready (sr [(6, BitVec.ofNat 32 n)]) z
      (meldUse [srcL 2 2, srcL 4 3] [])) ∧
    (cx s0).ready s0 z (bareUse [] [(4, 4)]) := by
  simp only [Ctx.ready, Use.clear, Ctx.calm]
  (repeat' apply And.intro) <;> decide +kernel

/-- Table 7 of four entries at 0x20000 with two pools of one block each; v1 names the table, v2 and v4 two of its entries.
Entries 0 and 1 are a ring of two, entry 2 stands alone, entry 3 is not valid. -/
def tables (i j : Nat) (held : Bool) : State :=
  let s := (sr [(1, 7), (2, BitVec.ofNat 32 i), (4, BitVec.ofNat 32 j)]).modHub 0 (fun h => { h with
    btDescs := [(7, { valid := true, entries := 4, array := 0x20000, lpool := 1, hpool := 0 })]
    pools := [(0, { valid := held, tier := 0, stack := 0x30000, capacity := 4, count := 1 }),
      (1, { valid := held, tier := 1, stack := 0x31000, capacity := 4, count := 1 })] })
  let ent := fun (s : State) (e : Nat × BtEntry) => s.putAt 0 (0x20000 + 16 * e.1) e.2.bytes
  [(0, (⟨5, 0, false, true, true, 1, 0, 2⟩ : BtEntry)), (1, ⟨5, 0, false, true, true, 0, 0, 2⟩), (2, ⟨6, 0, false, false, true, 2, 0, 1⟩),
    (3, ⟨0, 0, false, false, false, 0, 0, 0⟩)].foldl ent s
/-- Whether a block operation on entries i and j stands open. -/
def opens (s : State) (i j : Nat) : Bool :=
  decide ((cx s).w.btOp = none) && (match s.btFor (cx s).g 7 with
    | some (_, d) => decide (i < d.entries) && !(s.btEntry d i).d && !(s.btEntry d j).d
    | none => false) && s.released 0 (cx s).g (cx s).w 7
theorem witness_BlockTables :
    (∀ p ∈ [(0, 3), (2, 3), (3, 0), (3, 1), (0, 1), (2, 0)], ∀ u ∈ [bareUse [src0 1, src0 2, src0 4] [(8, 1)], bareUse [src0 1, src0 2] [(8, 1)],
        bareUse [src0 1, src0 2] [(8, 4)], bareUse [src0 1] [(8, 4)]], let s := tables p.1 p.2 true
      (cx s).ready s z u ∧ opens s p.1 p.2 = true) ∧
    (let s := tables 0 3 true
     ∃ d, s.btFor (cx s).g 7 = some (0, d) ∧ (s.btEntry d 0).v = true ∧ (s.btEntry d 0).refcount = 2 ∧ (s.btEntry d 0).tier = 0 ∧
       (s.btEntry d 3).v = false ∧ (s.btEntry d 2).refcount = 1 ∧ s.ring d 0 = [0, 1] ∧ (s.poolFor 0 d 0).isSome = true ∧
       (s.poolFor 0 d 1).isSome = true ∧ (s.core 0).copyQ.length < 16) ∧
    (let s := tables 3 0 false
     ∃ d, s.btFor (cx s).g 7 = some (0, d) ∧ s.poolFor 0 d 0 = none) ∧
    ((cx s0).ready s0 z (bareUse [src0 1, src0 2] [(8, 1)]) ∧ s0.btFor (cx s0).g 0 = none ∧
      (let s := sw (fun w => { w with btOp := some (some 3) })
       (cx s).ready s z (bareUse [src0 1, src0 2, src0 4] [(8, 1)]) ∧ (cx s).w.btOp = some (some 3) ∧ (cx s).w.pend = [])) := by
  simp only [Ctx.ready, Use.clear, Ctx.calm]
  refine ⟨by decide +kernel, ⟨_, rfl, by decide +kernel⟩, ⟨_, rfl, by decide +kernel⟩, by decide +kernel⟩

/-- The same on an Eland core that was granted a mill. -/
def eland : State := matRegs ((s0.modWg 0 (fun g => { g with core := 192, millGrant := 1 })))
/-- Whether an operand check passes. -/
def okOp (x : Except CauseInfo MatOp) : Bool := match x with | .ok _ => true | _ => false
theorem witness_MatrixCommands :
    (let s := matRegs s0
     (∀ u ∈ [winUse [srcL 10, srcIf true 12, srcIf false 13, srcIf true 14] [], winUse [srcL 10, srcIf true 12, srcIf true 13, srcIf true 14] [],
        winUse [src0 1] [], winUse [srcA 1, srcA 2, src0 3] [], winUse ([src0 1] ++ [] ++ [src0 3]) [], winUse ([src0 1] ++ [src0 2] ++ []) [],
        winUse ([src0 1] ++ [src0 2] ++ [src0 3]) []], (cx s).ready s z u) ∧
     (cx s).act.getLsbD 0 = true ∧ (s.core 0).matRoom false = true ∧
     okOp (mmaOp false (cx s).g 0 false .bf16 .q4 0 0 0 0x40) = true ∧ okOp (mmaOp false (cx s).g 0 true .e4m3 .q4 0 0 0 0x40) = true ∧
     okOp (saccOp false (cx s).g true true (some 0) none 0x400100) = true ∧ ((cx s).val 1 0).toNat < (cx s).g.tileGrant) ∧
    (let s := eland
     (∀ u ∈ [winUse [srcL 10, srcIf false 12, srcIf true 13] [], winUse [srcL 10, srcIf true 12, srcIf true 13] []], (cx s).ready s z u) ∧
     (cx s).eland = true ∧ okOp (mlwOp (cx s).g 0 false .q4 0 0 63) = true ∧ okOp (mlwOp (cx s).g 0 true .q4 0 0 63) = true) ∧
    (let s := (matRegs s0).modCore 0 (fun c => { c with matQ := List.replicate 16 ⟨0, 0, .aclr 0, none⟩ })
     (cx s).ready s z (winUse [src0 1] []) ∧ (s.core 0).matRoom false = false) := by
  simp only [Ctx.ready, Use.clear, Ctx.calm]
  (repeat' apply And.intro) <;> decide +kernel
theorem witness_MatrixReads :
    ((cx s0).ready s0 z (winUse [src0 1, srcA 2] [(3, 1)]) ∧ ((cx s0).val 1 0).toNat < (cx s0).g.tileGrant ∧
      (s0.core 0).tilePending 0 0 = false ∧ (cx s0).w.inWindow = false ∧ Table.wf RegVal.zero (cx s0).w.regs = true ∧
      (cx s0).ready s0 z (winUse [] [(3, 1)])) ∧
    (let s := s0.modCore 0 (fun c => { c with matQ := [⟨0, 0, .aclr 0, none⟩, ⟨1, 0, .aclr 0, some []⟩] })
     (cx s).ready s z (winUse [src0 1, srcA 2] [(3, 1)]) ∧ (s.core 0).tilePending 0 0 = true) := by
  simp only [Ctx.ready, Use.clear, Ctx.calm]
  (repeat' apply And.intro) <;> decide +kernel
theorem witness_MatrixEngine :
    (let s := s0.modCore 0 (fun c => { c with matQ := [⟨0, 0, .aclr 0, none⟩, ⟨1, 0, .aclr 0, some []⟩] })
     (s.core 0).matQ[0]? = some ⟨0, 0, .aclr 0, none⟩ ∧
     (s.core 0).matQ[1]? = some ⟨1, 0, .aclr 0, some []⟩ ∧ Table.find 0 s.wgs = some placedWg ∧ Table.wf {} s.cores = true ∧
     (s.core 0).mayStart 0 ⟨0, 0, .aclr 0, none⟩ = true ∧ (s.core 0).mayStart 1 ⟨1, 0, .aclr 0, none⟩ = false ∧
     Table.sortedFrom 0 placedWg.acc = true) := by
  (repeat' apply And.intro) <;> decide +kernel

theorem witness_SpecialRegisters :
    (cx s0).ready s0 z (pairUse [] [(3, 1)]) ∧
    (cx s0).ready s0 z (⟨[⟨1, 1, .first 1⟩], [], true, true, false, false, 0, false, none, false, none⟩ : Use) ∧ (cx s0).act ≠ 0 ∧
    (cg s0).ready s0 gz (⟨[⟨1, 1, .first 1⟩], [], true, true, false, false, 0, false, none, false, none⟩ : Use) ∧ (cg s0).act = 0 ∧
    (cx st).ready st z (trapUse [⟨1, 1, .active⟩] [] 0) ∧ (cx st).ready st z (trapUse [⟨1, 1, .first 1⟩] [] 0) := by
  simp only [Ctx.ready, Use.clear, Ctx.calm]
  (repeat' apply And.intro) <;> decide +kernel
theorem witness_TrapInstructions :
    ((cx st).ready st z (trapUse [] [] 0) ∧ ((cx st).w.epch ++ (cx st).w.epc).toNat % 8 = 0) ∧
    (let s := st.modWarp 0 (fun w => { w with epc := 4 })
     (cx s).ready s z (trapUse [] [] 0) ∧ ((cx s).w.epch ++ (cx s).w.epc).toNat % 8 ≠ 0) ∧
    ((cx s0).ready s0 z {} ∧ (cx s0).act ≠ 0 ∧ (cg s0).ready s0 gz {} ∧ (cg s0).act = 0) := by
  simp only [Ctx.ready, Use.clear, Ctx.calm]
  (repeat' apply And.intro) <;> decide +kernel
theorem witness_ContextAccess :
    (∀ k ∈ [0, 15], (cx st).ready st z (trapUse [] [(3, 1)] (241 + k)) ∧ (cx st).ready st z (trapUse [⟨1, 1, .all⟩] [] (241 + k))) ∧
    (cx st).ready st z (trapUse [] [(3, 1)] 0) ∧ (cx st).ready st z (trapUse [src0 1] [] 0) := by
  simp only [Ctx.ready, Use.clear, Ctx.calm]
  (repeat' apply And.intro) <;> decide +kernel
theorem witness_QueriesAndCounters :
    (∀ n ∈ [0, 3, 4, 7, 8, 12, 13, 14, 15, 16, 65535, 65536], let s := sr [(1, BitVec.ofNat 32 n)]
      (cx s).ready s z (bareUse [src0 1] []) ∧ (cx s).ready s z (bareUse [src0 1] [(3, 1)]) ∧ (cx s).ready s z (bareUse [src0 1] [(4, 2)]) ∧
      ((cx s).val 1 0).toNat = n) ∧ (cx s0).ready s0 z (bareUse [] []) := by
  simp only [Ctx.ready, Use.clear, Ctx.calm]
  (repeat' apply And.intro) <;> decide +kernel
theorem witness_WaitsAndEnds :
    (∀ n ∈ [0, 1, 32, 33, 64, 65536, 65535], let s := sr [(1, BitVec.ofNat 32 n)]
      (cx s).ready s z (bareUse [src0 1] [(3, 1)]) ∧ (cx s).ready s z (bareUse [src0 1] []) ∧ ((cx s).val 1 0).toNat = n) ∧
    (let s := s0.setTenant 0 { s0.tenant 0 with killing := true, advanced := true }
     (cx s).ready s z (bareUse [src0 1] [(3, 1)]) ∧ (s.tenant 0).gen = 0 ∧ (s.tenant 0).killing = true ∧ (s.tenant 0).advanced = true) ∧
    ((cx s0).w.loaded = true ∧ (cx (sw (fun w => { w with pend := [{ loads := [] }] }))).w.loaded = false) ∧
    (Table.find 0 (cx s0).g.opb = none ∧ (cx s0).g.opbFirst = none ∧ (cx s0).g.streams = [] ∧ Table.sortedFrom 0 s0.warps = true ∧
      (cx s0).w.pend = []) ∧
    (let s := sg (fun g => { g with opbFirst := some 9 })
     (cx s).ready s z (bareUse [src0 1] []) ∧ (cx s).g.opbFirst = some 9 ∧ Table.find 0 (cx s).g.opb = none) ∧
    (cx s0).ready s0 z (bareUse [] []) := by
  simp only [Ctx.ready, Use.clear, Ctx.calm]
  (repeat' apply And.intro) <;> decide +kernel

/-! ## Witnesses of the statements about events -/

/-- A cause of a trapped lane. -/
def c49 : CauseInfo := ⟨0x49, 0, false, [], []⟩
theorem witness_TrapEntryAndReports :
    (Table.find 0 delegating.warps = some (cx delegating).w ∧ Table.find 0 delegating.wgs = some (cx delegating).g ∧
      (cx delegating).g.status = .running ∧ (cx delegating).w.sync = none ∧ causeAsync c49 = false ∧ (cx delegating).w.trap = false ∧
      (delegating.trapDesc (cx delegating).g).valid = true ∧ (delegating.trapDesc (cx delegating).g).deleg.testBit 0x49 = true ∧
      (cx delegating).w.pend = [] ∧ (cx delegating).w.landing = [] ∧ Table.wf RegVal.zero (cx delegating).w.regs = true) ∧
    (Table.find 0 s0.warps = some (cx s0).w ∧ (s0.trapDesc (cx s0).g).valid = false ∧ ∀ e ∈ s0.wgWarps 0, e.2.pend = []) ∧
    (Table.find 0 st.warps = some (cx st).w ∧ (cx st).w.trap = true) ∧
    (let s := s0.modHub 0 (fun h => { h with trapDescs := [(0, { dbg := true })] })
     (s.trapDesc (cx s).g).dbg = true ∧ (cx s).g.world = 0 ∧ (cx s).w.trap = false) := by
  (repeat' apply And.intro) <;> decide +kernel

/-- A workgroup that a warp's report halted. -/
def reported (d : Bool) : State := sg (fun g => { g with status := if d then .debug else .reported, reportWarp := 0 })
theorem witness_FouloChoices :
    (∀ d ∈ [true, false], Table.find 0 (reported d).warps = some (cx (reported d)).w ∧
      ((cx (reported d)).g.status = .reported ∨ (cx (reported d)).g.status = .debug) ∧ (cx (reported d)).g.reportWarp = 0 ∧
      (cx (reported d)).g.win = none ∧ (cx (reported d)).w.trap = false ∧ Table.sortedFrom 0 (reported d).warps = true ∧
      (cx (reported d)).g.vdev ≤ 31 ∧ ((reported d).tenant 0).killing = false ∧ (reported d).pkts = [] ∧ (∀ e ∈ (reported d).wgWarps 0, e.2.pend = [])) ∧
    (let s := (reported true).modWarp 0 (fun w => { w with trap := true })
     (cx s).w.trap = true ∧ (cx s).g.status = .debug) ∧
    ((cx s0).g.status = .running ∧ (cx s0).g.status ≠ .halting) := by
  (repeat' apply And.intro) <;> decide +kernel

/-- A warp with a stall report pending, and limits on stalls and operators. -/
def watched : State := (s0.modHub 0 (fun h => { h with trapDescs := [(0, { valid := true, deleg := 2 ^ 0x30, stall := 4, oplim := 6 })] }))
theorem witness_AsynchronousEvents :
    (let s := s0.modWarp 0 (fun w => { w with async := [⟨0x30, 0, false, [], []⟩] })
     Table.find 0 s.warps = some (cx s).w ∧ (cx s).w.async = ⟨0x30, 0, false, [], []⟩ :: [] ∧ (cx s).g.status = .running ∧
     (cx s).w.trap = false ∧ (cx s).w.window = false ∧ (cx s).w.bsync = none ∧ (cx s).w.btOp = none ∧ (cx s).w.bankOp = none ∧ (cx s).w.landing = [] ∧ (cx s).w.sync = none ∧
     (cx s).w.wait ≠ .align ∧ (cx s).w.pend = [] ∧ causeAsync ⟨0x30, 0, false, [], []⟩ = true) ∧
    (let s := watched.modWarp 0 (fun w => { w with stall := 4 })
     (s.trapDesc (cx s).g).stall ≠ 0 ∧ (s.trapDesc (cx s).g).stall ≤ (cx s).w.stall ∧ (cx s).g.status = .running ∧ (cx s).w.async = []) ∧
    (let s := watched.modWarp 0 (fun w => { w with stall := 3 })
     (cx s).w.stall < (s.trapDesc (cx s).g).stall) ∧
    (let s := watched.modWg 0 (fun g => { g with opCount := 6 })
     (s.trapDesc (cx s).g).oplim ≠ 0 ∧ (s.trapDesc (cx s).g).oplim ≤ (cx s).g.opCount) ∧
    ((cx watched).g.opCount < (watched.trapDesc (cx watched).g).oplim) ∧
    (watched.warps = [(0, (cx watched).w)] ∧ watched.wgs = [((cx watched).w.wg, (cx watched).g)] ∧ (cx watched).g.status = .running ∧
      coreChip (cx watched).g.core = 0 ∧ coreChip (cx watched).g.core ≠ 15) := by
  (repeat' apply And.intro) <;> decide +kernel

/-- Hart 8 permitted to spawn on queue 5 of hub 1, whose ring of two stands at 0x50000 in address space 3. -/
def spawning (q : Queue → Queue) : State :=
  let s : State := { s0 with hart := 8, roots := [(3, 0x400000)] }
  let s := s.setHart 8 { s.hartOf 8 with vspqEn := true, vspqHub := true, vspqQueue := 5, vhasid := 3 }
  s.modQueue 1 5 (fun x => q { x with enabled := true, ring := 0x50000, asid := 3, log2size := 1 })
/-- With tables that map the ring. -/
def mapped (s : State) : State :=
  [(0x400000, 0x401001), (0x401000, 0x402001), (0x402000, 0x403001), (0x403000, 0x404001), (0x404280, 0x500007 + 8)].foldl
    (fun s e => s.putAt 0 e.1 (leBytes 8 e.2)) s
/-- An outstanding private load of a word in lane 3 into register 5. -/
def outstanding (tok : Option (List (Nat × Nat))) : Pending := { loads := [⟨3, [5], locPriv 0 16, 4, false, 16, 0, none, false, false⟩], token := tok }
/-- A pending write of a byte to a location. -/
def writing (loc : Nat) : State := s0.modCore 0 (fun c => { c with writes := [(cx s0).write 0 0 [(loc, [7])]] })
theorem witness_ResultsAndWalks :
    (∀ t ∈ [none, some [(3, 6)]], let s := sw (fun w => { w with pend := [outstanding t] })
      Table.find 0 s.warps = some (cx s).w ∧ (cx s).w.pend[0]? = some (outstanding t) ∧ isPriv (locPriv 0 16) = true ∧
      s.poisonAt (locPriv 0 16) 4 = false ∧ ([5] : List Nat).length = (4 + 3) / 4) ∧
    ((s0.core 0).dtlb = [] ∧ (s0.core 0).dwalk = [] ∧ (s0.core 0).writes[0]? = none) ∧
    (match (walkFrom (mapped (spawning id)) false 3 0x50000 4 (Table.get 0 3 (mapped (spawning id)).roots) [] 0).out with
     | .ok e => permOk e.rd e.wr e.ex .load
     | _ => false) = true ∧
    (∀ loc ∈ [2 ^ 56, 2 ^ 51], let s := writing loc
      Table.sortedFrom 0 s.cores = true ∧ (s.core 0).writes = [(cx s0).write 0 0 [(loc, [7])]] ∧
      ((cx s0).write 0 0 [(loc, [7])]).snap = [] ∧ ((cx s0).write 0 0 [(loc, [7])]).key = 0 ∧
      Table.find (loc / 16) s.seals = none ∧ olderTag 0 (s.gen 0) = false ∧ (isBank loc = true ∨ isRemote loc = true)) := by
  (repeat' apply And.intro) <;> decide +kernel

/-- An entry of the spawn memory of one lane. -/
def entry1 : PondEntry := ⟨0x40, 7, 0, 0, 32, 0, [], List.replicate 6 0, 0, 16, none, 0⟩
theorem witness_WindowsAndFormer :
    (let s := windowed ⟨1, 1, false, false, 0, 0, 0, 0⟩ (fun w => { w with wait := .align })
     s.warps = [(0, (cx s).w)] ∧ (cx s).g.status = .running ∧ (cx s).w.step = false ∧ (cx s).w.idx < 32 ∧ (cx s).g.win = some ⟨1, 1, false, false, 0, 0, 0, 0⟩ ∧ (cx s).w.wait = .align ∧
     (1 : Mask) = BitVec.ofNat 32 (2 ^ (cx s).w.idx)) ∧
    (let s := windowed ⟨3, 1, false, false, 0, 0, 0, 0⟩ id
     (cx s).g.win = some ⟨3, 1, false, false, 0, 0, 0, 0⟩ ∧ (1 : Mask) ≠ 3) ∧
    (let s := windowed ⟨1, 1, true, true, 4, 1, 0, 0⟩ (fun w => { w with window := true, trap := true })
     (cx s).g.win = some ⟨1, 1, true, true, 4, 1, 0, 0⟩ ∧ (cx s).w.trap = true ∧ (cx s).w.window = true) ∧
    (let s := windowed ⟨1, 1, true, true, 4, 0, 0, 0⟩ id
     (cx s).g.win = some ⟨1, 1, true, true, 4, 0, 0, 0⟩ ∧ (cx s).w.trap = false ∧ (cx s).w.window = false) ∧
    (let s := s0.modWg 0 (fun g => { g with pond := [entry1] })
     ∃ e ∈ (cx s).g.pond, e.bin = entry1.bin) ∧
    (let s := s0.modWg 0 (fun g => { g with pond := [entry1], binWait := [(entry1.bin, 1)] })
     s.wgs = [(0, (cx s).g)] ∧ (cx s).g.core = 0 ∧ (cx s).g.pond = [entry1] ∧ (cx s).g.binWait = [(entry1.bin, 1)] ∧
     pickGroup (s.coreUse 0).warps (s.coreUse 0).regs (entry1.bin % 512) = some 1 ∧ entry1.regs = [] ∧ 1 ≤ entry1.budget) ∧
    s0.readyBins 0 = [] := by
  (repeat' apply And.intro) <;> decide +kernel

/-! The Kudus. -/

theorem witness_HartWorkgroups :
    (s0.hart < 80 ∧ (s0.hartOf s0.hart).vspqEn = false) ∧
    (∀ q ∈ [(0, 0), (0, 2)], let s := spawning (fun x => { x with read := q.1, write := q.2 })
      let h := s.hartOf 8
      s.hart = 8 ∧ h.vspqEn = true ∧ (h.x 18).toNat / 2 ^ 36 = 0 ∧ (h.x 19).toNat % 256 = 0 ∧ (s.hub 0).poisonHold = [] ∧
      (s.queue 1 5).enabled = true ∧ (s.tenant (s.queue 1 5).vdev).killing = false ∧ h.vhasid.toNat = (s.queue 1 5).asid ∧
      (s.queue 1 5).write - (s.queue 1 5).read = q.2) ∧
    ((spawning (fun x => { x with enabled := false })).queue 1 5).enabled = false ∧
    ((spawning (fun x => { x with asid := 4 })).queue 1 5).asid ≠ 3 ∧
    (let s := (spawning id).setHart 8 { (spawning id).hartOf 8 with regs := [(19, 16)] }
     ((s.hartOf 8).x 19).toNat / 16 % 16 ≠ 0) ∧
    (let s := (spawning id).setHart 8 { (spawning id).hartOf 8 with regs := [(9, 8)] }
     ((s.hartOf 8).x 9).toNat % 256 ≠ 0) ∧
    ((mapped (spawning id)).hubXlate 3 0x50000 .store = some 0x500000 ∧ (mapped (spawning id)).poisonAt 0x500000 64 = false) ∧
    (let s : State := s0.setHart 9 { s0.hartOf 9 with mode := 1, csrs := [(0x180, 8 * 2 ^ 60)] }
     (match rvXlate s (s.hartOf 9) .rmw 0 with | .error _ => true | _ => false) = true ∧ (s.hartOf 9).waiting = false) ∧
    (let s : State := { s0 with hart := 9 }
     let h := s.hartOf 9
     rvXlate s h .rmw 0x20000 = .ok 0x20000 ∧ (paHome 0x20000).isNone = false ∧ Table.find (0x20000 / 256) s.recs = none ∧
     s.poisonAt 0x20000 4 = false ∧ h.waiting = false ∧ (s.setPoison 0x800 true).poisonAt 0x20000 4 = true) := by
  (repeat' apply And.intro) <;> decide +kernel
theorem witness_IoCores :
    (let s : State := { s0 with hart := 8 }
     let h := s.hartOf 8
     8 ≤ s.hart % 40 ∧ h.events = [] ∧ h.virt = false ∧ h.mode ≠ 0 ∧ (h.x 9).toNat / 32 = 0) ∧
    (let s : State := ({ s0 with hart := 47 }).setHart 47 { s0.hartOf 47 with regs := [(9, 32)] }
     ¬ 8 ≤ s.hart % 40 ∧ ((s.hartOf 47).x 9).toNat / 32 ≠ 0) ∧
    (let s : State := ({ s0 with hart := 48 }).setHart 48 { s0.hartOf 48 with events := [(5, 0)], regs := [(9, 32)] }
     8 ≤ s.hart % 40 ∧ (s.hartOf 48).events = (5, 0) :: [] ∧ (s.hartOf 48).overflow = 0 ∧ Table.sortedFrom 0 s.harts = true ∧
     ((s.hartOf 48).x 9).toNat / 32 ≠ 0) ∧
    (let s : State := ({ s0 with hart := 8 }).setHart 8 { s0.hartOf 8 with regs := [(9, 31), (10, 1)] }
     s.harts = [(8, s.hartOf 8)] ∧ (s.hartOf 8).events = []) ∧
    (s0.queue 1 1023).bound = none ∧
    (let s := (s0.modQueue 1 1023 (fun q => { q with bound := some 8, vdev := 63 })).modPort 0 0 (fun p => { p with state := .running })
     (s.queue 1 1023).bound = some 8 ∧ (s.queue 1 1023).deaf = false ∧ s.kuduGone (8 / 40) = false ∧ (s.hub 0).poisonHold = [] ∧ (s.hartOf 8).events.length < 256) ∧
    (let s := s0.setHart 8 { s0.hartOf 8 with mode := 0 }
     (s.hartOf 8).mode = 0) := by
  (repeat' apply And.intro) <;> decide +kernel
theorem witness_HartAccesses :
    ((s0.hartOf 79).mode = 3 ∧ ((s0.hartOf 79).csr 0x300).getLsbD 17 = false ∧ (paHome 0x20008).isNone = false ∧
      (∀ n ∈ [1, 2, 4, 8], 0x20008 % n = 0 ∧ s0.poisonAt 0x20008 n = false) ∧ Table.find (0x20008 / 256) s0.recs = none ∧
      0x20001 % 2 ≠ 0 ∧ (s0.hartOf 79).pending = [] ∧ (∀ hub ∈ [0, 1], (s0.hub hub).conns = []) ∧ 0x7FF0000000002 % 4 ≠ 0 ∧
      (s0.hartOf 79).csr 0x344 = 0 ∧ (s0.hartOf 79).csr 0x645 = 0) ∧
    (let s := s0.setHart 79 { s0.hartOf 79 with csrs := [(0x300, 8), (0x304, 2 ^ 17 + 2)] }
     (s.hartOf 79).takes 17 = true ∧ (s.hartOf 79).takes 16 = false) ∧
    (let s := ({ s0 with lastWriter := [(0x200, 79)] }).setPoison 0x800 true
     Table.find 0x200 s.lastWriter = some 79 ∧ s.poisonAt (0x200 * 256) 256 = true ∧ Table.find 0x201 s.lastWriter ≠ some 79) ∧
    ((s0.hub 0).holdDue.contains 3 = false ∧ ((s0.modHub 0 (fun h => { h with holdDue := [3] })).hub 0).holdDue.contains 3 = true ∧
      s0.pkts = []) := by
  (repeat' apply And.intro) <;> decide +kernel

/-! The hubs. -/

/-- Queue 3 of hub 0 in address space 3, its ring of two at 0x50000, with one packet written. -/
def queued (q : Queue → Queue) : State :=
  (mapped (spawning id)).modQueue 0 3 (fun x => q { x with enabled := true, ring := 0x50000, asid := 3, log2size := 1, write := 1 })
/-- A packet of two workgroups of one warp on Impala. -/
def pk : Packet :=
  { hub := 0, queue := 3, index := 0, marker := false, kind := 2, flags := 0, world := 0, tiles := 1, mills := 0, object := 0, completion := 0,
    args := List.replicate 8 7, asid := 3, vdev := 4, gen := 0, status := 0, refused := false, total := 2, unbound := 0, retired := 0,
    lost := 0, kval := 0, coop := false, levels := [], roles := [⟨1, 32, 0x80⟩], code := 0, drain := 31, pool := 0, records := 0,
    scratch := 256, bar := 0, energy := 0, term := false, ver := 0 }
/-- A state with that packet, whose completion counter stands at 0x50008. -/
def packet (f : Packet → Packet) : State := { mapped (spawning id) with pkts := [(0, f pk)], wgs := [], warps := [] }
theorem witness_Packets :
    (let s := queued id
     let q := s.queue 0 3
     q.enabled = true ∧ q.stopped = false ∧ q.read < q.write ∧ (s.tenant q.vdev).killing = false ∧ q.bound = none ∧
     s.hubXlate q.asid 0x50000 .load = some 0x500000 ∧ (s.hubBytes q.asid 0x50000 64).isSome = true ∧ s.worldHeld 0 = false ∧
     q.read ≤ 2 ∧ 2 ≤ q.read + 2 ^ q.log2size ∧ q.read + 2 ^ q.log2size < 3) ∧
    (((queued (fun q => { q with read := 4, write := 4 })).queue 0 3).write ≤ ((queued (fun q => { q with read := 4, write := 4 })).queue 0 3).read) ∧
    ((queued (fun q => { q with stopped := true })).queue 0 3).stopped = true ∧
    (let s := (queued id).putAt 0 0x500000 [1, 0]
     (s.hubBytes 3 0x50000 64).map (fun bs => fieldAt bs 0 1) = some 1) ∧
    (Table.find 0 (packet id).pkts = some pk ∧ ((packet id).tenant 4).killing = false ∧ (packet id).wgs = [] ∧ pk.flags.testBit 0 = false ∧
      pk.flags.testBit 1 = false ∧ pk.retired + pk.lost < pk.total) ∧
    (let p := { pk with retired := 1, lost := 1, completion := 0x50008 }
     p.total ≤ p.retired + p.lost ∧ p.completion ≠ 0 ∧ p.completion % 4 = 0 ∧
     (packet id).hubXlate 3 (0x50008 + 4) .store = some 0x50000C ∧
     ((packet id).putPieces 0 [(0x50000C, leBytes 4 0)]).hubXlate 3 0x50008 .rmw = some 0x500008 ∧
     ((packet id).putPieces 0 [(0x50000C, leBytes 4 0)]).poisonAt 0x500008 4 = false) ∧
    (((packet id).setTenant 4 { (packet id).tenant 4 with killing := true }).tenant 4).killing = true ∧
    (packet (fun p => { p with refused := true })).pkts = [(0, { pk with refused := true })] := by
  (repeat' apply And.intro) <;> decide +kernel

/-- A bind record for the packet of queue 3: valid, its index 0. -/
def w0rec : Word := BitVec.ofNat 32 (2 ^ 31 + 3 * 2 ^ 16)
/-- A slot that can place that packet's workgroups on chiplet 0. -/
def slot1 : Slot :=
  { w0 := w0rec, w1 := 0xFF010000#32, w2 := 0, w3 := 0, state := .active, pkt := 0, next := 0, stop := 2 }
/-- The packet with its slot, chiplet 0 running. -/
def dispatching : State := (packet id).modHub 0 (fun h => { h with slots := [(5, slot1)], ports := [(chipPort 0, { state := .running })] })
theorem witness_BindAndDispatch :
    ((packet id).namedPkt 0 w0rec = some (0, pk) ∧ w0rec.getLsbD 31 = true ∧ w0rec.toNat / 2 ^ 26 % 8 = 0 ∧ pk.unbound = 0 ∧
      ((packet id).slot 0 63).state = .free ∧ (dispatching.slot 0 5).state = .active ∧ (s0.namedPkt 0 w0rec) = none ∧
      Table.find 9 (packet id).partsOwner ≠ some 4 ∧ Table.find 9 ({ packet id with partsOwner := [(9, 4)] }).partsOwner = some 4 ∧
      (packet (fun p => { p with coop := true })).namedPkt 0 w0rec = some (0, { pk with coop := true })) ∧
    (∀ e ∈ (s0.hub 0).slots, e.2.state ≠ .active ∨ e.2.w0.getLsbD 31 = false) ∧
    (let s := { dispatching with hubs := [(0, dispatching.hub 0)] }
     s.hubs = [(0, { s.hub 0 with slots := [(5, slot1)] })] ∧ s.pkts = [(0, pk)] ∧ s.worlds = [] ∧ (s.tenant 4).killing = false ∧
     (match s.chooseCore slot1 pk 0 with
      | some (core, a) => decide (core = 0) && decide (a.groups.length = 1) && decide ((s.core core).power = .p0)
      | none => false) = true) ∧
    (let s : State := { s0 with wgs := [(0, { placedWg with status := .retiring })], warps := [], cores := [], hubs := [] }
     s.wgBusy 0 = false ∧ s.drained 0 { placedWg with status := .retiring } = true ∧ s.wgs = [(0, { placedWg with status := .retiring })] ∧ (s.chip (coreChip 0)).cls ≠ 2 ∧ placedWg.streams = []) ∧
    (placedWg.status ≠ .retiring ∧ Table.find 0 s0.wgs = some placedWg) := by
  (repeat' apply And.intro) <;> decide +kernel

/-- A workgroup whose warp waits at its operator boundary, position 9. -/
def bounded (f : Wg → Wg) : State :=
  (s0.modWarp 0 (fun w => { w with wait := .boundary })).modWg 0 (fun g => f { g with opb := [(0, 9)], opbFirst := some 9 })
/-- A saved workgroup of the dispatched packet, its core's registers as at reset. -/
def savedState : State :=
  let g := { placedWg with status := .saved, vdev := 4 }
  { dispatching with wgs := [(0, g)], warps := [(0, placedWarp 0)], cores := [] }
theorem witness_Boundaries :
    (s0.atBoundary 0 = false ∧ (bounded id).atBoundary 0 = true ∧ (bounded id).warps = [(0, (cx (bounded id)).w)] ∧
      (bounded id).wgs = [(0, (cx (bounded id)).g)] ∧ Table.find 0 (bounded id).pkts = none ∧ (cx (bounded id)).w.pend = [] ∧
      (cx (bounded id)).g.sliceEnd = false ∧ (cx (bounded (fun g => { g with sliceEnd := true }))).g.sliceEnd = true) ∧
    (let s : State := { bounded (fun g => { g with sliceEnd := true }) with pkts := [(0, { pk with coop := true })] }
     (s.pktWgs 0).any (fun e => e.2.sliceEnd) = true ∧ (s.pktWgs 0).all (fun e => s.atBoundary e.1) = true ∧
     Table.find 0 s.pkts = some { pk with coop := true }) ∧
    (let s : State := { bounded id with pkts := [(0, { pk with coop := true })] }
     (s.pktWgs 0).all (fun e => !e.2.sliceEnd) = true) ∧
    placedWg.status ≠ .saved ∧
    (let s := savedState
     let g := { placedWg with status := .saved, vdev := 4 }
     s.wgs = [(0, g)] ∧ s.warps = [(0, placedWarp 0)] ∧ g.streams = [] ∧ g.followSaved = [] ∧ Table.find 0 s.pkts = some pk ∧
     s.slotFor 0 0 0 = some 5 ∧ s.worldHeld 0 = false ∧ (s.slot 0 5).state = .active ∧ (s.slot 0 5).w0.getLsbD 31 = true ∧ s.coreOpen 1 = true ∧ pk.coop = false ∧ s.cores = [] ∧
     coreChip 1 ∈ s.chipsFor (s.slot 0 5) (chipKind 0) ∧ 1 ∈ s.coresFor (s.slot 0 5) (coreChip 1) ∧
     (match placeWarps (s.coreUse 1).warps (s.coreUse 1).regs [256] with | some (k, _, _) => decide (k.length = 1) | none => false) = true ∧
     ((s.coreUse 1).grant (chipKind 0) 64 { pk with roles := [] }).isSome = true) := by
  (repeat' apply And.intro) <;> decide +kernel

/-- A state with nothing but hub 1, its slot 63 active over the workgroup of `s0`. -/
def preempting (running : Bool) : State :=
  let s : State := if running then { s0 with hubs := [], wgs := [(0, { placedWg with hub := 1 })] } else { s0 with hubs := [], wgs := [], warps := [] }
  let x : Slot := { state := .active, stop := 1 }
  { s with hubs := [(1, { s.hub 1 with slots := [(63, x)] })] }
theorem witness_PreemptionAndArbitration :
    (let s := preempting false
     (s.hub 1).preempt.getLsbD 63 = false ∧ s.wgs = [] ∧ s.hubs = [(1, s.hub 1)] ∧ (s.hub 1).slots = [(63, { state := .active, stop := 1 })]) ∧
    (let s := preempting true
     s.wgs = [(0, { placedWg with hub := 1 })] ∧ s.warps = [(0, (cx s).w)] ∧ s.slotFor 1 0 0 = some 63 ∧ s.hubs = [(1, s.hub 1)] ∧
     (s.hub 1).slots = [(63, { state := .active, stop := 1 })]) ∧
    (let s := (preempting false).modHub 1 (fun h => { h with preempt := 2 ^ 63 })
     (s.hub 1).preempt.getLsbD 63 = true ∧ (s.hub 1).awaited = []) ∧
    (({ s0 with cores := [] } : State).cores = []) ∧
    (0 * 4096 ≤ s0.arbGrants 0 0 * 4032 ∧ (s0.arbSum 0 0 3 + 4032) * 4096 ≤ s0.arbGrants 0 0 * 4032 ∧ 4032 ≤ s0.arbGrants 0 0 ∧
      ¬ (s0.arbSum 0 0 3 + 4033) * 4096 ≤ s0.arbGrants 0 0 * 4032 ∧
      (s0.arbSum 0 980 3 + 1) * 4096 ≤ s0.arbGrants 0 980 * 4032) ∧
    (let b : Bucket := { guarantee := 1, level := 4096 }
     let s : State := { s0 with hubs := [(0, { s0.hub 0 with buckets := [(33 * 5 + 3, b)] })] }
     groupArb 5 = true ∧ Table.get 0 5 (s.hub 0).fraction < 4096 ∧ s.bucket 0 5 3 = b ∧ (s.hub 0).robin = [] ∧ s.hubs = [(0, { s.hub 0 with buckets := [(33 * 5 + 3, b)] })] ∧
     b.level + b.guarantee ≤ b.depth * 4096) := by
  (repeat' apply And.intro) <;> decide +kernel

theorem witness_ContextKill :
    ((s0.tenant 31).killing = false ∧ (s0.hub 0).awaited = [] ∧ (s0.hub 1).awaited = []) ∧
    (let s := { s0.setTenant 31 { s0.tenant 31 with killing := true, acks := [0] } with cores := [], banks := [], wgs := [] }
     (s.tenant 31).killing = true ∧ 0 ∈ (s.tenant 31).acks ∧ 17 ∉ (s.tenant 31).acks ∧ 11 ∉ (s.tenant 31).acks) ∧
    (∃ u, u < 18 ∧ u ∉ ((s0.setTenant 31 { s0.tenant 31 with killing := true }).tenant 31).acks ∧ 16 ≤ u) ∧
    (let s := s0.setTenant 31 { s0.tenant 31 with killing := true, acks := List.range 18 }
     (∀ u, u < 18 → u ∈ (s.tenant 31).acks ∨ (u < 16 ∧ s.enumerated u = false)) ∧ s.pkts = [] ∧
     ∀ hub ∈ [0, 1], (s.hub hub).queues = []) := by
  refine ⟨by decide +kernel, by decide +kernel, ⟨17, by decide +kernel⟩, by decide +kernel⟩

/-- An engine operation on core 0. -/
def op1 (f : LeatOp → LeatOp) : LeatOp := f { (cx s0).leatOp .c2p 3 1 (recOf (recWords (rec1 0x201))) [0, 0, 0, 0] 16 with id := 9 }
/-- A cluster tensor record of one element. -/
def clusterRec : PatRec := { recOf (recWords (rec1 0x201)) with base := 0x100 }
/-- The state with that operation alone in a queue, over a scratchpad bank. -/
def moving (f : LeatOp → LeatOp) (drain : Bool) : State :=
  (banked 1).modCore 0 (fun c => if drain then { c with drainQ := [op1 f] } else { c with copyQ := [op1 f] })
theorem witness_EngineEvents :
    (s0.core 0).ring = [] ∧
    (let x : Stream := { stm true with supplied := [⟨0, 2 ^ 56, 0, [1, 2, 3, 4], false, 0, 0⟩] }
     let s := (streaming x).modCore 0 (fun c => { c with ring := [(0, 2)] })
     (s.core 0).ring = [(0, 2)] ∧ Table.find 2 (cx s).g.streams = some x ∧ x.record.block = false ∧ (cx s).g.core = 0) ∧
    (let e : StreamElem := ⟨some (2 ^ 51), 0, 0, false, [], false, 0⟩
     let x : Stream := { stm false with queue := [e] }
     Table.find 2 (cx (streaming x)).g.streams = some x ∧ x.queue[0]? = some e ∧ isRemote (2 ^ 51) = true ∧ ((streaming x).core 0).writes = [] ∧
     ∀ hub ∈ [0, 1], ((streaming x).hub hub).conns = []) ∧
    ((((moving id false).core 0).copyQ = [op1 id] ∧ ((moving id false).core 0).drainQ = [] ∧ (op1 id).started = false ∧ (op1 id).drain = false) ∧
      (((moving (fun o => { o with form := .drnSt }) true).core 0).drainQ = [op1 (fun o => { o with form := .drnSt })] ∧
        ((moving id true).core 0).copyQ = [] ∧ ((moving id true).core 0).matQ = [])) ∧
    (let f := fun (o : LeatOp) => { o with started := true, record := clusterRec, count := 1, size := 4 }
     let s := moving f false
     (s.core 0).copyQ = [op1 f] ∧ Table.find 0 s.wgs = some placedWg ∧ (op1 f).bt = none ∧ (op1 f).form = .c2p ∧ (op1 f).next < (op1 f).count ∧
     (op1 f).follow = none ∧ (op1 f).record.ind = false ∧ (op1 f).data = [] ∧ olderTag (op1 f).gen (s.gen (op1 f).vdev) = false ∧
     (match s.opSides 0 placedWg (op1 f) 0 with
      | (.ok src _ _ none, .ok dst 0 _ none, t) => isBank src && isPriv dst && !s.poisonAt src 4 && decide (t = s) &&
          !s.threadBusy 0 [(src, 4), (dst, 4)] true
      | _ => false) = true) ∧
    (let f := fun (o : LeatOp) => { o with started := true, follow := some (.aclr 0), count := 1, size := 4, landed := 4 }
     let s := moving f false
     (s.core 0).op 9 = some (op1 f) ∧ (op1 f).total ≤ (op1 f).landed ∧ s.opStale (op1 f) = false ∧ (s.core 0).followWait = [] ∧ placedWg.status = .running ∧
     (s.core 0).matQ.length < matQueueSize (coreEland 0)) ∧
    (let s := s0.modCore 0 (fun c => { c with followWait := [(9, 0, .aclr 0)] })
     (s.core 0).followWait ≠ [] ∧ (s.core 0).followWait = (9, 0, .aclr 0) :: [] ∧ (s.core 0).matQ.length < matQueueSize (coreEland 0)) ∧
    (let f := fun (o : LeatOp) => { o with started := true, count := 1, size := 4, landed := 4 }
     let s := moving f false
     Table.sortedFrom 0 s.cores = true ∧ (s.core 0).op 9 = some (op1 f) ∧ (op1 f).follow = none ∧ (op1 f).total ≤ (op1 f).landed ∧
     (op1 (fun o => { o with count := 1, size := 4 })).landed < (op1 (fun o => { o with count := 1, size := 4 })).total) := by
  (repeat' apply And.intro) <;> decide +kernel

/-- Hub 0 with a block out of use of table 7. -/
def loosened (stranded : Bool) : State := (tables 0 3 true).modHub 0 (fun h => { h with loose := [⟨6, 7, 0, stranded⟩] })
theorem witness_BlocksAndPools :
    (let s := tables 0 3 true
     ∃ d, Table.find 0 (s.hub 0).pools = some d ∧ d.valid = true ∧ d.count < d.capacity ∧ 0 < d.count ∧ (s.hub 0).loose = []) ∧
    (let s := tables 0 3 false
     ∃ d, Table.find 0 (s.hub 0).pools = some d ∧ d.valid = false) ∧
    (∀ x ∈ [true, false], ∃ d, Table.find 0 ((loosened x).hub 0).pools = some d ∧ ((loosened x).hub 0).loose = [⟨6, 7, 0, x⟩] ∧
      ((loosened x).btTable 7).isSome = true ∧ d.valid = true ∧ d.tier = 0 ∧ d.count < d.capacity ∧ (loosened x).blockHeld 6 = false) ∧
    (let s := (loosened false).modWg 0 (fun g => { g with streams := [(0, { stm false with holds := [(7, 0, 6)] })] })
     s.blockHeld 6 = true) ∧
    (let b : BtStep := ⟨.alloc, 0, 7, 3, 0, 1, 0⟩
     let f := fun (o : LeatOp) => { o with started := true, bt := some b }
     let s := moving f false
     (s.core 0).op 9 = some (op1 f) ∧ Table.find 0 s.warps = some (cx s).w ∧ s.warps = [(0, (cx s).w)] ∧ (s.core 0).copyQ = [op1 f] ∧
     Table.find (op1 f).wg s.wgs = some placedWg ∧ placedWg.status = .running ∧ olderTag (op1 f).gen (s.gen (op1 f).vdev) = false) := by
  refine ⟨⟨_, rfl, by decide +kernel⟩, ⟨_, rfl, by decide +kernel⟩, ?_, by decide +kernel, by decide +kernel⟩
  intro x _
  cases x
  · exact ⟨_, rfl, by decide +kernel⟩
  · exact ⟨_, rfl, by decide +kernel⟩
theorem witness_ManagementWindow :
    (2 ≠ 4 ∧ 2 ≠ 8 ∧ 0x2102 % 4 ≠ 0 ∧ (1023 : Nat) < 1024 ∧ (65535 : Nat) < 65536) ∧
    ((banked 1).bank 0).mode = (1 : Word).setWidth 2 ∧ ((banked 1).bank 0).mode ≠ 3 ∧ ((banked 1).bank 0).mode ≠ 0 ∧
    (2 : Word).setWidth 2 ≠ ((banked 1).bank 0).mode ∧
    ((banked 1).bank 0).switching = [] ∧ (banked 1).bankWaits 0 = false ∧ (banked 1).bankReady 0 = true ∧
    0 < kindBanks (chipKind 11) := by
  (repeat' apply And.intro) <;> decide +kernel
theorem witness_PowerAndReset :
    (({ s0 with warps := [] } : State).core 0).power = .p0 ∧ ((s0.setCore 0 { s0.core 0 with power := .c2 }).core 0).power = .c2 ∧
    ((s0.setCore 0 { s0.core 0 with power := .c1 }).core 0).power = .c1 ∧ (0 ≠ 255 ∧ 0 < kindCores (chipKind (portChip 0 (chipPort 0)))) ∧
    s0.coreIdle 0 = false ∧ ({ s0 with warps := [], wgs := [] } : State).coreIdle 0 = true ∧ s0.asleep = false ∧
    ({ s0 with wgs := [], cores := [] } : State).wgs = [] ∧ ({ s0 with asleep := true } : State).asleep = true ∧
    s0.noWarps 0 = false ∧ (s0.hub 0).ports = [] ∧
    (let s : State := s0.setHart 9 { s0.hartOf 9 with waiting := true }
     (s.hartOf 9).power = .p0 ∧ (s.hartOf 9).waiting = true ∧ (s.hartOf 9).pending = []) ∧
    (let s : State := s0.setHart 9 { s0.hartOf 9 with waiting := true, power := .c1, pending := [3] }
     (s.hartOf 9).power = .c1 ∧ (s.hartOf 9).pending ≠ []) ∧
    (let s : State := { s0 with warps := [], wgs := [] }
     (∀ c ∈ chipCores 0, s.coreIdle c = true) ∧ s.shadowClear 0 = true) ∧
    ({ s0 with wgs := [(0, { placedWg with image := some ⟨0, 0, 64, 0, none⟩ })] } : State).shadowClear 0 = false := by
  (repeat' apply And.intro) <;> decide +kernel

/-- A good capability entry of an Impala. -/
def cap0 : List Byte := let b := BitVec.ofNat 8 (chipKind 0) :: List.replicate 27 0
  b ++ leBytes 4 (crc32 b)
theorem witness_Ports :
    (cap0.length = 32 ∧ fieldAt cap0 0 1 = chipKind (portChip (chipHub 0) (chipPort 0)) ∧ fieldAt cap0 28 4 = crc32 (cap0.take 28)) ∧
    (fieldAt (List.replicate 32 (0xFF : Byte)) 0 1 ≠ chipKind 0) ∧
    (∀ x ∈ [PortState.training, .assigned, .running, .isolating, .isolated, .refused, .down],
      ((s0.modPort 1 7 (fun p => { p with state := x })).port 1 7).state = x) ∧
    ((s0.port 1 7).attempts < 2 ∧ ((s0.modPort 1 7 (fun p => { p with attempts := 2 })).port 1 7).attempts = 2) ∧
    (let s := { s0.modPort 1 7 (fun p => { p with state := .isolating }) with wgs := [], warps := [], cores := [], dir := [], banks := [] }
     (s.port 1 7).state = .isolating ∧ s.banks = []) ∧
    ((s0.hub 0).logWrite - (s0.hub 0).logRead < 4096) := by
  (repeat' apply And.intro) <;> decide +kernel

/-- Hub 0 with one trained port. -/
def linked (f : Port → Port) : State := { s0 with hubs := [(0, { s0.hub 0 with ports := [(2, f { up := true, state := .running })] })] }
theorem witness_LinksAndLoops :
    (let s := linked id
     s.hubs = [(0, { s.hub 0 with ports := [(2, { up := true, state := .running })] })] ∧
     ({ up := true } : Port).toChip.buffer = [] ∧ ({ up := true } : Port).toChip.sent = 0 ∧ ({ up := true } : Port).toChip.expect = 0 ∧
     ({ up := true } : Port).retrain = 0 ∧ ({ up := true } : Port).narrow.getLsbD 0 = false ∧ 0 < ({ up := true } : Port).modules 2 ∧
     (s.loopReg 0 (18 + 16 * 2)).setting = 0) ∧
    (∀ n ∈ [63, 64], let d : LinkDir := { sent := 1, buffer := [⟨0, ⟨0, 5⟩⟩], discarding := true, replays := n }
      let s := linked (fun p => { p with toChip := d })
      (s.port 0 2).toChip = d ∧ d.buffer ≠ [] ∧ (s.port 0 2).state = .running) ∧
    (let s := linked (fun p => { p with crcWindow := [(0, 5)] })
     4 < Table.get 0 0 (s.port 0 2).crcWindow ∧ (s.port 0 2).retrain.getLsbD 0 = false) ∧
    (let s := linked (fun p => { p with retrain := 1, narrow := 1 })
     (s.port 0 2).retrain.getLsbD 0 = true ∧ (s.port 0 2).narrow.getLsbD 0 = true) ∧
    (linked (fun p => { p with up := false })).hubs = [(0, { s0.hub 0 with ports := [(2, { up := false, state := .running })] })] := by
  (repeat' apply And.intro) <;> decide +kernel
theorem witness_RemoteAccesses :
    ((∀ n ∈ [1, 2, 4, 8], (localHome 0x20008).isNone = false ∧ 0x20008 % n = 0 ∧ s0.poisonAt 0x20008 n = false) ∧
      Table.find (3 * 2 ^ 64 + 5) s0.remote = none ∧ (localHome 0xC000000000).isNone = true ∧
      (s0.setPoison (0x20000 / 64) true).poisonAt 0x20008 8 = true ∧
      (let p : Party := ⟨0, 0, 0, 1, 9, 9, 0, 0, 0, 0, none⟩
       let s : State := { s0 with recs := [(0x200, ⟨3, p⟩)] }
       Table.find (0x20008 / 256) s.recs = some ⟨3, p⟩ ∧
       inclusive ⟨3, p⟩ 3 (RemoteReq.party ⟨.ldaq, 0x20008, 4, 0, 0, 0, 3, 0, 0, 0, 0, 0, 0, 0⟩ 3) = false) ∧
      Table.find (0x20008 / 256) s0.recs = none ∧
      (Table.find (3 * 2 ^ 64 + 5) ({ s0 with remote := [(3 * 2 ^ 64 + 5, (0, 7))] } : State).remote).isSome = true) ∧
    (∀ loc ∈ [2 ^ 51, 0x20000, 2 ^ 60], let p : Pending := { loads := [⟨3, [5], loc, 4, false, 16, 0, none, false, false⟩] }
      let s := sw (fun w => { w with pend := [p] })
      (cx s).w.pend = [p] ∧ Table.find 0 s.warps = some (cx s).w ∧
      (s.hub (coreHub (cx s).g.core)).logWrite - (s.hub (coreHub (cx s).g.core)).logRead < 4096) := by
  (repeat' apply And.intro) <;> decide +kernel

/-- A connection whose control block and rings stand in the mapped page. -/
def conn1 (f : Conn → Conn) : Conn := f ⟨3, 4, 0, 0, 127, 0, 0, 0x50000, 0x50000, 0x50000, 0, 0, false, 0, 0, 0, 1, false, [], 0⟩
/-- The state in which it stands, its send line and receive line given. -/
def connected (f : Conn → Conn) (stail rhead : Nat) : State :=
  (((mapped (spawning id)).putAt 0 0x500000 (leBytes 8 stail)).putAt 0 0x500300 (leBytes 8 rhead)).modHub 0 (fun h =>
    { h with conns := [(9, conn1 f)] })
/-- A good descriptor and one whose ring sizes are too large. -/
def desc (sizes : Nat) : List Byte :=
  leBytes 2 3 ++ [4, 0, 0, 0, 127, BitVec.ofNat 8 sizes] ++ leBytes 8 0x50000 ++ leBytes 8 0x50000 ++ leBytes 8 0x50000 ++ List.replicate 32 0
theorem witness_Connections :
    (s0.conn 0 9 = none ∧ ((connected (fun c => { c with stopped := true }) 0 0).conn 0 9).map Conn.stopped = some true ∧
      olderTag 0 (((connected id 0 0).setTenant 4 { gen := 1 }).gen 4) = true) ∧
    ((desc 0).length = 64 ∧ fieldAt (desc 0) 6 1 = 127 ∧ fieldAt (desc 0) 7 1 % 16 = 0 ∧ fieldAt (desc 0) 8 8 % 1024 = 0 ∧
      fieldAt (desc 0) 16 8 % 2 ^ 12 = 0 ∧ (∀ b ∈ (desc 0).drop 32, b.toNat = 0) ∧ 5 < fieldAt (desc 6) 7 1 % 16 ∧
      (mapped (spawning id)).hubXlate 3 (0x50000 + 264) .store = some 0x500108 ∧ Table.find (0x500108 / 256) (mapped (spawning id)).recs = none) ∧
    (let s := connected (fun c => { c with sent := 5, stail := 5 }) 5 0
     s.conn 0 9 = some (conn1 (fun c => { c with sent := 5, stail := 5 })) ∧ (conn1 (fun c => { c with sent := 5, stail := 5 })).shead < 5 ∧
     (s.ringBytes (conn1 id) 0 5).isSome = true) ∧
    (∀ k ∈ [(0, 4), (0, 4097), (5, 4)], let f := fun (c : Conn) => { c with stail := k.1 }
      let s := connected f k.2 0
      ((s.connRead 0 (conn1 f) 0).map Prod.fst = some k.2 ∧ ((s.connRead 0 (conn1 f) 0).bind (fun x => x.2.connRead 0 (conn1 f) 8)).map Prod.fst = some 0)) ∧
    (∀ r ∈ [0, 1], let s := connected id 0 r
      (s.connRead 0 (conn1 id) 768).map Prod.fst = some r ∧ (s.ringWrite 0 (conn1 id) 0 [1, 2, 3]).isSome = true) := by
  (repeat' apply And.intro) <;> decide +kernel

theorem witness_SecurityCommands :
    (s0.engine.wrapped = false ∧ s0.engine.gathering = none ∧ s0.engine.locked = false ∧ s0.engine.log.length < 65536 ∧
      s0.engine.leader = false ∧ Table.find 255 s0.worlds = none ∧ s0.worldUsed 255 = false) ∧
    (let s : State := { s0 with engine := { s0.engine with wrapped := true, leader := true, locked := true, log := [(0, 7, 0, [], [])] } }
     s.engine.wrapped = true ∧ s.engine.leader = true ∧ s.engine.locked = true ∧ 0 < s.engine.log.length ∧
     s.engine.log[0]? = some (0, 7, 0, [], [])) ∧
    (let s : State := { s0 with worlds := [(255, ⟨3, List.replicate 32 0, true⟩)] }
     (Table.find 255 s.worlds).isSome = true ∧ s.worldUsed 255 = false ∧ s.engine.wrapped = false) ∧
    (({ s0 with wgs := [(0, { placedWg with world := 255 })] } : State).worldUsed 255 = true) ∧
    (let s : State := { s0 with engine := { s0.engine with gathering := some (List.replicate 32 1) } }
     s.engine.gathering = some (List.replicate 32 1) ∧ Table.find 575 s.engine.answers = none) := by
  (repeat' apply And.intro) <;> decide +kernel

theorem witness_DecodeOfEncode : (Instr.add z 1 2 3).wellFormed = true ∧ (encodeVodon (.add z 1 2 3)).isSome = true ∧
    (Instr.vjoin 10 11).wellFormed = true ∧ (encodeKudu (.vjoin 10 11)).isSome = true ∧ (Instr.idcert).wellFormed = true := by decide +kernel
/-- What the fetch of warp 0 gives when a word stands at its pc. -/
def fetched (w : Nat) (f : Warp → Warp) : Fetched × State :=
  let s := (State.reset.placeVodon w).modWarp 0 f
  State.fetchWord { s with agenda := [] } (cx s).w (cx s).g
theorem witness_StepRuns :
    (let s := State.reset.placeVodon 0x00000014100B002A
     s.agenda = .warp 0 :: [] ∧ s.asleep = false ∧ Table.find 0 s.warps = some (cx s).w ∧ Table.find (cx s).w.wg s.wgs = some (cx s).g ∧
     (cx s).g.status = .running ∧ (cx s).w.sync = none ∧ (cx s).w.inWindow = false ∧
     (s.core (cx s).g.core).tasks.contains (cx s).g.pkt = true ∧ (s.modCore 0 (fun c => { c with brk := [0x10000] })).breaks (cx s).w (cx s).g = true) ∧
    (((sw (fun w => { w with pc := 0 })).core 0).tasks.contains 0 = true ∧ ((s0.modCore 0 (fun c => { c with tasks := [] })).core 0).tasks.contains 0 = false) ∧
    (match (fetched 0x003F840000000711 (fun w => { w with melded := true, meldReg := 4 })).1 with
     | .word x => (sw (fun w => { w with melded := true, meldReg := 4 })).ctx z |>.any (fun c => c.w.skipsRaw (Raw.ofWord x))
     | _ => false) = true ∧
    (match (fetched 0x00000014100B002A id).1 with
     | .word x => !(cx s0).w.skipsRaw (Raw.ofWord x) && !(fetched 0x00000014100B002A id).2.breaks (cx s0).w (cx s0).g && (match decodeBytes (leBytes 8 x.toNat) with | .ok _ => true | _ => false)
     | _ => false) = true ∧
    (match (fetched 0xFFFFFFFFFFFFFFFF id).1 with
     | .word x => (match decodeBytes (leBytes 8 x.toNat) with | .error _ => true | _ => false)
     | _ => false) = true ∧
    (match (fetched 0 (fun w => { w with pc := 0x20000 })).1 with | .bad _ => true | _ => false) = true ∧
    (let s := State.reset.placeKudu 0x0005950B
     s.agenda = .hart 8 :: [] ∧ s.kuduGone (8 / 40) = false ∧ (s.hartOf 8).pending = [] ∧
     (s.hartOf 8).nextIrq = none ∧ (s.chip 12).power = .p0 ∧ (s.hartOf 8).power = .p0 ∧
     (match s.fetchHart (s.hartOf 8) with | .ok w => (match decodeBytes (leBytes 4 w.toNat) with | .ok _ => true | _ => false) | _ => false) = true) ∧
    (let s := State.reset.placeKudu 0x00000013
     (match s.fetchHart (s.hartOf 8) with
      | .ok w => (match decodeBytes (leBytes 4 w.toNat) with | .error .base => true | _ => false)
      | _ => false) = true) ∧
    ((Instr.idcert).wellFormed = true ∧ encodeVodon .idcert = none ∧ encodeKudu .idcert = none) := by
  (repeat' apply And.intro) <;> decide +kernel
theorem witness_IssueChecks :
    (s0.ctx z = some (cx s0) ∧ (cx s0).w.skips z = false ∧ (cx s0).w.trap = false ∧ (cx s0).w.window = false ∧ (cx s0).w.melded = false) ∧
    (let s := s0.modWarp 0 (fun w => { w with budget := 8 })
     let g : Hdr := ⟨0, true, false, 8⟩
     (s.ctx g).isSome = true ∧ (cx s).w.budget ≤ g.guard.toNat ∧ (cx s).w.skips z = false ∧ (cx s).w.budget ≤ 8 ∧ ¬ (cx s).w.budget ≤ 7) ∧
    (let s := s0.modWarp 0 (fun w => { w with window := true })
     (cx s).w.window = true ∧ (cx s).w.trap = false) ∧
    (let s := s0.modWarp 0 (fun w => { w with melded := true, meldReg := 4 })
     (cx s).w.melded = true ∧ (cx s).w.skips gz = true ∧ (cx s).w.skips z = false) := by
  (repeat' apply And.intro) <;> decide +kernel
theorem witness_StepKeepsInvariant : State.reset.inv ∧ s0.inv ∧ (stepped (State.reset.placeVodon 0x00000014100B002A)).isSome = true := by
  refine ⟨⟨by decide +kernel, by decide +kernel⟩, ⟨by decide +kernel, by decide +kernel⟩, by decide +kernel⟩
/-! More witnesses: the further clauses of some statements, each at a state that meets its hypotheses. -/

/-- A state whose descriptor delegates some causes. -/
def delegates (bits : Nat) : State := s0.modHub 0 (fun h => { h with trapDescs := [(0, { valid := true, deleg := bits, stall := 4, oplim := 6 })] })
theorem witness_BarrierInstructions_window :
    (let s := (windowed ⟨1, 1, true, false, 0, 1, 0, 0⟩ (fun w => { w with window := true })).modWg 0 (fun g =>
        { g with barPend := [⟨3, .arrive, 0, 9⟩] })
     (cx s).ready s z (winUse [src0 1] [(4, 2)]) ∧ (cx s).w.inWindow = true ∧ ¬ ∀ u ∈ (cx s).g.barPend, u.warp ≠ (cx s).id) ∧
    (let s := s0.modWg 0 (fun g => { g with barPend := [⟨3, .arrive, 1, 9⟩] })
     (cx s).ready s z (winUse [src0 1] [(4, 2)]) ∧ (∀ u ∈ (cx s).g.barPend, u.warp ≠ (cx s).id) ∧ (cx s).w.inWindow = false) := by
  simp only [Ctx.ready, Use.clear, Ctx.calm]
  (repeat' apply And.intro) <;> decide +kernel
theorem witness_BarrierUpdates_changes :
    (∀ k ∈ [BarChange.arriveExp (2 ^ 31 - 1), .arriveExp (-1), .expect (-(2 ^ 31)), .test 4 13],
      let u : BarUpdate := ⟨15, k, 0, 0⟩
      let g := (cx (sg (fun g => { g with barPend := [u] }))).g
      g.barPend[0]? = some u ∧ g.early u = false) ∧
    (let b := barOf 0
     b.arrived ≤ b.expected ∧ -(2 ^ 31 : Int) ≤ b.bytes + -(2 ^ 31) ∧ b.bytes + (2 ^ 31 - 1) ≤ 2 ^ 31 - 1 ∧ ¬ b.bytes + 2 ^ 31 ≤ 2 ^ 31 - 1 ∧
     ¬ -(2 ^ 31 : Int) ≤ b.bytes + (-(2 ^ 31) - 1)) ∧
    (let s := delegates (2 ^ 0x41)
     Table.find 0 s.warps = some (cx s).w ∧ (cx s).w.wg = 0 ∧ (s.trapDesc (cx s).g).valid = true ∧
     (s.trapDesc (cx s).g).deleg.testBit 0x41 = true) ∧
    (let s := sw (fun w => { w with landing := [⟨4, 0xFFFFFFFF#32, [], .uniform, 0, 13⟩] })
     ∃ e ∈ (cx s).w.landing, e.due = 13 ∧ e.slot = 4) := by
  (repeat' apply And.intro) <;> decide +kernel

/-- Commands of every kind in the queue of a core. -/
def commands : List MatOp :=
  [.mma false .e4m3 .e4m3 0 64 0 64 1 0 0, .mma true .e4m3 .e4m3 0 64 0 64 1 3 1, .mlw true .e4m3 64 0 3 1 1024, .aclr 2,
   .awr 2 [(0, 1), (1, 2), (0, 3)], .sacc true false (some 64) (some 0) 64 1 2, .sacc false true none (some 0) 1 1 1]
theorem witness_MatrixEngine_commands :
    (∀ core ∈ [0, 4 * 32], ∀ m ∈ commands,
      let s := (s0.modCore core (fun c => { c with matQ := [⟨0, 0, m, some []⟩] })).modWg 0 (fun g => { g with mills := [(7, ⟨.q4, true, []⟩)] })
      (s.core core).matQ[0]? = some ⟨0, 0, m, some []⟩ ∧ (Table.find 0 s.wgs).isSome = true ∧ Table.wf {} s.cores = true ∧
      Table.wf (0 : Word) placedWg.acc = true ∧ Table.wf false placedWg.accMarks = true) ∧
    coreEland (8 * 32) = true ∧ coreEland 0 = false ∧
    (({ placedWg with mills := [(7, ⟨.q4, true, []⟩)] } : Wg).mills.any (fun x => decide (x.1 = 3 * 2 + 1 ∧ x.2.wfmt ≠ .e4m3))) = true ∧
    heldBelow 0xFFFF 32 = 16 ∧ heldBelow 0x1FFFF 32 ≠ 16 := by
  (repeat' apply And.intro) <;> decide +kernel

theorem witness_AsynchronousEvents_delegated :
    (let s := (delegates (2 ^ 0x30)).modWarp 0 (fun w => { w with stall := 4, window := true })
     (s.trapDesc (cx s).g).valid = true ∧ (s.trapDesc (cx s).g).deleg.testBit 0x30 = true ∧ (cx s).w.async = [] ∧
     (s.trapDesc (cx s).g).stall ≤ (cx s).w.stall ∧ Table.sortedFrom 0 s.warps = true ∧ (cx s).w.window = true) ∧
    (let s := (delegates 0).modWg 0 (fun g => { g with opCount := 6, status := .reported })
     (s.trapDesc (cx s).g).deleg.testBit 0x30 = false ∧ (s.trapDesc (cx s).g).oplim ≤ (cx s).g.opCount ∧ (cx s).g.status = .reported) := by
  (repeat' apply And.intro) <;> decide +kernel

/-- A warp with one outstanding load of a word from a location. -/
def loadingFrom (loc attr : Nat) : State := sw (fun w => { w with pend := [{ loads := [⟨3, [5], loc, 4, false, 16, attr, none, false, false⟩] }] })
theorem witness_ResultsAndWalks_kinds :
    (∀ loc ∈ [2 ^ 56, 0x20000, 2 ^ 51], ∀ attr ∈ [0, 1], let s := loadingFrom loc attr
      (cx s).w.pend.length = 1 ∧ s.inSwitch loc = false ∧ (s.core 0).writes = [] ∧ s.unreadRing loc 4 = false ∧ loc % 64 + 4 ≤ 64 ∧
      (s.core 0).copies = [] ∧ (isBank loc || isPhys loc) = true) ∧
    (isPhys 0x20000 = true ∧ isRemote (2 ^ 51) = true ∧ isBank (2 ^ 56) = true) ∧
    (let s := loadingFrom 0x20000 0
     (s.chip 0).cls = 0 ∧ s.ccopies = [] ∧ s.clines = [] ∧ s.badHere 0 0x20000 0 = false) ∧
    (((loadingFrom (locPriv 0 16) 0).setPoison (locPriv 0 16 / 64) true).poisonAt (locPriv 0 16) 4 = true) ∧
    (∀ loc ∈ [locPriv 0 16, 0x20000], let s := writing loc
      Table.sortedFrom 0 s.cores = true ∧ (s.core 0).writes = [(cx s0).write 0 0 [(loc, [7])]] ∧ s.inSwitch loc = false ∧
      Table.find (loc / 16) s.seals = none ∧ (s.chip 0).cls ≠ 2) ∧
    (let s0' := (writing 0x20000).setChip 0 { (writing 0x20000).chip 0 with cls := 2 }
     let s : State := { s0' with clines := [((s0'.setBase 0 0x200).getD 0, ⟨0x200, 0, 0, 0, [], 0, 0, 0, 0, 0⟩)] }
     (s.chip 0).cls = 2 ∧ s.cacheTakes 0 0x20000 0 = true ∧ (s.linePlace 0 (0x20000 / 256) 0).isSome = true ∧
     ((cx s0).write 0 0 [(0x20000, [7])]).attr = 0 ∧ isPhys 0x20000 = true) := by
  (repeat' apply And.intro) <;> decide +kernel

/-- A second entry of the same bin, with a register saved and marked. -/
def entry2 : PondEntry := { entry1 with lane := 5, warpIdx := 1, regs := [(9, 7, true)] }
theorem witness_WindowsAndFormer_bins :
    (let s := windowed ⟨1, 1, false, false, 0, 0, 3, 0⟩ id
     (cx s).g.win = some ⟨1, 1, false, false, 0, 0, 3, 0⟩ ∧ (3 : Nat) ≠ 0) ∧
    (let s := (sg (fun g => { g with pond := [entry1, entry2] })).modCore 0 (fun c => { c with
        pace := { c.pace with now := 256, bins := [(binClock 0 entry1.bin, 0)] } })
     (s.core 0).binOld 0 entry1.bin = true ∧ (∃ e ∈ (cx s).g.pond, e.bin = entry1.bin)) ∧
    (let s := (sg (fun g => { g with pond := [entry1] })).modCore 0 (fun c => { c with
        pace := { c.pace with now := 255, bins := [(binClock 0 entry1.bin, 0)] } })
     (s.core 0).binOld 0 entry1.bin = false) ∧
    (let s := sg (fun g => { g with pond := [entry1, entry2], binWait := [(entry1.bin, 1)] })
     s.wgs = [(0, (cx s).g)] ∧ (cx s).g.pond.head? = some entry1 ∧ (cx s).g.pond.Nodup ∧ (∀ y ∈ (cx s).g.pond, y.bin = entry1.bin) ∧
     Table.get 0 entry1.bin (cx s).g.binWait = 1 ∧ pickGroup (s.coreUse 0).warps (s.coreUse 0).regs (entry1.bin % 512) = some 1) := by
  (repeat' apply And.intro) <;> decide +kernel

/-! The Kudus. -/

theorem witness_HartWorkgroups_failures :
    (let s := (spawning id).modQueue 1 5 (fun q => { q with read := 0, write := 0 })
     s.hubXlate 3 0x50000 .store = none ∧ Table.sortedFrom 0 s.harts = true ∧ Table.sortedFrom 0 s.hubs = true ∧
     (s.queue 1 5).write - (s.queue 1 5).read ≠ 2 ^ (s.queue 1 5).log2size ∧ (s.hub 1).logWrite - (s.hub 1).logRead < 4096) ∧
    (((mapped (spawning id)).setPoison (0x500000 / 64) true).poisonAt 0x500000 64 = true) ∧
    (let s : State := { s0 with hart := 9 }
     (∃ va, ((s.setHart 9 { s.hartOf 9 with regs := [(5, va)] }).hartOf 9).x 5 = va ∧ va.toNat % 4 ≠ 0) ∧
     (match rvXlate s (s.hartOf 9) .rmw (2 ^ 50) with | .ok pa => (paHome pa).isNone | .error _ => true) = true) ∧
    (let r : SyncRec := ⟨5, ⟨0, 0, 0, 1, 9, 9, 0, 0, 0, 0, none⟩⟩
     let s : State := { s0 with hart := 9, recs := [(0x200, r)] }
     Table.find (0x20000 / 256) s.recs = some r ∧ rvXlate s (s.hartOf 9) .rmw 0x20000 = .ok 0x20000 ∧
     ¬ (meeting r.party (hartParty 9) ≤ r.scope ∧ meeting r.party (hartParty 9) ≤ 8)) ∧
    (let r : SyncRec := ⟨8, ⟨0, 0, 0, 1, 9, 9, 0, 0, 0, 0, none⟩⟩
     meeting r.party (hartParty 9) ≤ r.scope ∧ meeting r.party (hartParty 9) ≤ 8 ∧ r.party.chip < 12 ∧ r.party.away = none) ∧
    (let s : State := { s0.setHart 9 { s0.hartOf 9 with waiting := true, seen := some 0 } with hart := 9 }
     (s.hartOf 9).waiting = true ∧ (s.hartOf 9).seen = some (s.line (0x20000 / 256)).wv) := by
  refine ⟨by decide +kernel, by decide +kernel, ⟨⟨1, by decide +kernel, by decide +kernel⟩, by decide +kernel⟩, ?_, ?_, ?_⟩ <;> decide +kernel
theorem witness_IoCores_more :
    (let s : State := ({ s0 with hart := 48 }).setHart 48 { s0.hartOf 48 with events := [(5, 0)], overflow := 2 ^ 32 + 1 }
     (s.hartOf 48).events = (5, 0) :: [] ∧ (s.hartOf 48).overflow ≠ 0 ∧ Table.sortedFrom 0 s.harts = true) ∧
    (let s : State := ({ s0 with hart := 8 }).setHart 8 { s0.hartOf 8 with regs := [(9, 31), (10, 1)] }
     ((s.hartOf 8).x 9).toNat / 32 = 0 ∧ (s.hartOf 8).virt = false ∧ (s.hartOf 8).mode ≠ 0 ∧ Table.sortedFrom 0 s.hubs = true ∧
     Table.sortedFrom 0 (s.hub 1).queues = true ∧ ((s.hartOf 8).x 10).getLsbD 0 = true ∧ ((s.hartOf 8).x 10).getLsbD 63 = false) ∧
    (((s0.setHart 8 { s0.hartOf 8 with virt := true }).hartOf 8).virt = true) := by
  (repeat' apply And.intro) <;> decide +kernel
theorem witness_HartAccesses_more :
    (let s := { s0.setPoison 0x800 true with lastWriter := [(0x200, 79)], dir := [(0x200 * 128 + (12 + 79 / 40) * 8, .modified)] }
     Table.find 0x200 s.lastWriter = some 79 ∧ s.poisonAt (0x200 * 256) 256 = true ∧
     (Table.find (0x200 * 128 + (12 + 79 / 40) * 8) s.dir).isSome = true) ∧
    (let r : SyncRec := ⟨5, ⟨0, 0, 0, 1, 9, 9, 0, 0, 0, 0, none⟩⟩
     let s : State := { s0 with recs := [(0x200, r)] }
     Table.find (0x20008 / 256) s.recs = some r ∧ ¬ (meeting r.party (hartParty 79) ≤ r.scope ∧ meeting r.party (hartParty 79) ≤ 8)) ∧
    (let h : Hart := { s0.hartOf 79 with csrs := [(0x300, 8), (0x304, 2 ^ 17 + 2)] }
     h.pending = [] ∧ h.takes 17 = true ∧ Table.sortedFrom 0 h.csrs = true ∧ h.trapLevel true 17 = .machine) ∧
    (let s := { dispatching with hubs := Table.modify 0 (fun h => { h with holdDue := [4], slots := Table.mapVals (fun x => { x with state := .active }) h.slots }) dispatching.hubs }
     (s.hub 0).holdDue.contains 4 = true ∧ Table.find 0 s.pkts = some pk ∧ pk.vdev = 4 ∧
     (s.hub 0).slots.any (fun e => decide (e.2.state = .active ∧ e.2.pkt = 0)) = true ∧ Table.sortedFrom 0 (s.hub 0).slots = true) := by
  (repeat' apply And.intro) <;> decide +kernel

/-! Boundaries, the copy engine, power, ports, links. -/

theorem witness_Boundaries_cooperative :
    (let s : State := { bounded (fun g => { g with sliceEnd := true }) with pkts := [(0, { pk with coop := true })] }
     Table.sortedFrom 0 s.wgs = true ∧ Table.sortedFrom 0 (s.hub 0).slots = true ∧ (cx s).g.stands = true) ∧
    (let s := bounded id
     (cx s).w.window = false ∧ (cx s).w.step = false) ∧
    (savedState.imageIntact { placedWg with status := .saved, vdev := 4 } = true) := by
  (repeat' apply And.intro) <;> decide +kernel
/-- A load stream of two elements of the record of one at the mapped page. -/
def forming (f : Stream → Stream) : State :=
  ((streaming (f { stm false with total := 2 })).modCore 0 (fun c => { c with ring := [(0, 2)] })).modCore 0 (fun c => { c with
    dtlb := [⟨0, (stm false).record.base, 4096, 0x10000, true, true, false, 0, 0⟩] })
theorem witness_EngineEvents_streams :
    (let x : Stream := { stm false with total := 2 }
     let s := forming id
     (s.core 0).ring = [(0, 2)] ∧ Table.find 2 (cx s).g.streams = some x ∧ x.opened = true ∧ x.fault = none ∧ x.formed < x.total ∧
     (x.queue.length + 1) * x.record.size ≤ 2048 ∧ x.record.clipped (x.record.at x.coords x.formed) = false ∧ x.record.ind = false ∧ x.record.block = false ∧
     (match s.xlate 0 false (cx s).g.asid x.record.base .load 0 with | (.ok pa _ _, _) => (paHome pa).isSome | _ => false) = true ∧
     rangeHit (s.core 0).locks 2 0 x.record.base x.record.size false = false) ∧
    (let x : Stream := { stm false with total := 2, coords := [-1, 0, 0, 0], record := { (stm false).record with clip := true } }
     x.record.clipped (x.record.at x.coords x.formed) = true) ∧
    (let x : Stream := { stm false with formed := 1 }
     x.total ≤ x.formed) ∧
    (let e : Supplied := ⟨0, 2 ^ 56, 0, [1, 2, 3, 4], false, 0, 1⟩
     let x : Stream := { stm true with supplied := [e] }
     let y : Stream := { stm true with supplied := [{ e with order := 0 }] }
     let s := sg (fun g => { g with streams := [(1, y), (2, x)] })
     ∃ v ∈ (cx s).g.streams, v.2.owner = x.owner ∧ ∃ f ∈ v.2.supplied, f.order < e.order ∧ overlaps f.loc f.bytes.length e.loc e.bytes.length = true) ∧
    (let e : StreamElem := ⟨some 0x10000, 0, 1, false, [], false, 0⟩
     let s := streaming { stm false with queue := [e] }
     (s.core 0).writes = [] ∧ s.unreadRing 0x10000 4 = false ∧ Table.find (0x10000 / 64 * 256 + 0) (s.core 0).copies = none) := by
  (repeat' apply And.intro) <;> decide +kernel
theorem witness_EngineEvents_queues :
    (let o := op1 id
     let p := op1 (fun o => { o with id := 8, started := true })
     let s := s0.modCore 0 (fun c => { c with copyQ := [p, o] })
     (s.core 0).copyQ = [p] ++ o :: [] ∧ (∀ x ∈ [p], x.started = true) ∧ o.started = false ∧ (∀ x ∈ [p], x.id ≠ o.id) ∧ o.drain = false) ∧
    (let o := op1 (fun o => { o with form := .drnSt, tile := 1 })
     let m : MatCmd := ⟨3, 0, .aclr 1, none⟩
     let s := s0.modCore 0 (fun c => { c with drainQ := [o], matQ := [m] })
     (s.core 0).drainQ = [] ++ o :: [] ∧ o.drain = true ∧ ∃ m ∈ (s.core 0).matQ, m.wg = o.wg ∧ m.seq < o.id ∧ m.op.writes.contains o.tile = true) ∧
    (let f := fun (o : LeatOp) => { o with started := true, record := clusterRec, count := 1, size := 4 }
     let s := moving f false
     (s.core 0).deliveryDue = false ∧ s.opAhead (op1 f) = false ∧ (op1 f).lost = []) ∧
    (let f := fun (o : LeatOp) => { o with barGen := 1 }
     let s := (moving f false).modWg 0 (fun g => { g with barPend := [⟨1, .init 1, 0, 0⟩] })
     (s.core 0).op 9 = some (op1 f) ∧ s.opAhead (op1 f) = true) ∧
    (let s := (s0.modCore 0 (fun c => { c with followWait := [(9, 0, .aclr 0)] })).modWg 0 (fun g => { g with status := .halting })
     (s.core 0).followWait = (9, 0, .aclr 0) :: [] ∧ ∃ g, Table.find 0 s.wgs = some g ∧ g.status = .halting) := by
  refine ⟨by decide +kernel, by decide +kernel, by decide +kernel, by decide +kernel, by decide +kernel, ⟨_, rfl, by decide +kernel⟩⟩
theorem witness_PowerAndReset_boot :
    (let s := { s0.modHub 1 (fun h => { h with bootFailed := true }) with asleep := true }
     s.asleep = true ∧ (s.hub 0).bootFailed = false ∧ (s.hub 1).bootFailed = true) := by
  (repeat' apply And.intro) <;> decide +kernel
/-- A port being isolated whose chiplet holds a workgroup, an operation, a Modified line and a bank. -/
def isolating (command recover : Bool) (im : Option ShadowImage) : State :=
  let s := { moving id false with dir := [(0x200 * 128, .modified)] }
  let s := s.modWg 0 (fun g => { g with image := im })
  (s.modPort 0 (chipPort 0) (fun p => { p with state := .isolating, command := command })).modHub 0 (fun h => { h with
    slots := [(0, { state := .active, w0 := BitVec.ofNat 32 (2 ^ 31), pkt := 0, stop := 4, recover := recover })] })
theorem witness_Ports_residents :
    (∀ x ∈ [(false, true), (true, true), (true, false)], let s := isolating x.1 x.2 none
      (s.port 0 (chipPort 0)).state = .isolating ∧ coreChip (cx s).g.core = portChip 0 (chipPort 0) ∧ (cx s).g.image = none ∧ s.wgs = [(0, (cx s).g)] ∧
      (cx s).g.status ≠ .retired ∧ s.slotFor 0 0 0 = some 0 ∧ (s.port 0 (chipPort 0)).command = x.1 ∧ (s.slot 0 0).recover = x.2 ∧
      (∃ e ∈ s.dir, e.1 / 128 = 0x200 ∧ e.1 % 128 / 8 = portChip 0 (chipPort 0) ∧ e.2 = .modified) ∧ s.dir = [(0x200 * 128, .modified)] ∧
      (s.hub 0).logWrite - (s.hub 0).logRead < 4096 ∧ Table.sortedFrom 0 s.wgs = true ∧
      (∀ e ∈ s.cores, coreChip e.1 = portChip 0 (chipPort 0) → ∀ o ∈ e.2.copyQ ++ e.2.drainQ, o.bt = none)) ∧
    ((cx (isolating true true (some ⟨0, 0, 64, 0, some []⟩))).g.image = some ⟨0, 0, 64, 0, some []⟩) ∧
    (let s := (s0.modQueue 0 3 (fun q => { q with bound := some 8, enabled := true }))
     (s.queue 0 3).bound = some 8 ∧ Table.find 3 (s.hub 0).queues ≠ none) ∧
    ((s0.hub 0).bootFailed = false ∧ ((s0.modHub 0 (fun h => { h with bootFailed := true })).hub 0).bootFailed = true) := by
  (repeat' apply And.intro) <;> decide +kernel
theorem witness_LinksAndLoops_flits :
    (let d : LinkDir := { sent := 1, next := 1, expect := 0, buffer := [⟨0, ⟨0, 5⟩⟩], discarding := true }
     let s := linked (fun p => { p with toChip := d })
     (s.port 0 2).toChip = d ∧ d.buffer.length < 128 ∧ d.sent = 1 ∧ d.next = 1 ∧ (s.port 0 2).retrain.getLsbD (1 % (s.port 0 2).modules 2) = false) ∧
    (let d : LinkDir := { sent := 2, next := 0, expect := 0, buffer := [⟨0, ⟨0, 5⟩⟩, ⟨1, ⟨0, 6⟩⟩] }
     let s := linked (fun p => { p with toChip := d })
     (s.port 0 2).toChip.buffer = ⟨0, ⟨0, 5⟩⟩ :: [⟨1, ⟨0, 6⟩⟩] ∧ d.next = 0 ∧ d.expect = 0 ∧ d.sent ≠ 0) ∧
    (let s := linked (fun p => { p with retrain := 2 })
     (s.port 0 2).retrain ≠ 0) ∧
    ((({ up := true } : Port).modules 2) ≤ 16 ∧ olderTag 1 2 = true ∧ olderTag 2 2 = false) ∧
    (let s : State := { s0 with clines := [((s0.setBase 0 0x200).getD 0, ⟨0x200, 0, 0, 0, [], 0xF, 0, 0, 0, 0⟩)], dir := [(0x200 * 128, .modified)] }
     s.bankSector (64 * ((2 ^ 56 + ((s0.setBase 0 0x200).getD 0) / 512 * 2 ^ 17 + ((s0.setBase 0 0x200).getD 0) % 512 * 256) / 64)) = some (0, ⟨0x200, 0, 0, 0, [], 0xF, 0, 0, 0, 0⟩, 0x800)) ∧
    (s0.bankSector (64 * (0x20000 / 64)) = none) := by
  (repeat' apply And.intro) <;> decide +kernel
theorem witness_RemoteAccesses_ring :
    (let s := loadingFrom 0x20000 0
     isPhys 0x20000 = true ∧ isRemote 0x20000 = false ∧ (paHome 0x20000).isSome = true ∧ (cx s).w.pend.length = 1) ∧
    (paHome 0x180_0000_0000 = some 1 ∧ coreHub 0 = 0 ∧ isPhys 0x180_0000_0000 = true ∧ isRemote 0x180_0000_0000 = false) := by
  (repeat' apply And.intro) <;> decide +kernel

/-! Connections, the security engine, the checks at issue. -/

theorem witness_Connections_segments :
    (let s := connected id 0 0
     s.inv ∧ (s.connRead 0 (conn1 id) 768).map Prod.fst = some 0 ∧
     (match s.connRead 0 (conn1 id) 768 with
      | some (_, a) => decide (a.hubXlate 3 0x50000 .store = some 0x500000) && (a.ringWrite 0 (conn1 id) 0 [1, 2, 3]).isSome
          && decide (a.hubXlate 3 (0x50000 + 512) .store = some 0x500200) && decide (a.hubXlate 3 (0x50000 + 264) .store = some 0x500108)
      | none => false) = true ∧
     (0 + 2 ^ 12 - 0 : Nat) ≠ 0 ∧ 0 / 256 = (0 + 3 - 1) / 256 ∧ (0x500000 + 2) / 16 < 0x500108 / 16) ∧
    (let s := connected (fun c => { c with rtail := 5, rhead := 5 }) 0 5
     (s.connRead 0 (conn1 (fun c => { c with rtail := 5, rhead := 5 })) 768).map Prod.fst = some 5 ∧ 5 < (6 : Nat) ∧ (2 : Nat) + 3 ≤ 5) ∧
    (let s := connected (fun c => { c with sent := 5, shead := 0 }) 5 0
     s.inv ∧ s.hubXlate 3 (0x50000 + 256) .store = some 0x500100) ∧
    (fieldAt (desc 6) 6 1 = 127 ∧ (let d := (desc 6).take 6 ++ [0x85] ++ (desc 6).drop 7
      fieldAt d 6 1 = 0x85 ∧ 5 < fieldAt d 7 1 % 16) ∧ (s0.modPort 1 0 (fun p => { p with state := .isolated })).kuduGone (53 / 40) = true ∧
      (let s := s0.modPort 1 0 (fun p => { p with state := .running })
       s.kuduGone (53 / 40) = false ∧ (s.hartOf 53).events.length < 256 ∧ Table.sortedFrom 0 s.hubs = true)) := by
  simp only [State.inv, Memory.wf]
  (repeat' apply And.intro) <;> decide +kernel
theorem witness_SecurityCommands_more :
    (∀ b ∈ ([0x41, 0x7F] : List Byte), 0 < b.toNat ∧ b.toNat < 128) ∧ (¬ ∀ b ∈ ([0x41, 0x80] : List Byte), 0 < b.toNat ∧ b.toNat < 128) ∧
    (let s : State := { s0 with worlds := [(255, ⟨3, List.replicate 32 0, true⟩)], clines := [(0, ⟨0x200, 255, 0, 0, [], 0, 0, 0, 0, 0⟩)] }
     Table.find 255 s.worlds ≠ none ∧ s.worldUsed 255 = false ∧ ∃ x ∈ s.clines, x.2.world = 255) ∧
    (let s : State := { s0 with engine := { s0.engine with gathering := some (List.replicate 32 1), leader := true, sent := [(575, [])] } }
     s.engine.gathering = some (List.replicate 32 1) ∧ Table.find 575 s.engine.sent ≠ none ∧ Table.find 575 s.engine.answers = none ∧
     Table.find 574 s.engine.sent = none) ∧
    (List.replicate 320 (0 : Byte)).length = 320 := by
  (repeat' apply And.intro) <;> decide +kernel
theorem witness_IssueChecks_kinds :
    (let s := sw (fun w => { w with trap := true, budget := 64 })
     let c := cx s
     c.w.skips z = false ∧ c.w.trap = true ∧ c.w.budget < 241 ∧ ¬ (c.w.window = true ∧ c.w.trap = false)) ∧
    (let s := sw (fun w => { w with melded := true, meldReg := 4, ren0 := listSet 0 250 w.ren0, ren1 := listSet 0 250 w.ren1 })
     let c := cx s
     c.w.melded = true ∧ c.w.trap = false ∧ c.w.skips z = false ∧ c.act.getLsbD 0 = true ∧ 240 ≤ c.w.rename 240 0) ∧
    (let s := sw (fun w => { w with window := true })
     (cx s).w.window = true ∧ (cx s).w.trap = false) ∧
    (coreEland (cx s0).g.core = false ∧ (cx s0).w.pend = [] ∧ (cx s0).w.landing = [] ∧ (11 : Nat) ≤ (15 : BitVec 4).toNat) ∧
    (let s := sw (fun w => w.setReg 1 ⟨.general, laneSplat 0, 0x80000001#32⟩)
     ((cx s).w.reg ((cx s).w.slot 1 31)).poison.getLsbD 31 = true ∧ (cx s).act.getLsbD 31 = true) := by
  (repeat' apply And.intro) <;> decide +kernel

end Sys2Proof.Tests
end

section
/-! `LI` under a guard that is tagged uniform and whose lanes differ (R68, R70, R92, log entry 34). -/

namespace Sys2Proof.Machine

/-! ## What `LI` does -/

/-- `LI` completes: on the affine unit where R68 sends it there, else on the lane datapath with the tag of R70. -/
theorem completes_li {s : State} {h : Hdr} {c : Ctx} {dst : Reg} (imm : Word) (hr : c.ready s h (useA [] dst)) :
    Completes (.li h dst imm) s c
      (c.w.put c dst.toNat c.act (laneSplat imm) (if c.affineUnit h [dst] true then .uniform else c.laneTag h [])
        (if c.affineUnit h [dst] true then 2 else c.lat 4 5))
      (c.g.counted [(if c.affineUnit h [dst] true then 3 else 2, 1), (1, 1)]) :=
  issues_edit (exec_li h dst imm s) hr rfl rfl rfl

/-- An instruction leaves its warp's workgroup in one way. -/
theorem Completes.wg_unique {i : Instr} {s : State} {c : Ctx} {w w' : Warp} {g g' : Wg} (hc : Completes i s c w g)
    (hc' : Completes i s c w' g') : g = g' := by
  have hs : c.after s (w.stepTo c.wc c.w.next) g = c.after s (w'.stepTo c.wc c.w.next) g' :=
    Host.Outcome.next.inj (hc.symm.trans hc')
  have hg : Table.find c.w.wg (Table.ins c.w.wg g s.wgs) = Table.find c.w.wg (Table.ins c.w.wg g' s.wgs) :=
    congrArg (fun t : State => Table.find c.w.wg t.wgs) hs
  rw [Table.find_ins_self, Table.find_ins_self] at hg
  exact Option.some.inj hg

/-! ## A guard tagged uniform whose lanes differ -/

/-- The state after some instructions of the executing warp, if each answers a next state. -/
def State.afterInstrs (s : State) : List Instr → Option State
  | [] => some s
  | i :: is =>
    match exec i s with
    | .next t => t.afterInstrs is
    | _ => none

/-- `AFF m0, v1, v1` in a melded region, with 1 in every lane of v1 and m0 renamed to v4. Its destination is a melded name, so
the lane datapath executes it (R86), tags v4 uniform by R70 and leaves l + 1 in lane l. -/
def mixedGuardProgram : List Instr := [.li Hdr.plain 1 1, .rnm Hdr.plain 0 4 4, .meld Hdr.plain 2, .aff Hdr.plain 240 1 1]

/-- A warp placed after reset, and that program run. -/
def mixedGuardState : State := ((State.reset.placeVodon 0).afterInstrs mixedGuardProgram).getD State.reset

/-- The header of an instruction guarded by v4. -/
def mixedGuardHdr : Hdr := ⟨0, true, false, 4⟩

/-- The context in which the warp issues under that guard. -/
def mixedGuardCtx : Ctx := (mixedGuardState.ctx mixedGuardHdr).getD ⟨0, placedWarp 0, placedWg, 0⟩

/-- Every instruction of the program answers a next state. -/
theorem mixedGuardProgram_runs : (State.reset.placeVodon 0).afterInstrs mixedGuardProgram = some mixedGuardState := by
  have hsome : ((State.reset.placeVodon 0).afterInstrs mixedGuardProgram).isSome = true := by decide +kernel
  obtain ⟨t, ht⟩ := Option.isSome_iff_exists.mp hsome
  rw [mixedGuardState, ht, Option.getD_some]

theorem mixedGuardCtx_ready : mixedGuardCtx.ready mixedGuardState mixedGuardHdr (useA [] 3) := by
  simp only [Ctx.ready, Use.clear, Ctx.calm]
  decide +kernel

/-- The guard is tagged uniform and holds in the even lanes alone. -/
theorem mixedGuardCtx_guard :
    (mixedGuardCtx.w.reg 4).tag = .uniform ∧ mixedGuardCtx.w.exm = 0xFFFFFFFF#32 ∧ mixedGuardCtx.act = 0x55555555#32 := by
  decide +kernel

/-- R68 sends the guarded `LI` to the affine unit all the same. -/
theorem mixedGuardCtx_affineUnit : mixedGuardCtx.affineUnit mixedGuardHdr [3] true = true := by
  decide +kernel

/-- The counters tell an instruction of the affine unit from one of the lane datapath. -/
theorem mixedGuardCtx_counted_ne : mixedGuardCtx.g.counted [(3, 1), (1, 1)] ≠ mixedGuardCtx.g.counted [(2, 1), (1, 1)] := by
  decide +kernel

end Sys2Proof.Machine

open Sys2Proof Sys2Proof.Machine

/-- Refutes O3: a guard tagged uniform may hold in lane 0 and not in every lane (log entry 34, here after an `AFF` to a melded
name). R68 as the model reads it looks at the tag and at lane 0, so `LI` under that guard goes to the affine unit; the statement
has the lane datapath execute every `LI` that has fewer than 32 lanes active. -/
theorem not_selectCompareImmediate : ¬ Obligations.SelectCompareImmediate := by
  unfold Obligations.SelectCompareImmediate
  rintro ⟨-, himm⟩
  obtain ⟨-, -, hpartial, -⟩ := himm mixedGuardHdr 3 0 7 mixedGuardState mixedGuardCtx
  obtain ⟨-, -, hact⟩ := mixedGuardCtx_guard
  have hmask : mixedGuardCtx.act ≠ 0xFFFFFFFF#32 := by simp [hact]
  have hlane := hpartial mixedGuardCtx_ready (fun ⟨hfull, _⟩ => hmask hfull)
  have haffine := completes_li 7 mixedGuardCtx_ready
  simp only [mixedGuardCtx_affineUnit, if_true] at haffine
  exact mixedGuardCtx_counted_ne (haffine.wg_unique hlane)
end

section
/-! Indirect jumps (R132, R133, R162). -/

namespace Sys2Proof.Machine

/-! ## The lowest-numbered active lane -/

/-- A mask with no lane set has no lowest lane. -/
theorem maskLow_eq_none {m : Mask} (hm : ∀ l, l < 32 → m.getLsbD l = false) : maskLow m = none := by
  simpa [maskLow, lanes, List.find?_eq_none, bitOf] using hm

/-- The lowest lane of a mask is set, and no lane below it is. -/
theorem maskLow_eq_some {m : Mask} {l : Nat} (hl : l < 32) (hset : m.getLsbD l = true)
    (hbelow : ∀ k, k < l → m.getLsbD k = false) : maskLow m = some l := by
  simpa [maskLow, lanes, List.find?_range_eq_some, bitOf, hl, hset] using hbelow

/-! ## What an indirect jump writes besides its target -/

/-- The warp after a link has been written to pair n (R133). -/
def Ctx.linked (c : Ctx) (n : Reg) (tag : Tag) (w : Warp) : Warp :=
  (w.put c n.toNat c.act (laneSplat (c.w.next.setWidth 32)) tag (c.lat 4 5)).put c (n.toNat + 1) c.act
    (laneSplat ((c.w.next >>> 32).setWidth 32)) tag (c.lat 4 5)

/-- A link is an edit of the executing warp alone. -/
theorem State.link_eq (s : State) (c : Ctx) (h : Hdr) (n : Reg) (srcs : List Reg) :
    s.link c h n srcs = s.modWarp c.id (c.linked n (c.laneTag h srcs)) := by
  simp only [State.link, State.put, State.modWarp, Table.modify_modify]
  rfl

/-- Writing nothing is the edit that keeps the executing warp. -/
theorem State.modWarp_ctx_id {s : State} {h : Hdr} {c : Ctx} (hc : s.ctx h = some c) : s.modWarp c.id id = s := by
  obtain ⟨hid, hw, -, -⟩ := State.ctx_spec hc
  rw [← hid] at hw
  simp only [State.modWarp, Table.modify_of_find hw, id, Table.ins_find hw]

/-! ## The three ways an indirect jump goes -/

/-- Reducing an address to 57 bits keeps its low 32 bits. -/
theorem ofNat_32_mod_57 (x : DWord) : BitVec.ofNat 32 (x.toNat % 2 ^ 57) = x.setWidth 32 := by
  apply BitVec.eq_of_toNat_eq
  rw [BitVec.toNat_ofNat, BitVec.toNat_setWidth, Nat.mod_mod_of_dvd _ (Nat.pow_dvd_pow 2 (by decide))]

section
variable {i : Instr} {s : State} {h : Hdr} {c : Ctx} {a : Reg} {dsts : List (Nat × Nat)} {after : Ctx → State → State}
  (he : exec i s = indirect h a dsts after s)
  (hr : c.ready s h { srcs := [srcL a 2], dsts := dsts, window := false, meld := false })
include he hr

/-- With no active lane an indirect jump only goes on. -/
theorem completes_indirect_of_no_leader (hl : c.leader = none) : Completes i s c c.w (c.g.counted [(1, 1)]) :=
  have hnext : c.aim none = c.w.next := rfl
  issues_bare he hr (by simp only [hl]) hnext

/-- An indirect jump to a word goes there, with its warp edited by what it writes besides. -/
theorem continues_indirect {l : Nat} {f : Warp → Warp} (hl : c.leader = some l)
    (hword : ((c.val64 a l).setWidth 57).toNat % 8 = 0) (hafter : after c s = s.modWarp c.id f) :
    Continues i s c (f c.w) (c.g.counted [(1, 1)]) ((c.val64 a l).setWidth 57) := by
  rw [BitVec.toNat_setWidth] at hword
  have haim : c.aim (some ((c.val64 a l).toNat % 2 ^ 57)) = (c.val64 a l).setWidth 57 :=
    BitVec.eq_of_toNat_eq (by simp [Ctx.aim])
  refine issues_plain he hr ?_ rfl haim
  simp only [hl, hafter]
  exact if_neg (not_not.mpr hword)

/-- An indirect jump off a word raises MISALIGN. -/
theorem raises_indirect {l : Nat} (hl : c.leader = some l) (hoff : ((c.val64 a l).setWidth 57).toNat % 8 ≠ 0) :
    exec i s = .next (s.raise c.id (causeVal 0x03 0 ((c.val64 a l).setWidth 32))) := by
  rw [BitVec.toNat_setWidth] at hoff
  refine issues_trap he hr ?_
  simp only [hl, ← ofNat_32_mod_57]
  exact if_pos hoff

/-- How an indirect jump goes, from the active lanes and the lowest one's pair. -/
theorem indirect_spec {w : Tag → Warp} {f : Warp → Warp} (tag : Tag) (hafter : after c s = s.modWarp c.id f)
    (hw : f c.w = w tag) :
    ((∀ l, l < 32 → c.act.getLsbD l = false) → Completes i s c c.w (c.g.counted [(1, 1)])) ∧
    (∀ l, (l < 32 ∧ c.act.getLsbD l = true ∧ ∀ k, k < l → c.act.getLsbD k = false) →
      ((c.val64 a l).setWidth 57).toNat % 8 = 0 →
      ∃ tag, Continues i s c (w tag) (c.g.counted [(1, 1)]) ((c.val64 a l).setWidth 57)) ∧
    (∀ l, (l < 32 ∧ c.act.getLsbD l = true ∧ ∀ k, k < l → c.act.getLsbD k = false) →
      ((c.val64 a l).setWidth 57).toNat % 8 ≠ 0 →
      exec i s = .next (s.raise c.id (causeVal 0x03 0 ((c.val64 a l).setWidth 32)))) := by
  refine ⟨fun hnone => ?_, fun l ⟨hlt, hset, hbelow⟩ hword => ⟨tag, ?_⟩, fun l ⟨hlt, hset, hbelow⟩ hoff => ?_⟩
  · exact completes_indirect_of_no_leader he hr (maskLow_eq_none hnone)
  · exact hw ▸ continues_indirect he hr (maskLow_eq_some hlt hset hbelow) hword hafter
  · exact raises_indirect he hr (maskLow_eq_some hlt hset hbelow) hoff

end

end Sys2Proof.Machine

open Sys2Proof Sys2Proof.Machine

/-- Settles O7: `JMP`, `JMPL` and `RET` are one jump through the leader lane's pair; `JMP` and `RET` keep their warp and `JMPL`
writes the link to it. -/
theorem indirectJumps : Obligations.IndirectJumps := by
  unfold Obligations.IndirectJumps
  intro h a dst s c
  refine ⟨fun hr => ⟨?jmp, ?ret⟩, fun hr => ?jmpl⟩
  case jmp => exact indirect_spec (exec_jmp h a s) hr .general (State.modWarp_ctx_id hr.1).symm rfl
  case ret => exact indirect_spec (exec_ret h a s) hr .general (State.modWarp_ctx_id hr.1).symm rfl
  case jmpl => exact indirect_spec (exec_jmpl h dst a s) hr (c.laneTag h [a, a + 1]) (State.link_eq s c h dst [a, a + 1]) rfl
end
